-- ==== Sys2Proof/Word.lean ====
section
/-! DEFINITION. The word types of the Lanien L7 and the sparse maps that hold its state. -/

namespace Sys2Proof

/-- A byte of memory (R4). -/
abbrev Byte := BitVec 8

/-- A 32-bit word: a v or scalar register, an instruction word. -/
abbrev Word := BitVec 32

/-- A 64-bit word: an a register. -/
abbrev DWord := BitVec 64

/-- A 56-bit virtual address (R66). -/
abbrev VAddr := BitVec 56

/-- A sparse map from numbers: keys strictly rising, and no entry that equals the default of the map's reader, so that
equal maps are equal data. -/
abbrev SMap (α : Type) := List (Nat × α)

end Sys2Proof
end

