-- ==== Sys2Proof/Config.lean ====
section
/-! DEFINITION. The values the manual leaves open, as constants without a body: nothing can evaluate them. Every one is
named in an assumption-log entry (notes/assumptions). -/

namespace Sys2Proof.Config

/-- A free bit for each count of `State.free` and each place it is asked at: which of the two allowed values a read of a
killed register or of a register lane stored through the aperture returns (R88, R109; log entry 2, log entry 6). -/
opaque freeBit : Nat → Nat → Bool

/-- A free 64-bit value for each count of `State.free` and each place it is asked at (DESIGN CHOICE, log entry 2). -/
opaque freeWord : Nat → Nat → BitVec 64

/-- Which of the allowed results a function of R62 gives for an input: `pick f x n` is taken modulo the `n` candidates
within the bound. It is a fixed function of the function's selector and the input bits (R63; log entry 3). -/
opaque transcendental : Nat → BitVec 32 → Nat → Nat

/-- The device's own answers to SPDM requests: digests, signatures and keys (R386, R387; log entry 2). -/
opaque spdmWord : Nat → Nat → BitVec 64

/-- Whether a Barpor port lies on a path to a package (R391; DESIGN CHOICE, log entry 38). -/
opaque onPath : Nat → Nat → Bool

/-- The words of the SHA-256 digest of a firmware image (R387; log entry 15). -/
opaque imageDigest : Nat → Nat → BitVec 64

/-- Whether a firmware image verifies under the vendor key (R388; log entry 2). -/
opaque imageVerifies : Nat → Bool

/-- The security version of a firmware image (R388; log entry 2). -/
opaque imageVersion : Nat → Nat

end Sys2Proof.Config
end

