-- ==== Sys2Proof/Machine/Bits.lean ====
section
/-! DEFINITION. Bit and byte helpers, and the reads and writes of sparse maps, that the meanings share. -/

namespace Sys2Proof.Machine

open Sys2Proof

/-! ### Sparse maps -/

/-- The entry at key `k`, or none. -/
def SMap.find? {α : Type} (m : SMap α) (k : Nat) : Option α :=
  match m with
  | [] => none
  | (k', v) :: rest => if k = k' then some v else SMap.find? rest k

/-- The value at key `k`: the default `d` where nothing is listed. -/
def SMap.get {α : Type} (d : α) (m : SMap α) (k : Nat) : α :=
  (SMap.find? m k).getD d

/-- The map without key `k`. -/
def SMap.erase {α : Type} (m : SMap α) (k : Nat) : SMap α :=
  m.filter fun p => p.1 != k

/-- The map with `v` at key `k`, in rising order of keys. -/
def SMap.insert {α : Type} (m : SMap α) (k : Nat) (v : α) : SMap α :=
  match m with
  | [] => [(k, v)]
  | (k', v') :: rest =>
    if k < k' then (k, v) :: (k', v') :: rest
    else if k = k' then (k, v) :: rest
    else (k', v') :: SMap.insert rest k v

/-- Write `v` at key `k`; writing the default removes the entry. -/
def SMap.put {α : Type} [DecidableEq α] (d : α) (m : SMap α) (k : Nat) (v : α) : SMap α :=
  if v = d then SMap.erase m k else SMap.insert m k v

/-- Change the entry at key `k`, where there is one. -/
def SMap.modify {α : Type} (m : SMap α) (k : Nat) (f : α → α) : SMap α :=
  m.map fun p => if p.1 = k then (p.1, f p.2) else p

/-- The canonical form: keys strictly rising, no default value listed. -/
def SMap.wf {α : Type} [DecidableEq α] (d : α) (m : SMap α) : Bool :=
  match m with
  | [] => true
  | [(_, v)] => v != d
  | (k, v) :: (k', v') :: rest => (v != d) && decide (k < k') && SMap.wf d ((k', v') :: rest)

/-- The least key not below any listed key. -/
def SMap.fresh {α : Type} (m : SMap α) : Nat :=
  m.foldl (fun n p => max n (p.1 + 1)) 0

/-! ### Lists -/

/-- The element at `n`, changed by `f`. -/
def listModify {α : Type} (l : List α) (n : Nat) (f : α → α) : List α :=
  match l, n with
  | [], _ => []
  | x :: xs, 0 => f x :: xs
  | x :: xs, n + 1 => x :: listModify xs n f

/-- The numbers 0 to n - 1. -/
def upTo (n : Nat) : List Nat := List.range n

/-- A sorted merge of member lists: every number below 64 that stands in one of them. -/
def unionLanes (a b : List Nat) : List Nat :=
  (upTo 64).filter fun l => a.contains l || b.contains l

/-- The lanes of `a` that are not in `b`. -/
def diffLanes (a b : List Nat) : List Nat := a.filter fun l => !b.contains l

/-- The least number of a list. -/
def leastOf (l : List Nat) : Option Nat :=
  match l with
  | [] => none
  | x :: xs => match leastOf xs with
    | none => some x
    | some y => some (min x y)

/-! ### Bits -/

/-- The number of one bits among the low `n` bits (R120). -/
def countOnes {w : Nat} (x : BitVec w) : Nat → Nat
  | 0 => 0
  | n + 1 => countOnes x n + (if x.getLsbD n then 1 else 0)

/-- The number of zero bits above the highest one bit among the low `n` bits; `n` when they are all zero (R120). -/
def leadingZeros {w : Nat} (x : BitVec w) : Nat → Nat
  | 0 => 0
  | n + 1 => if x.getLsbD n then 0 else leadingZeros x n + 1

/-- The number of zero bits below the lowest one bit, looked for from bit `i` over `fuel` bits (R120). -/
def trailingZerosFrom {w : Nat} (x : BitVec w) (i : Nat) : Nat → Nat
  | 0 => 0
  | fuel + 1 => if x.getLsbD i then 0 else trailingZerosFrom x (i + 1) fuel + 1

/-- The bits of a 32-bit word in the opposite order (R120). -/
def bitReverse (x : Word) : Word := x.reverse

/-- Byte `j` of a word (R4). -/
def byteOf {w : Nat} (x : BitVec w) (j : Nat) : Byte := x.extractLsb' (8 * j) 8

/-- `n` bytes of a number, lowest first (R4). -/
def bytesOfNat (x : Nat) : Nat → List Byte
  | 0 => []
  | n + 1 => BitVec.ofNat 8 x :: bytesOfNat (x / 256) n

/-- The number that little-endian bytes stand for (R4). -/
def natOfBytes : List Byte → Nat
  | [] => 0
  | b :: bs => b.toNat + 256 * natOfBytes bs

/-- The bits [hi:lo] of a number (R8). -/
def bitsOf (x hi lo : Nat) : Nat := (x / 2 ^ lo) % 2 ^ (hi + 1 - lo)

/-- Bit `n` of a number. -/
def bitOf (x n : Nat) : Bool := x.testBit n

/-- The set of lanes of a 64-bit mask. -/
def lanesOfMask (m : DWord) : List Nat := (upTo 64).filter fun l => m.getLsbD l

/-- The mask of a set of lanes. -/
def maskOfLanes (ls : List Nat) : DWord :=
  ls.foldl (fun m l => m ||| (1#64 <<< l)) 0#64

/-- Clamp an exact integer to a range (R118). -/
def clampInt (lo hi x : Int) : Int := if x < lo then lo else if hi < x then hi else x

/-- The ceiling of a quotient. -/
def ceilDiv (a b : Nat) : Nat := (a + b - 1) / b

end Sys2Proof.Machine
end

