-- ==== Sys2Proof/Machine/Float.lean ====
section
/-! DEFINITION. Number formats and rounding (R43 to R63): exact values as signed integers times powers of two, one rounding
function, and the floating-point operations built on them. -/

namespace Sys2Proof.Machine

open Sys2Proof

/-- A floating-point format: exponent bits, fraction bits, bias (R43, R45, R46). -/
structure FFmt where
  eb   : Nat
  mb   : Nat
  bias : Int
  deriving DecidableEq, Repr

/-- The formats of R43, R45 and R46. -/
def fmt32 : FFmt := ⟨8, 23, 127⟩
def fmtBf16 : FFmt := ⟨8, 7, 127⟩
def fmtFp16 : FFmt := ⟨5, 10, 15⟩
def fmtE4 : FFmt := ⟨4, 3, 7⟩
def fmtE5 : FFmt := ⟨5, 2, 15⟩
def fmtFp4 : FFmt := ⟨2, 1, 1⟩

/-- The exponent of a format's last subnormal place. -/
def FFmt.qmin (f : FFmt) : Int := 1 - f.bias - f.mb

/-- The bits of a format's infinity, sign clear (R43). -/
def FFmt.infBits (f : FFmt) : Nat := (2 ^ f.eb - 1) * 2 ^ f.mb

/-- The sign bit of a format. -/
def FFmt.signBit (f : FFmt) : Nat := 2 ^ (f.eb + f.mb)

/-- The canonical NaN of a format with infinities (R43, R45). -/
def FFmt.nanBits (f : FFmt) : Nat := f.infBits + 2 ^ (f.mb - 1)

/-- A value: a NaN, signalling or not, an infinity, or (-1)^neg × m × 2^e. -/
inductive FVal where
  | nan (signalling : Bool)
  | inf (neg : Bool)
  | fin (neg : Bool) (m : Nat) (e : Int)
  deriving DecidableEq, Repr

/-- fmode flag bits (R54). -/
def flagNV : Word := 0x400#32
def flagDZ : Word := 0x800#32
def flagOF : Word := 0x1000#32
def flagUF : Word := 0x2000#32
def flagNX : Word := 0x4000#32
def flagZS : Word := 0x8000#32

/-- A flag where a condition holds. -/
def flagIf (b : Bool) (f : Word) : Word := if b then f else 0#32

/-- A rounding mode (R54). -/
inductive RMode where
  | rne
  | rtz
  | rdn
  | rup
  deriving DecidableEq, Repr

/-- The mode that two bits name (R54). -/
def RMode.ofBits (b : BitVec 2) : RMode :=
  if b = 0#2 then .rne else if b = 1#2 then .rtz else if b = 2#2 then .rdn else .rup

/-- The controls of a floating-point instruction (R140). -/
structure FCtl where
  mode : RMode
  fin  : Bool
  fout : Bool
  deriving DecidableEq, Repr

/-- A result with the flags it sets. -/
structure FRes where
  bits  : Nat
  flags : Word := 0#32
  deriving DecidableEq, Repr

/-- The value of a pattern in a format with infinities and NaNs (R43). -/
def decodeF (f : FFmt) (x : Nat) : FVal :=
  let neg := x / f.signBit % 2 = 1
  let ef := x / 2 ^ f.mb % 2 ^ f.eb
  let fr := x % 2 ^ f.mb
  if ef = 2 ^ f.eb - 1 then
    if fr = 0 then .inf neg else .nan (fr / 2 ^ (f.mb - 1) % 2 = 0)
  else if ef = 0 then .fin neg fr f.qmin
  else .fin neg (2 ^ f.mb + fr) (f.qmin + ef - 1)

/-- Whether a pattern of a format is subnormal. -/
def isSubnormal (f : FFmt) (x : Nat) : Bool :=
  x / 2 ^ f.mb % 2 ^ f.eb = 0 && x % 2 ^ f.mb != 0

/-- A pattern read under FIN: a subnormal becomes a zero of its sign (R59). -/
def flushIn (f : FFmt) (on : Bool) (x : Nat) : Nat :=
  if on && isSubnormal f x then x - x % 2 ^ f.mb else x

/-- `m × 2^e` as a multiple of `2^q`, rounded under a mode; and whether it is inexact (R56). -/
def roundAt (mode : RMode) (neg : Bool) (m : Nat) (e q : Int) : Nat × Bool :=
  if q ≤ e then (m * 2 ^ (e - q).toNat, false)
  else
    let s := (q - e).toNat
    let k := m / 2 ^ s
    let r := m % 2 ^ s
    if r = 0 then (k, false)
    else
      let up := match mode with
        | .rne => 2 * r > 2 ^ s || (2 * r = 2 ^ s && k % 2 = 1)
        | .rtz => false
        | .rdn => neg
        | .rup => !neg
      (if up then k + 1 else k, true)

/-- The magnitude bits of a non-zero value rounded to a format with an unbounded exponent above, whether it is inexact,
and whether it is tiny (R56, R141). -/
def roundBits (f : FFmt) (mode : RMode) (neg : Bool) (m : Nat) (e : Int) : Nat × Bool × Bool :=
  let top : Int := (Nat.log2 m : Int) + e
  let q := max (top - f.mb) f.qmin
  let (k, nx) := roundAt mode neg m e q
  let norm := f.qmin + f.mb
  let free := roundAt mode neg m e (top - f.mb)
  let tiny := top < norm && !(top = norm - 1 && free.1 = 2 ^ (f.mb + 1))
  ((q - f.qmin).toNat * 2 ^ f.mb + k, nx, tiny)

/-- An exact value rounded once to a format with infinities, as an arithmetic result (R56, R141, R59). -/
def roundF (f : FFmt) (c : FCtl) (neg : Bool) (m : Nat) (e : Int) : FRes :=
  let sg := if neg then f.signBit else 0
  if m = 0 then ⟨sg, 0#32⟩
  else
    let (b, nx, tiny) := roundBits f c.mode neg m e
    if f.infBits ≤ b then
      let toInf := match c.mode with
        | .rne => true
        | .rtz => false
        | .rdn => neg
        | .rup => !neg
      ⟨sg + (if toInf then f.infBits else f.infBits - 1), flagOF ||| flagNX⟩
    else if c.fout && b < 2 ^ f.mb && b != 0 then ⟨sg, flagUF ||| flagNX⟩
    else ⟨sg + b, flagIf nx flagNX ||| flagIf (tiny && nx) flagUF⟩

/-- The signed integer of a finite value. -/
def sgnInt (neg : Bool) (m : Nat) : Int := if neg then -(m : Int) else m

/-- The exact sum of two finite values, as an integer times a power of two. -/
def exactAdd (a : Int) (ea : Int) (b : Int) (eb : Int) : Int × Int :=
  let e := min ea eb
  (a * 2 ^ (ea - e).toNat + b * 2 ^ (eb - e).toNat, e)

/-- The sign of an exact zero sum of zeros or of opposite values (R141). -/
def zeroSumNeg (mode : RMode) (na nb : Bool) : Bool :=
  if na = nb then na else mode = .rdn

/-- A value, as bits of a format: rounded when finite, canonical when NaN (R44). -/
def packF (f : FFmt) (c : FCtl) (v : FVal) (flags : Word) : FRes :=
  match v with
  | .nan _ => ⟨f.nanBits, flags⟩
  | .inf n => ⟨(if n then f.signBit else 0) + f.infBits, flags⟩
  | .fin n m e => let r := roundF f c n m e; ⟨r.bits, r.flags ||| flags⟩

/-- Whether a value is a signalling NaN. -/
def FVal.isSig : FVal → Bool
  | .nan s => s
  | _ => false

/-- Whether a value is a NaN. -/
def FVal.isNan : FVal → Bool
  | .nan _ => true
  | _ => false

/-- The same value with its sign inverted. -/
def FVal.negate : FVal → FVal
  | .nan s => .nan s
  | .inf n => .inf (!n)
  | .fin n m e => .fin (!n) m e

/-- The exact sum of two values and NV (R142). -/
def addV (mode : RMode) (a b : FVal) : FVal × Word :=
  if a.isNan || b.isNan then (.nan false, flagIf (a.isSig || b.isSig) flagNV)
  else match a, b with
    | .inf x, .inf y => if x = y then (.inf x, 0#32) else (.nan false, flagNV)
    | .inf x, _ => (.inf x, 0#32)
    | _, .inf y => (.inf y, 0#32)
    | .fin na ma ea, .fin nb mb eb =>
      let (s, e) := exactAdd (sgnInt na ma) ea (sgnInt nb mb) eb
      if s = 0 then
        (.fin (if ma = 0 && mb = 0 then zeroSumNeg mode na nb else mode = .rdn) 0 0, 0#32)
      else (.fin (s < 0) s.natAbs e, 0#32)
    | _, _ => (.nan false, 0#32)

/-- The exact product of two values and NV (R142). -/
def mulV (a b : FVal) : FVal × Word :=
  if a.isNan || b.isNan then (.nan false, flagIf (a.isSig || b.isSig) flagNV)
  else match a, b with
    | .inf x, .inf y => (.inf (x != y), 0#32)
    | .inf x, .fin y m _ => if m = 0 then (.nan false, flagNV) else (.inf (x != y), 0#32)
    | .fin x m _, .inf y => if m = 0 then (.nan false, flagNV) else (.inf (x != y), 0#32)
    | .fin na ma ea, .fin nb mb eb => (.fin (na != nb) (ma * mb) (ea + eb), 0#32)
    | _, _ => (.nan false, 0#32)

/-- The value a + b rounded to a format. -/
def addF (f : FFmt) (c : FCtl) (a b : Nat) : FRes :=
  let (v, fl) := addV c.mode (decodeF f (flushIn f c.fin a)) (decodeF f (flushIn f c.fin b))
  packF f c v fl

/-- The value a - b rounded to a format. -/
def subF (f : FFmt) (c : FCtl) (a b : Nat) : FRes :=
  let (v, fl) := addV c.mode (decodeF f (flushIn f c.fin a)) (decodeF f (flushIn f c.fin b)).negate
  packF f c v fl

/-- The value a × b rounded to a format. -/
def mulF (f : FFmt) (c : FCtl) (a b : Nat) : FRes :=
  let (v, fl) := mulV (decodeF f (flushIn f c.fin a)) (decodeF f (flushIn f c.fin b))
  packF f c v fl

/-- The value a × b + d with one rounding (R142): a product 0 × ∞ sets NV whatever d is. -/
def macF (f : FFmt) (c : FCtl) (a b d : Nat) : FRes :=
  let vd := decodeF f (flushIn f c.fin d)
  let (p, fl) := mulV (decodeF f (flushIn f c.fin a)) (decodeF f (flushIn f c.fin b))
  let (v, fl2) := addV c.mode p vd
  packF f c v (fl ||| fl2)

/-- The value |a - b| rounded; an exact zero is +0 (R143). -/
def abdF (f : FFmt) (c : FCtl) (a b : Nat) : FRes :=
  let (v, fl) := addV .rne (decodeF f (flushIn f c.fin a)) (decodeF f (flushIn f c.fin b)).negate
  let v' := match v with
    | .nan s => .nan s
    | .inf _ => .inf false
    | .fin _ m e => .fin false m e
  packF f c v' fl

/-- How two values that are not NaN compare, −0 and +0 equal: -1, 0 or 1. -/
def cmpV (a b : FVal) : Int :=
  match a, b with
  | .inf x, .inf y => if x = y then 0 else if x then -1 else 1
  | .inf x, _ => if x then -1 else 1
  | _, .inf y => if y then 1 else -1
  | .fin na ma ea, .fin nb mb eb =>
    let s := (exactAdd (sgnInt na ma) ea (-(sgnInt nb mb)) eb).1
    if s < 0 then -1 else if s = 0 then 0 else 1
  | _, _ => 0

/-- Whether a pattern of a format has its sign bit set. -/
def signF (f : FFmt) (x : Nat) : Bool := x / f.signBit % 2 = 1

/-- fmin and fmax (R143): −0 below +0, the other operand of one NaN, the canonical NaN of two. -/
def minMaxF (f : FFmt) (c : FCtl) (max : Bool) (a b : Nat) : FRes :=
  let a := flushIn f c.fin a
  let b := flushIn f c.fin b
  let va := decodeF f a
  let vb := decodeF f b
  let nv := flagIf (va.isSig || vb.isSig) flagNV
  if va.isNan && vb.isNan then ⟨f.nanBits, nv⟩
  else if va.isNan then ⟨b, nv⟩
  else if vb.isNan then ⟨a, nv⟩
  else
    let less := cmpV va vb < 0 || (cmpV va vb = 0 && signF f a && !signF f b)
    ⟨if less != max then a else b, nv⟩

/-- fsgnj: bits of a with the sign of b; a NaN in a gives the canonical NaN (R143). -/
def sgnjF (a b : Nat) : FRes :=
  let va := decodeF fmt32 a
  if va.isNan then ⟨fmt32.nanBits, flagIf va.isSig flagNV⟩
  else ⟨a % 2 ^ 31 + b / 2 ^ 31 % 2 * 2 ^ 31, 0#32⟩

/-- fneg and fabs (R144). -/
def signOpF (abs : Bool) (a : Nat) : FRes :=
  let va := decodeF fmt32 a
  if va.isNan then ⟨fmt32.nanBits, flagIf va.isSig flagNV⟩
  else if abs then ⟨a % 2 ^ 31, 0#32⟩
  else ⟨a % 2 ^ 31 + (1 - a / 2 ^ 31 % 2) * 2 ^ 31, 0#32⟩

/-- Rounding to an integral value; `nx` tells whether NX is set when the value changes (R144). -/
def integralF (mode : RMode) (nx : Bool) (fin : Bool) (a : Nat) : FRes :=
  let a := flushIn fmt32 fin a
  match decodeF fmt32 a with
  | .nan s => ⟨fmt32.nanBits, flagIf s flagNV⟩
  | .inf _ => ⟨a, 0#32⟩
  | .fin n m e =>
    if 0 ≤ e then ⟨a, 0#32⟩
    else
      let (k, inexact) := roundAt mode n m e 0
      let r := roundF fmt32 ⟨.rne, false, false⟩ n k 0
      ⟨r.bits, flagIf (inexact && nx) flagNX⟩

/-- fcmp (R146). -/
def fcmpHolds (cond : Nat) (fin : Bool) (a b : Nat) : Bool × Word :=
  let va := decodeF fmt32 (flushIn fmt32 fin a)
  let vb := decodeF fmt32 (flushIn fmt32 fin b)
  let un := va.isNan || vb.isNan
  let sig := flagIf (va.isSig || vb.isSig) flagNV
  let c := cmpV va vb
  match cond with
  | 0 => (!un && c = 0, sig)
  | 1 => (un || c != 0, sig)
  | 2 => (!un && c < 0, flagIf un flagNV)
  | 3 => (!un && c ≤ 0, flagIf un flagNV)
  | 4 => (!un && 0 < c, flagIf un flagNV)
  | 5 => (!un && 0 ≤ c, flagIf un flagNV)
  | 6 => (!un, sig)
  | _ => (un, sig)

/-- fclass (R78, R147). -/
def fclassHolds (cls : Nat) (a : Nat) : Bool :=
  let neg := signF fmt32 a
  let sub := isSubnormal fmt32 a
  let zero := a % 2 ^ 31 = 0
  let inf := a % 2 ^ 31 = fmt32.infBits
  let nan := a % 2 ^ 31 > fmt32.infBits
  let snan := nan && a / 2 ^ 22 % 2 = 0
  let norm := !sub && !zero && !inf && !nan
  match cls with
  | 0 => inf && neg
  | 1 => norm && neg
  | 2 => sub && neg
  | 3 => zero && neg
  | 4 => zero && !neg
  | 5 => sub && !neg
  | 6 => norm && !neg
  | 7 => inf && !neg
  | 8 => snan
  | 9 => nan && !snan
  | 10 => nan
  | 11 => inf
  | 12 => zero
  | _ => sub

/-! ### Roots and transcendental functions (R62) -/

/-- The integer square root, by one bit of the result at a time. -/
def isqrtGo (n : Nat) (r : Nat) : Nat → Nat
  | 0 => r
  | k + 1 =>
    let r' := r + 2 ^ k
    isqrtGo n (if r' * r' ≤ n then r' else r) k

/-- The integer square root of `n`. -/
def isqrt (n : Nat) : Nat := isqrtGo n 0 (Nat.log2 n / 2 + 1)

/-- fsqrt, correctly rounded (R62). -/
def sqrtF (c : FCtl) (a : Nat) : FRes :=
  let a := flushIn fmt32 c.fin a
  match decodeF fmt32 a with
  | .nan s => ⟨fmt32.nanBits, flagIf s flagNV⟩
  | .inf n => if n then ⟨fmt32.nanBits, flagNV⟩ else ⟨a, 0#32⟩
  | .fin n m e =>
    if m = 0 then ⟨a, 0#32⟩
    else if n then ⟨fmt32.nanBits, flagNV⟩
    else
      let m0 := if e % 2 = 0 then m else 2 * m
      let e0 := if e % 2 = 0 then e else e - 1
      let big := m0 * 2 ^ 64
      let r := isqrt big
      let r' := if r * r = big then 2 * r else 2 * r + 1
      roundF fmt32 c false r' (e0 / 2 - 33)

/-- Places of the fixed-point approximations below. -/
def fxP : Nat := 160

/-- ln 2 in fixed point: Σ 1 / (n 2^n). -/
def fxLn2 : Nat := (upTo 180).foldl (fun s n => s + 2 ^ fxP / ((n + 1) * 2 ^ (n + 1))) 0

/-- e^z - the exponential series of a fixed-point number below 1, over `n` terms. -/
def fxExpGo (z term acc k : Nat) : Nat → Nat
  | 0 => acc
  | n + 1 => let t := term * z / 2 ^ fxP / k; fxExpGo z t (acc + t) (k + 1) n

/-- e^z for a fixed-point z in [0, 1). -/
def fxExp (z : Nat) : Nat := fxExpGo z (2 ^ fxP) (2 ^ fxP) 1 48

/-- The fraction bits of log2 of a fixed-point number in [1, 2), one squaring a bit. -/
def fxLog2Go (z acc : Nat) : Nat → Nat
  | 0 => acc
  | n + 1 =>
    let z2 := z * z / 2 ^ fxP
    if 2 ^ (fxP + 1) ≤ z2 then fxLog2Go (z2 / 2) (2 * acc + 1) n else fxLog2Go z2 (2 * acc) n

/-- sin and cos series of a fixed-point angle: alternating terms z^k / k!. -/
def fxTrigGo (z2 : Nat) (term : Int) (acc : Int) (k : Nat) : Nat → Int
  | 0 => acc
  | n + 1 =>
    let t := -(term * z2) / (2 ^ fxP * (k * (k + 1)))
    fxTrigGo z2 t (acc + t) (k + 2) n

/-- arctan of 1/d in fixed point with `p` places, for Machin's formula. -/
def fxAtanGo (p d2 : Nat) (pow : Nat) (acc : Int) (k : Nat) (neg : Bool) : Nat → Int
  | 0 => acc
  | n + 1 =>
    let t : Int := (pow / k : Nat)
    fxAtanGo p d2 (pow / d2) (if neg then acc - t else acc + t) (k + 2) (!neg) n

/-- π with `p` binary places, by Machin's formula 16 arctan(1/5) - 4 arctan(1/239). -/
def fxPi (p : Nat) : Nat :=
  (16 * fxAtanGo p 25 (2 ^ p / 5) 0 1 false (p / 4 + 8)
    - 4 * fxAtanGo p (239 * 239) (2 ^ p / 239) 0 1 false (p / 8 + 8)).toNat

/-- A non-negative value m × 2^e in fixed point with `p` places, rounded down. -/
def fxOf (p m : Nat) (e : Int) : Nat :=
  if 0 ≤ e + p then m * 2 ^ (e + p).toNat else m / 2 ^ (-(e + p)).toNat

/-- e^(2|x|) style argument for tanh and exponents: 2^(y) of a fixed-point y ≥ 0, as (mantissa, exponent). -/
def fxExp2 (y : Nat) : Nat × Int :=
  let i := y / 2 ^ fxP
  let r := y % 2 ^ fxP
  (fxExp (r * fxLn2 / 2 ^ fxP), (i : Int) - fxP)

/-- sin or cos of |x| with the reduced angle: the magnitude and sign of the result. -/
def fxTrig (cos : Bool) (m : Nat) (e : Int) : Bool × Nat :=
  let wide := 320
  let pi := fxPi wide
  let x := fxOf wide m e
  let k := 2 * x / pi
  let r := (x - k * pi / 2) / 2 ^ (wide - fxP)
  let q := (k + if cos then 1 else 0) % 4
  let z2 := r * r / 2 ^ fxP
  let s := fxTrigGo z2 r r 2 28
  let c := fxTrigGo z2 (2 ^ fxP) (2 ^ fxP) 1 28
  let v : Int := if q % 2 = 0 then s else c
  (2 ≤ q, v.toNat)

/-! Each function of R62 below has a magnitude in fixed point, a bracket of the FP32 magnitudes within its bound, and a choice of
one of them that keeps the function monotonic (log entry 3). A function is named by its selector (R144). -/

/-- The magnitude bits of `m × 2^e` in FP32, rounded up or down, infinity above the range. -/
def magBits (up : Bool) (m : Nat) (e : Int) : Nat :=
  if m = 0 then 0 else min (roundBits fmt32 (if up then .rup else .rtz) false m e).1 fmt32.infBits

/-- The magnitude of 1 / (m × 2^e), and whether it is exact. -/
def rcpMag (m : Nat) (e : Int) : Nat × Int × Bool :=
  let l := Nat.log2 m
  if 2 ^ l = m then (1, -(e + l), true) else (2 ^ 96 / m, -96 - e, false)

/-- The magnitude of 1 / √(m × 2^e). -/
def rsqMag (m : Nat) (e : Int) : Nat × Int × Bool :=
  let m0 := if e % 2 = 0 then m else 2 * m
  let e0 := if e % 2 = 0 then e else e - 1
  let l := Nat.log2 m0
  if 2 ^ l = m0 && l % 2 = 0 then (1, -((e0 + l) / 2), true) else (isqrt (2 ^ 192 / m0), -96 - e0 / 2, false)

/-- The magnitude of 2^x. -/
def exp2Mag (n : Bool) (m : Nat) (e : Int) : Nat × Int × Bool :=
  let int := roundAt .rtz n m e 0
  if !int.2 && (if n then int.1 ≤ 149 else int.1 ≤ 127) then (1, sgnInt n int.1, true)
  else if 160 ≤ int.1 then (1, if n then -200 else 200, false)
  else
    let y := fxOf fxP m e
    let i : Int := if n then -((y / 2 ^ fxP : Nat) : Int) - 1 else ((y / 2 ^ fxP : Nat) : Int)
    let fr := if n then 2 ^ fxP - y % 2 ^ fxP else y % 2 ^ fxP
    (min (fxExp (fr * fxLn2 / 2 ^ fxP)) (2 ^ (fxP + 1) - 1), i - fxP, false)

/-- The magnitude of log2 (m × 2^e). -/
def log2Mag (m : Nat) (e : Int) : Nat × Int × Bool :=
  let l := Nat.log2 m
  let k : Int := l + e
  if 2 ^ l = m then (k.natAbs, 0, true)
  else (Int.natAbs (k * 2 ^ 96 + fxLog2Go (m * 2 ^ fxP / 2 ^ l) 0 96), -96, false)

/-- The magnitude of tanh (m × 2^e): (1 - u) / (1 + u) with u = e^(-2x); x - x^3/3 for small x. -/
def tanhMag (m : Nat) (e : Int) : Nat × Int × Bool :=
  let top : Int := Nat.log2 m + e
  if top < -20 then (m * 2 ^ 80 - m * m * m * 2 ^ 80 / (3 * 2 ^ (-(2 * e)).toNat) - 1, e - 80, false)
  else if 6 ≤ top then (2 ^ 60 - 1, -60, false)
  else
    let (um, ue) := fxExp2 (2 * fxOf fxP m e * 2 ^ fxP / fxLn2)
    let big := fxOf (2 * fxP) um ue
    let one := 2 ^ (2 * fxP)
    ((big - one) * 2 ^ fxP / (big + one), -(fxP : Int), false)

/-- The magnitude of sin or cos of m × 2^e. -/
def trigMag (cos : Bool) (m : Nat) (e : Int) : Nat × Int × Bool :=
  let top : Int := Nat.log2 m + e
  if top < -20 then
    if cos then (2 ^ 60 - 1, -60, false)
    else (m * 2 ^ 80 - m * m * m * 2 ^ 80 / (6 * 2 ^ (-(2 * e)).toNat) - 1, e - 80, false)
  else ((fxTrig cos m e).2, -(fxP : Int), false)

/-- The magnitude of the function of selector `sel` at a finite non-zero input, as `m × 2^e`, and whether it is exact; where it is
not, the true magnitude lies strictly above. -/
def mathMag (sel a : Nat) : Nat × Int × Bool :=
  match decodeF fmt32 a with
  | .fin n m e => match sel with
    | 0x16 => rcpMag m e
    | 0x17 => rsqMag m e
    | 0x19 => exp2Mag n m e
    | 0x1A => log2Mag m e
    | 0x1B => tanhMag m e
    | _ => trigMag (sel = 0x1D) m e
  | _ => (0, 0, true)

/-- The bound of a function in ulps (R62). -/
def mathUlps (sel : Nat) : Nat := if sel ≤ 0x17 then 1 else 2

/-- The FP32 magnitudes within the bound of a function at an input, from the lowest to the highest: an ulp is one of the exact
result, 2^-149 where it is subnormal (R62). -/
def mathBound (sel a : Nat) : Nat × Nat :=
  let (m, e, exact) := mathMag sel a
  if exact then (magBits false m e, magBits false m e)
  else
    let q := max ((Nat.log2 m : Int) + e - 23) (-149)
    let e0 := min e q
    let mid := 2 * (m * 2 ^ (e - e0).toNat) + 1
    let w := 2 * (mathUlps sel * 2 ^ (q - e0).toNat)
    (magBits true (mid - w) (e0 - 1), magBits false (mid + w) (e0 - 1))

/-- The magnitudes that a function takes exactly at inputs on either side of one, between which its monotonicity confines it
(R62). -/
def mathCaps (sel a : Nat) : Nat × Nat :=
  let (m, e, _) := mathMag sel a
  let k := (Nat.log2 m : Int) + e
  let at_ := fun (k : Int) => magBits false 1 k
  match sel with
  | 0x16 => (at_ k, at_ (k + 1))
  | 0x17 => (if k = -64 then 0 else at_ k, at_ (k + 1))
  | 0x19 => (at_ k, max 1 (at_ (k + 1)))
  | 0x1A =>
    let i := (roundAt .rtz false m e 0).1
    (magBits false i 0, magBits false (i + 1) 0)
  | 0x1B => (0, 0x3F800000)
  | 0x1D => (0, if a / 2 ^ 31 = 0 then 0x3F800000 else fmt32.infBits)
  | _ => (0, fmt32.infBits)

/-- The run of input magnitudes around an input over which a function is monotonic and keeps the sign of its result, and whether the
magnitude of the result falls as the input's rises; none outside the intervals of R62. -/
def mathRun (sel a : Nat) : Option (Nat × Nat × Bool) :=
  let neg := a / 2 ^ 31 % 2 = 1
  let t := a % 2 ^ 31
  match sel with
  | 0x16 | 0x17 => some (1, 0x7F7FFFFF, true)
  | 0x19 => some (if neg then (1, 0x7F7FFFFF, true) else (1, 0x42FFFFFF, false))
  | 0x1A => some (if t < 0x3F800000 then (1, 0x3F7FFFFF, true) else (0x3F800001, 0x7F7FFFFF, false))
  | 0x1B => some (1, 0x7F7FFFFF, false)
  | 0x1C => if t ≤ 0x3FC90FDB then some (1, 0x3FC90FDB, false) else none
  | _ => if neg then none
    else if t < 0x3FC90FDB then some (1, 0x3FC90FDA, true)
    else if t ≤ 0x40490FDB then some (0x3FC90FDB, 0x40490FDB, false) else none

/-- The lower bound that inputs of a smaller result put on one whose result lies just above a power of two `2^k`, where an ulp
doubles: that of the nearest such input, looked for over `fuel` inputs, and 2^k less the bound when they are closer. -/
def mathDip (sel run0 run1 : Nat) (falls : Bool) (k : Int) (a : Nat) : Nat → Nat
  | 0 =>
    let q := k - 24
    magBits true (2 ^ 24 - mathUlps sel) q
  | fuel + 1 =>
    let t := a % 2 ^ 31
    if (if falls then run1 ≤ t else t ≤ run0) then 0
    else
      let p := if falls then a + 1 else a - 1
      let (m, e, _) := mathMag sel p
      if (Nat.log2 m : Int) + e < k then (mathBound sel p).1 else mathDip sel run0 run1 falls k p fuel

/-- The lowest and highest magnitudes that the bound and the monotonicity of a function leave to an input of its run. -/
def mathRange (sel run0 run1 : Nat) (falls : Bool) (a : Nat) : Nat × Nat :=
  let (m, e, exact) := mathMag sel a
  let b := mathBound sel a
  if exact then b
  else
    let c := mathCaps sel a
    let k := (Nat.log2 m : Int) + e
    let dip := if sel ≤ 0x19 || k ≤ -126 || magBits false 1 k ≤ b.1 then 0 else mathDip sel run0 run1 falls k a 8
    (max (max b.1 c.1) dip, min b.2 c.2)

/-- A magnitude among those of a range, as the free values choose (log entry 3). -/
def mathPick (key a lo hi : Nat) : Nat := lo + Config.transcendental key (BitVec.ofNat 32 a) (hi + 1 - lo) % (hi + 1 - lo)

/-- The result of a monotonic function at input magnitude `t`: the middle of the run is settled first, within what the bound and the
results already settled on either side leave, then the middle of the half that holds `t`, and so on. -/
def mathDescend (sel key sign run0 run1 : Nat) (falls : Bool) (t l r fl fr : Nat) : Nat → Nat
  | 0 => fl
  | fuel + 1 =>
    let mid := (l + r) / 2
    let b := mathRange sel run0 run1 falls (sign + mid)
    let v := mathPick key (sign + mid) (max b.1 (if falls then fr else fl)) (min b.2 (if falls then fl else fr))
    if mid = t then v
    else if t < mid then mathDescend sel key sign run0 run1 falls t l mid fl v fuel
    else mathDescend sel key sign run0 run1 falls t mid r v fr fuel

/-- The magnitude that a function gives an input (R62, R63): a fixed choice for each of FIN and FOUT, within the bound, monotonic
where R62 says so (DESIGN CHOICE, log entry 3). -/
def mathMagnitude (sel : Nat) (c : FCtl) (a : Nat) : Nat :=
  let key := sel + (if c.fin then 256 else 0) + (if c.fout then 512 else 0)
  match mathRun sel a with
  | none => let b := mathBound sel a; mathPick key a b.1 b.2
  | some (lo, hi, falls) =>
    let ends := (0, fmt32.infBits)
    mathDescend sel key (a - a % 2 ^ 31) lo hi falls (a % 2 ^ 31) (lo - 1) (hi + 1)
      (if falls then ends.2 else ends.1) (if falls then ends.1 else ends.2) 32

/-- The result of a function at a finite non-zero input: exact where R62 says so, and otherwise inexact, with UF when tiny (R62, R63,
R141). -/
def mathResult (sel : Nat) (c : FCtl) (neg : Bool) (a : Nat) : FRes :=
  let (m, e, exact) := mathMag sel a
  if exact then roundF fmt32 ⟨.rne, c.fin, c.fout⟩ neg m e
  else
    let r := mathMagnitude sel c a
    let sg := if neg then 2 ^ 31 else 0
    if r = fmt32.infBits then ⟨sg + r, flagOF ||| flagNX⟩
    else if r < 2 ^ 23 then ⟨if c.fout then sg else sg + r, flagUF ||| flagNX⟩
    else ⟨sg + r, flagNX⟩

/-- A NaN source of a function of R62. -/
def nanRes (s : Bool) : FRes := ⟨fmt32.nanBits, flagIf s flagNV⟩

/-- frcp (R62). -/
def rcpF (c : FCtl) (a : Nat) : FRes :=
  let a := flushIn fmt32 c.fin a
  match decodeF fmt32 a with
  | .nan s => nanRes s
  | .inf n => ⟨if n then 2 ^ 31 else 0, 0#32⟩
  | .fin n m _ =>
    if m = 0 then ⟨(if n then 2 ^ 31 else 0) + fmt32.infBits, flagDZ⟩ else mathResult 0x16 c n a

/-- frsq (R62). -/
def rsqF (c : FCtl) (a : Nat) : FRes :=
  let a := flushIn fmt32 c.fin a
  match decodeF fmt32 a with
  | .nan s => nanRes s
  | .inf n => if n then ⟨fmt32.nanBits, flagNV⟩ else ⟨0, 0#32⟩
  | .fin n m _ =>
    if m = 0 then ⟨(if n then 2 ^ 31 else 0) + fmt32.infBits, flagDZ⟩
    else if n then ⟨fmt32.nanBits, flagNV⟩
    else mathResult 0x17 c false a

/-- fexp2 (R62). -/
def exp2F (c : FCtl) (a : Nat) : FRes :=
  let a := flushIn fmt32 c.fin a
  match decodeF fmt32 a with
  | .nan s => nanRes s
  | .inf n => if n then ⟨0, 0#32⟩ else ⟨fmt32.infBits, 0#32⟩
  | .fin n m e =>
    if m = 0 then ⟨0x3F800000, 0#32⟩
    else if !n && 128 ≤ (roundAt .rtz n m e 0).1 then ⟨fmt32.infBits, flagOF ||| flagNX⟩
    else mathResult 0x19 c false a

/-- flog2 (R62). -/
def log2F (c : FCtl) (a : Nat) : FRes :=
  let a := flushIn fmt32 c.fin a
  match decodeF fmt32 a with
  | .nan s => nanRes s
  | .inf n => if n then ⟨fmt32.nanBits, flagNV⟩ else ⟨a, 0#32⟩
  | .fin n m _ =>
    if m = 0 then ⟨2 ^ 31 + fmt32.infBits, flagDZ⟩
    else if n then ⟨fmt32.nanBits, flagNV⟩
    else mathResult 0x1A c (a < 0x3F800000) a

/-- ftanh (R62). -/
def tanhF (c : FCtl) (a : Nat) : FRes :=
  let a := flushIn fmt32 c.fin a
  match decodeF fmt32 a with
  | .nan s => nanRes s
  | .inf n => ⟨(if n then 2 ^ 31 else 0) + 0x3F800000, 0#32⟩
  | .fin n m _ => if m = 0 then ⟨a, 0#32⟩ else mathResult 0x1B c n a

/-- fsin and fcos (R62), with exact argument reduction. -/
def trigF (cos : Bool) (c : FCtl) (a : Nat) : FRes :=
  let a := flushIn fmt32 c.fin a
  match decodeF fmt32 a with
  | .nan s => nanRes s
  | .inf _ => ⟨fmt32.nanBits, flagNV⟩
  | .fin n m e =>
    if m = 0 then if cos then ⟨0x3F800000, 0#32⟩ else ⟨a, 0#32⟩
    else
      let neg := decide (-20 ≤ (Nat.log2 m : Int) + e) && (fxTrig cos m e).1
      mathResult (if cos then 0x1D else 0x1C) c (if cos then neg else neg != n) a

end Sys2Proof.Machine
end

