-- ==== Sys2Proof/Machine/Convert.lean ====
section
/-! DEFINITION. Element formats: codes to values and values to codes (R45 to R48, R57, R58), block formats (R49 to R53) and the
summation order of dot products (R60, R61). -/

namespace Sys2Proof.Machine

open Sys2Proof

/-- Containers of a format in a 32-bit word (R51, R148). -/
def fmtK (fmt : Nat) : Nat :=
  match fmt with
  | 0 | 11 => 1
  | 1 | 2 | 10 => 2
  | 3 | 4 | 6 | 9 => 4
  | _ => 8

/-- Width of a container in bits (R51). -/
def fmtWidth (fmt : Nat) : Nat := 32 / fmtK fmt

/-- Whether a format is a block format (R49). -/
def isBlockFmt (fmt : Nat) : Bool := 8 ≤ fmt && fmt ≤ 10

/-- Magnitude bits m of a block format (R49). -/
def blockM (fmt : Nat) : Nat := match fmt with
  | 8 => 2
  | 9 => 4
  | _ => 7

/-- Bits of an element symbol of a format: s and M for a block format, the code otherwise (R213). -/
def symWidth (fmt : Nat) : Nat := if isBlockFmt fmt then blockM fmt + 1 else fmtWidth fmt

/-- A signed code of `n` bits in two's complement. -/
def signedCode (n x : Nat) : Int := if x < 2 ^ (n - 1) then x else (x : Int) - 2 ^ n

/-- An integer as a value. -/
def intV (x : Int) : FVal := .fin (x < 0) x.natAbs 0

/-- The value of a code of fp8e4: no infinity, NaN at 0x7F and 0xFF (R45). -/
def decodeE4 (x : Nat) : FVal :=
  if x % 128 = 127 then .nan false
  else
    let neg := x / 128 % 2 = 1
    let ef := x / 8 % 16
    if ef = 0 then .fin neg (x % 8) (-9) else .fin neg (8 + x % 8) (ef - 10)

/-- The value of a code of a format that is not a block format (R43 to R48); `extra` is fp4's extra value, rule and
zero point are int4's. -/
def codeVal (fmt code : Nat) (extra : Word) (zrule zpoint : Nat) : FVal :=
  match fmt with
  | 0 => decodeF fmt32 code
  | 1 => decodeF fmtBf16 code
  | 2 => decodeF fmtFp16 code
  | 3 => decodeE4 code
  | 4 => match decodeF fmtE5 code with
    | .nan _ => .nan false
    | v => v
  | 5 =>
    if code % 16 = 8 then
      match decodeF fmt32 extra.toNat with
      | .nan s => .nan s
      | v => v
    else
      let ef := code / 2 % 4
      let neg := code / 8 % 2 = 1
      if ef = 0 then .fin neg (code % 2) (-1) else .fin neg (2 + code % 2) (ef - 2)
  | 6 => intV (signedCode 8 code)
  | 7 => if zrule = 0 then intV (signedCode 4 code) else intV ((code : Int) - zpoint)
  | _ => intV (signedCode 32 code)

/-- A code of FP32, BF16 or FP16 read under FIN; other codes are never altered (R59). -/
def flushCode (on : Bool) (fmt code : Nat) : Nat :=
  match fmt with
  | 0 => flushIn fmt32 on code
  | 1 => flushIn fmtBf16 on code
  | 2 => flushIn fmtFp16 on code
  | _ => code

/-- A code read as FP32 bits, through FIN and FOUT (R59, R149): exact for every narrow format; int32 is rounded. -/
def codeToF32 (c : FCtl) (fmt code : Nat) (extra : Word) : FRes :=
  match codeVal fmt (flushCode c.fin fmt code) extra 0 0 with
  | .nan s => ⟨fmt32.nanBits, flagIf s flagNV⟩
  | .inf n => ⟨(if n then 2 ^ 31 else 0) + fmt32.infBits, 0#32⟩
  | .fin n m e =>
    let r := roundF fmt32 ⟨c.mode, false, false⟩ n m e
    let b := flushIn fmt32 c.fin r.bits
    if c.fout && isSubnormal fmt32 b then ⟨b - b % 2 ^ 23, r.flags ||| flagUF ||| flagNX⟩ else ⟨b, r.flags⟩

/-- What a conversion gives: a code with flags, or an overflow that policy 11 traps (R57). -/
inductive Conv where
  | code (bits : Nat) (flags : Word)
  | trap
  deriving DecidableEq, Repr

/-- The result of an overflowing conversion to a format (R57). -/
def overflowCode (fmt : Nat) (neg : Bool) (pol : Nat) : Conv :=
  let s (w : Nat) := if neg then 2 ^ (w - 1) else 0
  let fl := flagOF ||| flagNX
  if pol = 3 then .trap
  else match fmt with
    | 1 | 2 | 4 =>
      let f := if fmt = 1 then fmtBf16 else if fmt = 2 then fmtFp16 else fmtE5
      .code (if pol = 0 then s (1 + f.eb + f.mb) + f.infBits - 1
        else if pol = 1 then s (1 + f.eb + f.mb) + f.infBits else f.nanBits) fl
    | 3 => .code (if pol = 0 then s 8 + 0x7E else 0x7F) fl
    | 5 => .code (if pol = 2 then 8 else s 4 + 7) fl
    | 6 => .code (if neg then 0x80 else if pol = 2 then 0x80 else 0x7F) fl
    | 7 => .code (if neg then 8 else if pol = 2 then 8 else 7) fl
    | _ => .code (if neg || pol = 2 then 0x80000000 else 0x7FFFFFFF) fl

/-- The code a NaN source gives where the destination has no NaN (R58). -/
def nanCode (fmt pol : Nat) : Conv :=
  if pol = 3 then .trap
  else if pol = 2 then
    match overflowCode fmt false 2 with
    | .code b _ => .code b flagNV
    | .trap => .trap
  else .code 0 flagNV

/-- FP32 bits, already read through FIN, to a format's code under a mode and overflow policy (R47, R57, R58, R149).
`bias` is the int4 zero point of R222 step 1, none for cvtf; under it a NaN's result 0 of R58 is the code of the value 0, the zero
point, and not code 0 (DESIGN CHOICE, log entry 49). -/
def f32ToCode (c : FCtl) (fmt pol a : Nat) (extra : Word) (bias : Option Nat) : Conv :=
  let a := flushIn fmt32 c.fin a
  let v := decodeF fmt32 a
  let sig := flagIf v.isSig flagNV
  let float (f : FFmt) (top : Nat) (hasInf : Bool) : Conv :=
    let sg := if signF fmt32 a then f.signBit else 0
    match v with
    | .nan _ => .code f.nanBits sig
    | .inf n => if hasInf then .code (sg + f.infBits) 0#32 else overflowCode fmt n pol
    | .fin n m e =>
      if m = 0 then .code sg 0#32
      else
        let (b, nx, tiny) := roundBits f c.mode n m e
        if top < b then overflowCode fmt n pol
        else if hasInf && (fmt = 1 || fmt = 2) && c.fout && b < 2 ^ f.mb && b != 0 then .code sg (flagUF ||| flagNX)
        else .code (sg + b) (flagIf nx flagNX ||| flagIf (tiny && nx) flagUF)
  let int (w : Nat) : Conv :=
    match v with
    | .nan s => match nanCode fmt pol with
      | .code b fl => .code b (fl ||| flagIf s flagNV)
      | .trap => .trap
    | .inf n => overflowCode fmt n pol
    | .fin n m e =>
      let (k, nx) := roundAt c.mode n m e 0
      let x := sgnInt n k
      if x < -(2 ^ (w - 1) : Int) || (2 ^ (w - 1) : Int) - 1 < x then overflowCode fmt n pol
      else .code (x % (2 ^ w : Int)).toNat (flagIf nx flagNX)
  match fmt with
  | 0 => match v with
    | .nan _ => .code fmt32.nanBits sig
    | _ => .code a 0#32
  | 1 => float fmtBf16 (fmtBf16.infBits - 1) true
  | 2 => float fmtFp16 (fmtFp16.infBits - 1) true
  | 3 => match v with
    | .nan _ => .code 0x7F sig
    | _ => float fmtE4 0x7E false
  | 4 => match v with
    | .nan _ => .code fmtE5.nanBits sig
    | _ => float fmtE5 (fmtE5.infBits - 1) true
  | 5 =>
    let extraNan := (decodeF fmt32 extra.toNat).isNan
    if a = extra.toNat || (extraNan && v.isNan) then .code 8 sig
    else if v.isNan then
      match nanCode 5 pol with
      | .code b fl => .code b (fl ||| sig)
      | .trap => .trap
    else match float fmtFp4 7 false with
      | .code b fl => if b = 8 && extra != 0x80000000#32 && (fl &&& flagOF) = 0#32 then .code 0 fl else .code b fl
      | .trap => .trap
  | 6 => int 8
  | 7 => match bias with
    | none => int 4
    | some z => match v with
      | .nan _ => .code (min z 15) 0#32
      | .inf n => .code (if n then 0 else 15) 0#32
      | .fin n m e => .code (clampInt 0 15 (sgnInt n (roundAt .rne n m e 0).1 + z)).toNat 0#32
  | _ => int 32

/-! ### Block formats -/

/-- bxval (R50): the FP32 value of an element, with ZS, OF and NV. `sc` is a BF16 scale. -/
def bxval (fmt : Nat) (s : Bool) (mu : Bool) (mval esub : Nat) (sc : BitVec 16) : FRes :=
  let scv := decodeF fmtBf16 sc.toNat
  let sneg := sc.getLsbD 15
  let sg := s != sneg
  let sb := if sg then 2 ^ 31 else 0
  let zero := sc.toNat % 2 ^ 15 = 0
  let zs := flagIf zero flagZS
  match scv with
  | .nan sig => ⟨fmt32.nanBits, flagIf sig flagNV⟩
  | _ =>
    let scInf := match scv with
      | .inf _ => true
      | _ => false
    if esub = 255 then
      if mval != 0 then ⟨fmt32.nanBits, zs⟩
      else if zero then ⟨fmt32.nanBits, zs ||| flagNV⟩
      else ⟨sb + fmt32.infBits, 0#32⟩
    else if esub = 0 || mval = 0 then
      if scInf then ⟨fmt32.nanBits, flagNV⟩ else ⟨sb, zs⟩
    else if scInf then ⟨sb + fmt32.infBits, 0#32⟩
    else match scv with
      | .fin _ m e =>
        let r := roundF fmt32 ⟨.rne, false, false⟩ sg (mval * m)
          (e + 1 - blockM fmt + esub - 127 - (if mu then 1 else 0))
        ⟨r.bits, zs ||| (r.flags &&& flagOF)⟩
      | _ => ⟨sb, zs⟩

/-- The container of a block element (R51). -/
def blockContainer (fmt : Nat) (s mu : Bool) (m : Nat) : Nat :=
  let w := fmtWidth fmt
  (if s then 2 ^ (w - 1) else 0) + (if mu then 2 ^ (w - 2) else 0) + m

/-- Sign, μ and magnitude of a block container (R51). -/
def containerParts (fmt c : Nat) : Bool × Bool × Nat :=
  let w := fmtWidth fmt
  (c.testBit (w - 1), c.testBit (w - 2), c % 2 ^ blockM fmt)

/-- A subblock's codes (R53): subexponent, eight μ bits, sixteen signs and magnitudes, flags; or the indices of the
elements whose overflow policy 11 traps. -/
inductive SubRes where
  | ok (e : Nat) (mus : List Bool) (elems : List (Bool × Nat)) (flags : Word)
  | trap (bad : List Nat)
  deriving DecidableEq, Repr

/-- The sign of a value. -/
def signV : FVal → Bool
  | .nan _ => false
  | .inf n => n
  | .fin n _ _ => n

/-- The exponent ⌊log2⌋ of the largest finite magnitude, none when all are zero (R53). -/
def topExp (xs : List FVal) : Option Int :=
  xs.foldl (fun t x => match x with
    | .fin _ m e => if m = 0 then t else
      let k := (Nat.log2 m : Int) + e
      match t with
      | none => some k
      | some u => some (max u k)
    | _ => t) none

/-- An element's magnitude rounded at subexponent `e` with μ (R53 step 4). -/
def elemAt (fmt : Nat) (mode : RMode) (e : Int) (mu : Bool) (x : FVal) : Nat × Bool :=
  match x with
  | .fin n m ex => roundAt mode n m ex (e - 127 - (if mu then 1 else 0) + 1 - blockM fmt)
  | _ => (0, false)

/-- Pairs of a list. -/
def pairsOf {α : Type} : List α → List (α × α)
  | a :: b :: rest => (a, b) :: pairsOf rest
  | _ => []

/-- Steps 2 to 5 of R53 over a subblock of values already divided by the outer scale. R53, R57 and R150 give the M of an element of a
subblock with E = 255 and say nothing of the sign of one that is no infinity: a finite element keeps its own and a NaN gets +, in
step 5 and under the policies 01 and 10 (DESIGN CHOICE, log entry 49). An inexact element sets NX and never UF, since no block format has a
smallest normal value to judge tininess by (R49, R141, R150; DESIGN CHOICE, log entry 54). -/
def packSub (fmt : Nat) (mode : RMode) (pol : Nat) (xs : List FVal) : SubRes :=
  let top := 2 ^ blockM fmt - 1
  let special := xs.any fun x => match x with
    | .fin _ _ _ => false
    | _ => true
  let sig := flagIf (xs.any FVal.isSig) flagNV
  if special then
    let replaced := xs.any fun x => match x with
      | .fin _ _ _ => true
      | _ => false
    .ok 255 (List.replicate 8 false)
      (xs.map fun x => (signV x, match x with
        | .inf _ => 0
        | _ => 1)) (sig ||| flagIf replaced flagNV)
  else match topExp xs with
    | none => .ok 0 (List.replicate 8 false) (xs.map fun x => (signV x, 0)) 0#32
    | some k =>
      let e0 : Int := if k < -126 then 1 else 127 + k
      let e1 := if xs.any (fun x => (elemAt fmt mode e0 false x).1 > top) then e0 + 1 else e0
      let tooBig := 254 < e1
      let bad := fun x => (elemAt fmt mode 254 false x).1 > top
      if tooBig && pol = 3 then
        .trap ((upTo xs.length).filter fun i => match xs[i]? with
          | some x => bad x
          | none => false)
      else if tooBig && pol = 2 then
        .ok 255 (List.replicate 8 false) (xs.map fun x => (signV x, 1)) (flagOF ||| flagNX)
      else if tooBig && pol = 1 then
        .ok 255 (List.replicate 8 false) (xs.map fun x => (signV x, if bad x then 0 else 1)) (flagOF ||| flagNX)
      else
        let e := if tooBig then 254 else e1
        let mus := (pairsOf xs).map fun p =>
          (elemAt fmt mode e true p.1).1 ≤ top && (elemAt fmt mode e true p.2).1 ≤ top
        let res := (upTo xs.length).map fun i => match xs[i]? with
          | some x =>
            let r := elemAt fmt mode e ((mus[i / 2]?).getD false) x
            (signV x, min r.1 top, r.2 || top < r.1)
          | none => (false, 0, false)
        let fl := flagIf tooBig (flagOF ||| flagNX) ||| flagIf (res.any fun r => r.2.2) flagNX
        if res.all fun r => r.2.1 = 0 then
          .ok 0 (List.replicate 8 false) (res.map fun r => (r.1, 0)) fl
        else .ok e.toNat mus (res.map fun r => (r.1, r.2.1)) fl

/-- A value divided by 2^f. -/
def scaleV (f : Int) (x : FVal) : FVal :=
  match x with
  | .fin n m e => .fin n m (e - f)
  | v => v

/-! ### Summation order (R60, R61) -/

/-- The exact sum of a group of products, padded with +0 to 16, with NV (R60, R61, R141): NaN for a NaN or for infinities of both
signs; only the latter is a NaN from operands that are none (R54). (DEDUCED, log entry 35.) -/
def sumV (xs : List FVal) : FVal × Word :=
  let zero : FVal := .fin false 0 0
  let add := fun (s : FVal × Word) x => let r := addV .rne s.1 x; (r.1, s.2 ||| r.2)
  let r := match xs with
    | x :: rest => if xs.length < 16 then xs.foldl add (zero, 0#32) else rest.foldl add (x, 0#32)
    | [] => (zero, 0#32)
  (r.1, if xs.any FVal.isNan then 0#32 else r.2)

/-- One group sum rounded to FP32 under RNE, flushed under FOUT (R60 step 3). -/
def groupSum (fout : Bool) (ps : List (FVal × Word)) : FRes :=
  let (v, fl) := sumV (ps.map (·.1))
  packF fmt32 ⟨.rne, false, fout⟩ v (ps.foldl (fun f p => f ||| p.2) fl)

/-- A group's sum added to an accumulator, rounded under RNE (R60 step 4). -/
def accGroup (fin fout : Bool) (acc : Nat) (ps : List (FVal × Word)) : FRes :=
  let g := groupSum fout ps
  let (v, fl) := addV .rne (decodeF fmt32 g.bits) (decodeF fmt32 (flushIn fmt32 fin acc))
  packF fmt32 ⟨.rne, false, fout⟩ v (g.flags ||| fl)

end Sys2Proof.Machine
end

