-- ==== Sys2Proof/Syntax.lean ====
section
/-! DEFINITION. The abstract syntax of the Lanien L7 (R66 to R91): one constructor of `Instr` per row of
spec/opcode_table.json. An instruction or hint word carries its operand fields as the raw bits of the word;
a device or host event carries the names of the things it acts on, as plain numbers. -/

namespace Sys2Proof

/-- The two instruction streams of a thread (R20). -/
inductive Strand where
  | comp
  | addr
  deriving DecidableEq, Repr

/-- The holder of an engine operation: operation `n` of group `g`, or the COPY packet in progress of hardware
queue `q` (R293, R332). -/
inductive OpRef where
  | ofGroup (g n : Nat)
  | ofQueue (q : Nat)
  deriving DecidableEq, Repr

/-- Operand fields of IADD, ISUB, IMUL, IMULH, IMIN, IMAX, UMIN, UMAX, AND, OR, XOR, ANDN, SHL, SHR, SAR, ROT, IMAC, IMULHU, ISAD, IDOT4,
FADD, FSUB, FMUL, FMAC, FMIN, FMAX, FSGNJ, FABD, BADD2, BMUL2, BMAC2, BMAX2, HADD2, HMUL2, HMAC2, HMAX2. -/
structure VOps where
  w : BitVec 2
  vd : BitVec 7
  va : BitVec 7
  vb : BitVec 7
  ea : Bool
  eb : Bool
  deriving DecidableEq, Repr

/-- Operand fields of INOT, INEG, IABS, POPC, CLZ, CTZ, BREV, FNEG, FABS, FFLOOR, FCEIL, FTRUNC, FRINT, FRCP, FRSQ, FSQRT, FEXP2, FLOG2,
FTANH, FSIN, FCOS, MOV. -/
structure UnOps where
  w : BitVec 2
  vd : BitVec 7
  va : BitVec 7
  ea : Bool
  deriving DecidableEq, Repr

/-- Operand fields of ICMP, UCMP, FCMP. -/
structure CmpOps where
  pd : BitVec 3
  cond : BitVec 4
  va : BitVec 7
  vb : BitVec 7
  ea : Bool
  eb : Bool
  deriving DecidableEq, Repr

/-- Operand fields of FCLASS. -/
structure ClassOps where
  pd : BitVec 3
  cond : BitVec 4
  va : BitVec 7
  ea : Bool
  deriving DecidableEq, Repr

/-- Operand fields of CVTF, CVTH, BXPACK, BXUNPACK. -/
structure CvtOps where
  w : BitVec 2
  vd : BitVec 7
  va : BitVec 7
  fmt : BitVec 4
  pol : BitVec 2
  t : Bool
  ea : Bool
  deriving DecidableEq, Repr

/-- Operand fields of BXDOT2, BXDOT4, BXDOT7. -/
structure BxOps where
  vd : BitVec 7
  va : BitVec 7
  vb : BitVec 7
  bsel : BitVec 2
  ea : Bool
  eb : Bool
  deriving DecidableEq, Repr

/-- Operand fields of F4DOT. -/
structure DotOps where
  vd : BitVec 7
  va : BitVec 7
  vb : BitVec 7
  ea : Bool
  eb : Bool
  deriving DecidableEq, Repr

/-- Operand fields of SHFL, VOTE, REDUX, SCAN. -/
structure LnOps where
  mode : BitVec 3
  vd : BitVec 7
  va : BitVec 7
  sm : BitVec 8
  deriving DecidableEq, Repr

/-- Operand fields of IADDS, FADDS, FMULS. -/
structure VsOps where
  w : BitVec 2
  vd : BitVec 7
  va : BitVec 7
  sb : BitVec 8
  ea : Bool
  deriving DecidableEq, Repr

/-- Operand fields of MOVS. -/
structure MovsOps where
  w : BitVec 2
  vd : BitVec 7
  sb : BitVec 8
  deriving DecidableEq, Repr

/-- Operand fields of IADDI, ANDI, ORI, XORI. -/
structure ViOps where
  vd : BitVec 7
  va : BitVec 7
  ea : Bool
  imm : BitVec 10
  deriving DecidableEq, Repr

/-- Operand fields of SHLI, SHRI, SARI. -/
structure ShOps where
  vd : BitVec 7
  va : BitVec 7
  ea : Bool
  k : BitVec 5
  deriving DecidableEq, Repr

/-- Operand fields of LI. -/
structure LiOps where
  vd : BitVec 7
  imm : BitVec 10
  deriving DecidableEq, Repr

/-- Operand fields of SEL. -/
structure SelOps where
  w : BitVec 2
  vd : BitVec 7
  va : BitVec 7
  vb : BitVec 7
  p : BitVec 2
  deriving DecidableEq, Repr

/-- Operand fields of XSEND. -/
structure SendOps where
  w : BitVec 2
  va : BitVec 7
  slot : BitVec 7
  ea : Bool
  deriving DecidableEq, Repr

/-- Operand fields of XRECV. -/
structure RecvOps where
  w : BitVec 2
  vd : BitVec 7
  slot : BitVec 7
  deriving DecidableEq, Repr

/-- Operand fields of POP, PUSH, PEEK, QLEN. -/
structure QOps where
  w : BitVec 2
  reg : BitVec 7
  queue : BitVec 2
  deriving DecidableEq, Repr

/-- Operand fields of SADD, SSUB, SMUL, SAND, SOR, SXOR, SSHL, SSHR, SMIN, SMAX. -/
structure S3Ops where
  sd : BitVec 8
  sa : BitVec 8
  sb : BitVec 8
  deriving DecidableEq, Repr

/-- Operand fields of SADDI. -/
structure SiOps where
  sd : BitVec 8
  sa : BitVec 8
  imm : BitVec 8
  deriving DecidableEq, Repr

/-- Operand fields of SLI. -/
structure SliOps where
  sd : BitVec 8
  imm : BitVec 8
  deriving DecidableEq, Repr

/-- Operand fields of SMOV, SCLZ, SPOPC. -/
structure S2Ops where
  sd : BitVec 8
  sa : BitVec 8
  deriving DecidableEq, Repr

/-- Operand fields of V2S. -/
structure V2sOps where
  sd : BitVec 8
  va : BitVec 7
  lane : BitVec 8
  deriving DecidableEq, Repr

/-- Operand fields of AADD, ASUB, AMUL, AAND, AOR, AXOR, ASHL, ASHR, ASAR, AMIN, AMAX. -/
structure A3Ops where
  ad : BitVec 5
  aa : BitVec 5
  ab : BitVec 5
  deriving DecidableEq, Repr

/-- Operand fields of ALEA. -/
structure LeaOps where
  ad : BitVec 5
  aa : BitVec 5
  ab : BitVec 5
  k : BitVec 3
  deriving DecidableEq, Repr

/-- Operand fields of ACMP. -/
structure AcmpOps where
  pd : BitVec 3
  aa : BitVec 5
  ab : BitVec 5
  cond : BitVec 4
  deriving DecidableEq, Repr

/-- Operand fields of AMOV. -/
structure A2Ops where
  ad : BitVec 5
  aa : BitVec 5
  deriving DecidableEq, Repr

/-- Operand fields of A2S. -/
structure A2sOps where
  aa : BitVec 5
  sd : BitVec 8
  deriving DecidableEq, Repr

/-- Operand fields of S2A. -/
structure S2aOps where
  ad : BitVec 5
  sb : BitVec 8
  deriving DecidableEq, Repr

/-- Operand fields of AADDI, ALUI, AANDI, AORI. -/
structure AiOps where
  ad : BitVec 5
  aa : BitVec 5
  imm : BitVec 14
  deriving DecidableEq, Repr

/-- Operand fields of ALI. -/
structure AliOps where
  ad : BitVec 5
  imm : BitVec 14
  deriving DecidableEq, Repr

/-- Operand fields of ASHLI, ASHRI. -/
structure AshOps where
  ad : BitVec 5
  aa : BitVec 5
  k : BitVec 6
  deriving DecidableEq, Repr

/-- Operand fields of ACMPI. -/
structure AcmpiOps where
  pd : BitVec 3
  cond : BitVec 2
  aa : BitVec 5
  imm : BitVec 14
  deriving DecidableEq, Repr

/-- Operand fields of LDQ. -/
structure LdqOps where
  size : BitVec 3
  order : BitVec 2
  scope : BitVec 3
  base : BitVec 5
  off : BitVec 9
  deriving DecidableEq, Repr

/-- Operand fields of LDA, ST. -/
structure MOps where
  size : BitVec 3
  order : BitVec 2
  scope : BitVec 3
  t : BitVec 5
  base : BitVec 5
  off : BitVec 9
  deriving DecidableEq, Repr

/-- Operand fields of ATOM_ADD, ATOM_AND, ATOM_OR, ATOM_XOR, ATOM_XCHG, ATOM_CAS. -/
structure AtomOps where
  order : BitVec 2
  scope : BitVec 3
  sz64 : Bool
  ret : Bool
  base : BitVec 5
  off : BitVec 9
  deriving DecidableEq, Repr

/-- Operand fields of ATOM_MIN, ATOM_MAX. -/
structure AtomMOps where
  order : BitVec 2
  scope : BitVec 3
  sz64 : Bool
  ret : Bool
  uns : Bool
  base : BitVec 5
  off : BitVec 9
  deriving DecidableEq, Repr

/-- Operand fields of LDL, STL, LDT, STT. -/
structure LtOps where
  size : BitVec 3
  t : BitVec 5
  base : BitVec 5
  off : BitVec 12
  deriving DecidableEq, Repr

/-- Operand fields of BR, CALL. -/
structure BrOps where
  prio : BitVec 4
  disp : BitVec 17
  deriving DecidableEq, Repr

/-- Operand fields of BRT, BRF. -/
structure BrpOps where
  p : BitVec 3
  prio : BitVec 4
  disp : BitVec 17
  deriving DecidableEq, Repr

/-- Operand fields of RET. -/
structure RetOps where
  prio : BitVec 4
  deriving DecidableEq, Repr

/-- Operand fields of JMPS. -/
structure JmpsOps where
  prio : BitVec 4
  sn : BitVec 8
  deriving DecidableEq, Repr

/-- Operand fields of CPL. -/
structure CplOps where
  aa : BitVec 5
  ab : BitVec 5
  arv : Bool
  bar : BitVec 5
  size : BitVec 2
  deriving DecidableEq, Repr

/-- Operand fields of CPK. -/
structure CpkOps where
  aa : BitVec 5
  n : BitVec 6
  deriving DecidableEq, Repr

/-- Operand fields of PFT. -/
structure PftOps where
  aa : BitVec 5
  ab : BitVec 5
  comp : BitVec 2
  size : BitVec 10
  deriving DecidableEq, Repr

/-- Operand fields of TLOAD. -/
structure TloadOps where
  aa : BitVec 5
  ab : BitVec 5
  list : Bool
  count : BitVec 5
  slot : BitVec 6
  deriving DecidableEq, Repr

/-- Operand fields of TSCLAIM, TSREL. -/
structure SlotOps where
  count : BitVec 6
  slot : BitVec 6
  deriving DecidableEq, Repr

/-- Operand fields of MMA, MDIST, MTOPK, MATTN, SPAWN, VWSYNC, SEGDET, SEGDROP, SEGSEAL, XLFREE, XLSEAL, EVCLR, TBARV_LANES. -/
structure XaOps where
  aa : BitVec 5
  deriving DecidableEq, Repr

/-- Operand fields of MACZ. -/
structure MaczOps where
  tile : BitVec 3
  deriving DecidableEq, Repr

/-- Operand fields of MACRD. -/
structure MacrdOps where
  aa : BitVec 5
  mode : BitVec 5
  w : BitVec 2
  tile : BitVec 3
  vd : BitVec 7
  deriving DecidableEq, Repr

/-- Operand fields of VWSTAT. -/
structure XdOps where
  ad : BitVec 5
  deriving DecidableEq, Repr

/-- Operand fields of SEGMK. -/
structure SegmkOps where
  aa : BitVec 5
  ab : BitVec 5
  ad : BitVec 5
  cls : BitVec 2
  n : BitVec 5
  deriving DecidableEq, Repr

/-- Operand fields of SEGATT. -/
structure SegattOps where
  aa : BitVec 5
  ad : BitVec 5
  acq : Bool
  pull : Bool
  deriving DecidableEq, Repr

/-- Operand fields of CTLOAD. -/
structure CtloadOps where
  aa : BitVec 5
  slot : BitVec 4
  deriving DecidableEq, Repr

/-- Operand fields of CTINV. -/
structure CtinvOps where
  slot : BitVec 4
  deriving DecidableEq, Repr

/-- Operand fields of XLMAP_NEW, XLFORK. -/
structure XadOps where
  aa : BitVec 5
  ad : BitVec 5
  deriving DecidableEq, Repr

/-- Operand fields of XLMAP_RD, XLMAP_WR, XLPFX. -/
structure XlmapOps where
  aa : BitVec 5
  ab : BitVec 5
  ad : BitVec 5
  hh : BitVec 5
  deriving DecidableEq, Repr

/-- Operand fields of XLFREE_ACCEPT, TBINIT, TBEXP, TBEXP_ARV. -/
structure XabOps where
  aa : BitVec 5
  ab : BitVec 5
  deriving DecidableEq, Repr

/-- Operand fields of EVWAIT, EVSET. -/
structure EvOps where
  aa : BitVec 5
  scope : BitVec 3
  deriving DecidableEq, Repr

/-- Operand fields of EVTEST. -/
structure EvdOps where
  aa : BitVec 5
  ad : BitVec 5
  scope : BitVec 3
  deriving DecidableEq, Repr

/-- Operand fields of TBARV. -/
structure TbarvOps where
  aa : BitVec 5
  k : BitVec 6
  deriving DecidableEq, Repr

/-- Operand fields of TBWAIT. -/
structure XabdOps where
  aa : BitVec 5
  ab : BitVec 5
  ad : BitVec 5
  deriving DecidableEq, Repr

/-- Operand fields of CWAIT. -/
structure CwaitOps where
  n : BitVec 6
  cls : BitVec 3
  scope : BitVec 3
  deriving DecidableEq, Repr

/-- Operand fields of FENCE. -/
structure FenceOps where
  scope : BitVec 3
  order : BitVec 3
  deriving DecidableEq, Repr

/-- Operand fields of TRAP. -/
structure TrapOps where
  n : BitVec 5
  deriving DecidableEq, Repr

/-- Operand fields of BRK. -/
structure BrkOps where
  code : BitVec 16
  deriving DecidableEq, Repr

/-- Operand fields of CSRR, CSRW. -/
structure CsrOps where
  reg : BitVec 7
  num : BitVec 12
  deriving DecidableEq, Repr

/-- Operand fields of SLEEP. -/
structure SleepOps where
  n : BitVec 22
  deriving DecidableEq, Repr

/-- Operand fields of RGROW, RSHRINK. -/
structure GrowOps where
  k : BitVec 5
  deriving DecidableEq, Repr

/-- Operand fields of LSMODE. -/
structure LsmodeOps where
  bank : BitVec 5
  mode : BitVec 2
  deriving DecidableEq, Repr

/-- Operand fields of H_IMM, H_IMX, H_KILL, H_SCHED, H_MOD, H_PRED. -/
structure HintOps where
  payload : BitVec 22
  deriving DecidableEq, Repr

/-- The instructions, hint words and events of the machine, one constructor per row of the opcode table. -/
inductive Instr where
  /-- IADD (R117). Adds two v register runs lane by lane, modulo 2^32 unless saturated. -/
  | iadd (f : VOps)
  /-- ISUB (R117). Subtracts vb from va lane by lane, modulo 2^32 unless saturated. -/
  | isub (f : VOps)
  /-- IMUL (R117). Writes the low 32 bits of the unsigned product of va and vb. -/
  | imul (f : VOps)
  /-- IMULH (R117). Writes bits [63:32] of the signed product of va and vb. -/
  | imulh (f : VOps)
  /-- IMIN (R117). Writes the signed minimum of va and vb. -/
  | imin (f : VOps)
  /-- IMAX (R117). Writes the signed maximum of va and vb. -/
  | imax (f : VOps)
  /-- UMIN (R117). Writes the unsigned minimum of va and vb. -/
  | umin (f : VOps)
  /-- UMAX (R117). Writes the unsigned maximum of va and vb. -/
  | umax (f : VOps)
  /-- AND (R117). Writes the bitwise AND of va and vb. -/
  | land (f : VOps)
  /-- OR (R117). Writes the bitwise OR of va and vb. -/
  | lor (f : VOps)
  /-- XOR (R117). Writes the bitwise XOR of va and vb. -/
  | lxor (f : VOps)
  /-- ANDN (R117). Writes va AND NOT vb. -/
  | landn (f : VOps)
  /-- SHL (R117). Shifts va left by the whole value of vb, giving 0 for amounts of 32 or more. -/
  | shl (f : VOps)
  /-- SHR (R117). Shifts va right logically by vb, giving 0 for amounts of 32 or more. -/
  | shr (f : VOps)
  /-- SAR (R117). Shifts va right arithmetically by min(vb, 31). -/
  | sar (f : VOps)
  /-- ROT (R117). Rotates va left by vb mod 32. -/
  | rot (f : VOps)
  /-- IMAC (R119). Accumulates the product of va and vb into vd. -/
  | imac (f : VOps)
  /-- IMULHU (R119). Writes bits [63:32] of the unsigned product of va and vb. -/
  | imulhu (f : VOps)
  /-- ISAD (R119). Accumulates the sum of four unsigned byte absolute differences into vd. -/
  | isad (f : VOps)
  /-- IDOT4 (R119). Accumulates a four-way signed byte dot product into vd. -/
  | idot4 (f : VOps)
  /-- INOT (R120). Writes the bitwise complement of va. -/
  | inot (f : UnOps)
  /-- INEG (R120). Writes the two's-complement negation of va. -/
  | ineg (f : UnOps)
  /-- IABS (R120). Writes the absolute value of va, wrapping for -2^31. -/
  | iabs (f : UnOps)
  /-- POPC (R120). Writes the number of one bits of va. -/
  | popc (f : UnOps)
  /-- CLZ (R120). Writes the count of leading zero bits of va. -/
  | clz (f : UnOps)
  /-- CTZ (R120). Writes the count of trailing zero bits of va. -/
  | ctz (f : UnOps)
  /-- BREV (R120). Writes va with its bit order reversed. -/
  | brev (f : UnOps)
  /-- FNEG (R144). Writes va with its sign bit inverted. -/
  | fneg (f : UnOps)
  /-- FABS (R144). Writes va with its sign bit cleared. -/
  | fabs (f : UnOps)
  /-- FFLOOR (R144). Rounds va down to an integral value. -/
  | ffloor (f : UnOps)
  /-- FCEIL (R144). Rounds va up to an integral value. -/
  | fceil (f : UnOps)
  /-- FTRUNC (R144). Rounds va towards zero to an integral value. -/
  | ftrunc (f : UnOps)
  /-- FRINT (R144). Rounds va to an integral value under the rounding mode. -/
  | frint (f : UnOps)
  /-- FRCP (R144). Writes 1/va within 1 ulp. -/
  | frcp (f : UnOps)
  /-- FRSQ (R144). Writes 1/sqrt(va) within 1 ulp. -/
  | frsq (f : UnOps)
  /-- FSQRT (R144). Writes the correctly rounded square root of va. -/
  | fsqrt (f : UnOps)
  /-- FEXP2 (R144). Writes 2^va within 2 ulp. -/
  | fexp2 (f : UnOps)
  /-- FLOG2 (R144). Writes log2 of va within 2 ulp. -/
  | flog2 (f : UnOps)
  /-- FTANH (R144). Writes tanh of va within 2 ulp. -/
  | ftanh (f : UnOps)
  /-- FSIN (R144). Writes sin of va within 2 ulp. -/
  | fsin (f : UnOps)
  /-- FCOS (R144). Writes cos of va within 2 ulp. -/
  | fcos (f : UnOps)
  /-- FADD (R142). Adds two FP32 runs with one rounding. -/
  | fadd (f : VOps)
  /-- FSUB (R142). Subtracts two FP32 runs with one rounding. -/
  | fsub (f : VOps)
  /-- FMUL (R142). Multiplies two FP32 runs with one rounding. -/
  | fmul (f : VOps)
  /-- FMAC (R142). Fused multiply-add of va and vb into vd with one rounding. -/
  | fmac (f : VOps)
  /-- FMIN (R143). Writes the lesser FP32 value, preferring a non-NaN operand. -/
  | fmin (f : VOps)
  /-- FMAX (R143). Writes the greater FP32 value, preferring a non-NaN operand. -/
  | fmax (f : VOps)
  /-- FSGNJ (R143). Writes va with the sign bit of vb. -/
  | fsgnj (f : VOps)
  /-- FABD (R143). Writes the rounded absolute difference of va and vb. -/
  | fabd (f : VOps)
  /-- BADD2 (R145). Adds paired BF16 elements. -/
  | badd2 (f : VOps)
  /-- BMUL2 (R145). Multiplies paired BF16 elements. -/
  | bmul2 (f : VOps)
  /-- BMAC2 (R145). Fused multiply-add of paired BF16 elements into vd. -/
  | bmac2 (f : VOps)
  /-- BMAX2 (R145). Maximum of paired BF16 elements. -/
  | bmax2 (f : VOps)
  /-- HADD2 (R145). Adds paired FP16 elements. -/
  | hadd2 (f : VOps)
  /-- HMUL2 (R145). Multiplies paired FP16 elements. -/
  | hmul2 (f : VOps)
  /-- HMAC2 (R145). Fused multiply-add of paired FP16 elements into vd. -/
  | hmac2 (f : VOps)
  /-- HMAX2 (R145). Maximum of paired FP16 elements. -/
  | hmax2 (f : VOps)
  /-- ICMP (R124). Signed integer compare writing a compute predicate per member. -/
  | icmp (f : CmpOps)
  /-- UCMP (R124). Unsigned integer compare writing a compute predicate per member. -/
  | ucmp (f : CmpOps)
  /-- FCMP (R146). Floating-point compare writing a compute predicate per member. -/
  | fcmp (f : CmpOps)
  /-- FCLASS (R147). Sets a predicate when va lies in the named FP32 class. -/
  | fclass (f : ClassOps)
  /-- CVTF (R149). Converts FP32 values to a narrow or integer format under the overflow policy. -/
  | cvtf (f : CvtOps)
  /-- CVTH (R149). Converts narrow or int32 values to FP32. -/
  | cvth (f : CvtOps)
  /-- BXPACK (R150). Packs pre-scaled FP32 values into block-format containers and subexponents. -/
  | bxpack (f : CvtOps)
  /-- BXUNPACK (R151). Unpacks block-format containers into FP32 values with unit outer scale. -/
  | bxunpack (f : CvtOps)
  /-- BXDOT2 (R152). Accumulates a bx2 per-lane dot product into vd. -/
  | bxdot2 (f : BxOps)
  /-- BXDOT4 (R152). Accumulates a bx4 per-lane dot product into vd. -/
  | bxdot4 (f : BxOps)
  /-- BXDOT7 (R152). Accumulates a bx7 per-lane dot product into vd. -/
  | bxdot7 (f : BxOps)
  /-- F4DOT (R152). Accumulates an fp4 per-lane dot product into vd. -/
  | f4dot (f : DotOps)
  /-- SHFL (R155). Arrives at a masked lane shuffle that completes when every member has arrived. -/
  | shfl (f : LnOps)
  /-- VOTE (R156). Arrives at a masked lane vote that completes when every member has arrived. -/
  | vote (f : LnOps)
  /-- REDUX (R157). Arrives at a masked reduction over members in ascending lane order. -/
  | redux (f : LnOps)
  /-- SCAN (R157). Arrives at a masked inclusive prefix combination over members. -/
  | scan (f : LnOps)
  /-- IADDS (R122). Adds a scalar register to each register of a v run. -/
  | iadds (f : VsOps)
  /-- FADDS (R153). Adds an FP32 scalar to each register of a v run. -/
  | fadds (f : VsOps)
  /-- FMULS (R153). Multiplies each register of a v run by an FP32 scalar. -/
  | fmuls (f : VsOps)
  /-- MOVS (R122). Copies a scalar into every register of a v run. -/
  | movs (f : MovsOps)
  /-- IADDI (R121). Adds a signed immediate to va. -/
  | iaddi (f : ViOps)
  /-- ANDI (R121). ANDs va with an immediate. -/
  | andi (f : ViOps)
  /-- ORI (R121). ORs va with an immediate. -/
  | ori (f : ViOps)
  /-- XORI (R121). XORs va with an immediate. -/
  | xori (f : ViOps)
  /-- SHLI (R121). Shifts va left by an immediate amount. -/
  | shli (f : ShOps)
  /-- SHRI (R121). Shifts va right logically by an immediate amount. -/
  | shri (f : ShOps)
  /-- SARI (R121). Shifts va right arithmetically by an immediate amount. -/
  | sari (f : ShOps)
  /-- LI (R121). Loads an immediate into vd. -/
  | li (f : LiOps)
  /-- MOV (R123). Copies a v run. -/
  | mov (f : UnOps)
  /-- SEL (R123). Selects va or vb per lane by a compute predicate. -/
  | sel (f : SelOps)
  /-- XSEND (R158). Arrives at a team rendezvous slot as sender of a v run. -/
  | xsend (f : SendOps)
  /-- XRECV (R158). Empties a v run and arrives at a team rendezvous slot as receiver. -/
  | xrecv (f : RecvOps)
  /-- POP (R322). Removes entries from a strand queue into registers of each member. -/
  | pop (f : QOps)
  /-- PUSH (R322). Appends entries from registers of each member to a strand queue. -/
  | push (f : QOps)
  /-- PEEK (R322). Copies entries from the head of a strand queue without removing them. -/
  | peek (f : QOps)
  /-- QLEN (R322). Writes the number of entries held in a strand queue, never blocking. -/
  | qlen (f : QOps)
  /-- SADD (R126). Adds two scalars once per issue. -/
  | sadd (f : S3Ops)
  /-- SSUB (R126). Subtracts two scalars. -/
  | ssub (f : S3Ops)
  /-- SMUL (R126). Multiplies two scalars modulo 2^32. -/
  | smul (f : S3Ops)
  /-- SAND (R126). ANDs two scalars. -/
  | sand (f : S3Ops)
  /-- SOR (R126). ORs two scalars. -/
  | sor (f : S3Ops)
  /-- SXOR (R126). XORs two scalars. -/
  | sxor (f : S3Ops)
  /-- SSHL (R126). Shifts a scalar left by another scalar. -/
  | sshl (f : S3Ops)
  /-- SSHR (R126). Shifts a scalar right logically by another scalar. -/
  | sshr (f : S3Ops)
  /-- SADDI (R127). Adds an immediate to a scalar. -/
  | saddi (f : SiOps)
  /-- SLI (R127). Loads an immediate into a scalar. -/
  | sli (f : SliOps)
  /-- SMOV (R127). Copies a scalar. -/
  | smov (f : S2Ops)
  /-- V2S (R127). Copies a v register of a named lane into a scalar. -/
  | v2s (f : V2sOps)
  /-- SMIN (R127). Signed minimum of two scalars. -/
  | smin (f : S3Ops)
  /-- SMAX (R127). Signed maximum of two scalars. -/
  | smax (f : S3Ops)
  /-- SCLZ (R127). Counts leading zeros of a scalar. -/
  | sclz (f : S2Ops)
  /-- SPOPC (R127). Counts one bits of a scalar. -/
  | spopc (f : S2Ops)
  /-- AADD (R128). Adds two a registers modulo 2^64. -/
  | aadd (f : A3Ops)
  /-- ASUB (R128). Subtracts two a registers. -/
  | asub (f : A3Ops)
  /-- AMUL (R128). Multiplies two a registers modulo 2^64. -/
  | amul (f : A3Ops)
  /-- AAND (R128). ANDs two a registers. -/
  | aand (f : A3Ops)
  /-- AOR (R128). ORs two a registers. -/
  | aor (f : A3Ops)
  /-- AXOR (R128). XORs two a registers. -/
  | axor (f : A3Ops)
  /-- ASHL (R128). Shifts an a register left. -/
  | ashl (f : A3Ops)
  /-- ASHR (R128). Shifts an a register right logically. -/
  | ashr (f : A3Ops)
  /-- ASAR (R128). Shifts an a register right arithmetically. -/
  | asar (f : A3Ops)
  /-- AMIN (R128). Signed minimum of two a registers. -/
  | amin (f : A3Ops)
  /-- AMAX (R128). Signed maximum of two a registers. -/
  | amax (f : A3Ops)
  /-- ALEA (R128). Adds aa to ab shifted left by a small immediate. -/
  | alea (f : LeaOps)
  /-- ACMP (R128). Compares two a registers into an address predicate. -/
  | acmp (f : AcmpOps)
  /-- AMOV (R128). Copies an a register. -/
  | amov (f : A2Ops)
  /-- A2S (R128). Copies the low word of the lowest member's a register into a scalar. -/
  | a2s (f : A2sOps)
  /-- S2A (R128). Sign-extends a scalar into an a register of every member. -/
  | s2a (f : S2aOps)
  /-- AADDI (R129). Adds an immediate to an a register. -/
  | aaddi (f : AiOps)
  /-- ALI (R129). Loads an immediate into an a register. -/
  | ali (f : AliOps)
  /-- ALUI (R129). Adds an immediate shifted left by 32 to an a register. -/
  | alui (f : AiOps)
  /-- AANDI (R129). ANDs an a register with an immediate. -/
  | aandi (f : AiOps)
  /-- AORI (R129). ORs an a register with an immediate. -/
  | aori (f : AiOps)
  /-- ASHLI (R129). Shifts an a register left by an immediate. -/
  | ashli (f : AshOps)
  /-- ASHRI (R129). Shifts an a register right logically by an immediate. -/
  | ashri (f : AshOps)
  /-- ACMPI (R129). Compares an a register with an immediate into an address predicate. -/
  | acmpi (f : AcmpiOps)
  /-- LDQ (R267). Loads from memory per member and delivers the data to qld. -/
  | ldq (f : LdqOps)
  /-- LDA (R267). Empties an a register and issues a load that will fill it. -/
  | lda (f : MOps)
  /-- ST (R267). Stores qsd words or an a register to memory per member. -/
  | st (f : MOps)
  /-- ATOM_ADD (R268). Atomic add at the home slice or bank with optional return to qld. -/
  | atomAdd (f : AtomOps)
  /-- ATOM_MIN (R268). Atomic signed or unsigned minimum. -/
  | atomMin (f : AtomMOps)
  /-- ATOM_MAX (R268). Atomic signed or unsigned maximum. -/
  | atomMax (f : AtomMOps)
  /-- ATOM_AND (R268). Atomic AND. -/
  | atomAnd (f : AtomOps)
  /-- ATOM_OR (R268). Atomic OR. -/
  | atomOr (f : AtomOps)
  /-- ATOM_XOR (R268). Atomic XOR. -/
  | atomXor (f : AtomOps)
  /-- ATOM_XCHG (R268). Atomic exchange. -/
  | atomXchg (f : AtomOps)
  /-- ATOM_CAS (R268). Atomic compare-and-swap with comparand and new value from qsd. -/
  | atomCas (f : AtomOps)
  /-- LDL (R270). Loads local store through a window into an a register. -/
  | ldl (f : LtOps)
  /-- STL (R270). Stores an a register to local store through a window. -/
  | stl (f : LtOps)
  /-- LDT (R271). Reads a descriptor, checks a tile coordinate and starts a register-file-port decode into qld. -/
  | ldt (f : LtOps)
  /-- STT (R274). Accepts a tile encode and begins popping 256 FP32 values from qsd. -/
  | stt (f : LtOps)
  /-- BR (R130). Branches every member to a target, setting block priority. -/
  | br (f : BrOps)
  /-- BRT (R130). Branches members whose predicate reads 1. -/
  | brt (f : BrpOps)
  /-- BRF (R130). Branches members whose predicate reads 0. -/
  | brf (f : BrpOps)
  /-- CALL (R132). Pushes the return address on each member's return stack and branches. -/
  | call (f : BrOps)
  /-- RET (R132). Pops each member's return stack and branches to it. -/
  | ret (f : RetOps)
  /-- JMPS (R130). Branches every member by a scalar word displacement. -/
  | jmps (f : JmpsOps)
  /-- EXIT (R21). Ends the strand for each member, ending threads whose queues are empty. -/
  | exit
  /-- CPL (R289). Checks and accepts a per-lane copy as one CPY operation, optionally bound to a barrier. -/
  | cpl (f : CplOps)
  /-- CPK (R291). Reads and checks n request blocks and accepts each as a CPY operation. -/
  | cpk (f : CpkOps)
  /-- PFT (R300). Accepts a tier prefetch of a range into home slices. -/
  | pft (f : PftOps)
  /-- TLOAD (R303). Checks and accepts decodes of c tiles into claimed operand slots. -/
  | tload (f : TloadOps)
  /-- TSCLAIM (R302). Claims and zeroes c consecutive operand slots for the group. -/
  | tsclaim (f : SlotOps)
  /-- TSREL (R302). Releases c operand slots after earlier operations on them. -/
  | tsrel (f : SlotOps)
  /-- MMA (R307). Reads and checks a parameter block and accepts a matrix product. -/
  | mma (f : XaOps)
  /-- MDIST (R307). Reads and checks a parameter block and accepts a squared-distance operation. -/
  | mdist (f : XaOps)
  /-- MTOPK (R307). Reads and checks a parameter block and accepts a top-k selection. -/
  | mtopk (f : XaOps)
  /-- MATTN (R307). Reads and checks a parameter block, descriptors and handles and accepts an attention pass. -/
  | mattn (f : XaOps)
  /-- MACZ (R314). Zeroes an accumulator tile and its row-statistics area after earlier MAT operations. -/
  | macz (f : MaczOps)
  /-- MACRD (R315). Empties compute-strand v registers and accepts an accumulator read into them. -/
  | macrd (f : MacrdOps)
  /-- SPAWN (R328). Checks a spawn block and kernel record and places the spawn in the cluster's spawn queue. -/
  | spawn (f : XaOps)
  /-- VWSYNC (R281). Counts a VEW operation that completes when the view's pending refreshes end. -/
  | vwsync (f : XaOps)
  /-- VWSTAT (R282). Reads and clears the group's view status word. -/
  | vwstat (f : XdOps)
  /-- SEGMK (R278). Makes a starter segment in free SCR banks and attaches it. -/
  | segmk (f : SegmkOps)
  /-- SEGATT (R279). Attaches a starter segment by name, optionally pulling it to the core. -/
  | segatt (f : SegattOps)
  /-- SEGDET (R279). Detaches a starter segment from the group after its accesses complete. -/
  | segdet (f : XaOps)
  /-- SEGDROP (R280). Drops a starter segment. -/
  | segdrop (f : XaOps)
  /-- SEGSEAL (R280). Completes once prior writes to the segment are performed, acting as a release. -/
  | segseal (f : XaOps)
  /-- CTLOAD (R218). Reads and validates a code table and installs it in a context slot. -/
  | ctload (f : CtloadOps)
  /-- CTINV (R218). Invalidates a code-table slot. -/
  | ctinv (f : CtinvOps)
  /-- XLMAP_NEW (R351). Makes a new KV sequence handle from a template. -/
  | xlmapNew (f : XadOps)
  /-- XLMAP_RD (R351). Resolves a token of a sequence and writes a descriptor for reading its tile. -/
  | xlmapRd (f : XlmapOps)
  /-- XLMAP_WR (R351). Prepares a token for writing, sealing, allocating or copying the open page, and commits. -/
  | xlmapWr (f : XlmapOps)
  /-- XLFORK (R353). Makes a forked handle sharing every page of a sequence. -/
  | xlfork (f : XadOps)
  /-- XLFREE (R353). Frees a handle, lowering the counts of its slots. -/
  | xlfree (f : XaOps)
  /-- XLFREE_ACCEPT (R353). Moves a fork's record into a target handle and frees the fork. -/
  | xlfreeAccept (f : XabOps)
  /-- XLSEAL (R352). Seals the open page of a sequence into a packed slot. -/
  | xlseal (f : XaOps)
  /-- XLPFX (R354). Makes a new handle holding the first m tokens of a sequence. -/
  | xlpfx (f : XlmapOps)
  /-- EVWAIT (R357). Continues if the event is set, otherwise registers the entry as a waiter. -/
  | evwait (f : EvOps)
  /-- EVSET (R357). Sets an event and releases its waiters. -/
  | evset (f : EvOps)
  /-- EVCLR (R357). Clears an event. -/
  | evclr (f : XaOps)
  /-- EVTEST (R357). Reads an event's state into an a register. -/
  | evtest (f : EvdOps)
  /-- TBINIT (R367). Initialises a transaction barrier with owner tag and reload. -/
  | tbinit (f : XabOps)
  /-- TBARV (R367). Counts k arrivals on a barrier as a release at team scope. -/
  | tbarv (f : TbarvOps)
  /-- TBARV_LANES (R367). Counts one arrival per member on a barrier. -/
  | tbarvLanes (f : XaOps)
  /-- TBEXP (R367). Adds expected sectors to a barrier. -/
  | tbexp (f : XabOps)
  /-- TBEXP_ARV (R367). Adds expected sectors and one arrival to a barrier in one step. -/
  | tbexpArv (f : XabOps)
  /-- TBWAIT (R367). Returns the barrier flags if its phase differs from P, otherwise registers as a waiter. -/
  | tbwait (f : XabdOps)
  /-- CWAIT (R362). Waits until a class counter falls to the bound and reports one unreported failure. -/
  | cwait (f : CwaitOps)
  /-- FENCE (R275). Orders the members' accesses at a scope and order. -/
  | fence (f : FenceOps)
  /-- TRAP (R171). Raises TRAP_n in every member. -/
  | trap (f : TrapOps)
  /-- TRET (R172). Returns each member from its handler to tpc, restoring block priority. -/
  | tret
  /-- BRK (R171). Raises BREAKPOINT in every member with a code. -/
  | brk (f : BrkOps)
  /-- CSRR (R173). Reads a control register into each member's register. -/
  | csrr (f : CsrOps)
  /-- CSRW (R173). Writes a control register of each member. -/
  | csrw (f : CsrOps)
  /-- SLEEP (R135). Blocks the entry's members for n cycles. -/
  | sleep (f : SleepOps)
  /-- YIELD (R136). Defers the issuing entry until the strand's other ready entries have issued. -/
  | yield
  /-- RGROW (R112). Grows the group's v allocation and waits for the extra chunks. -/
  | rgrow (f : GrowOps)
  /-- RSHRINK (R112). Shrinks the group's v allocation after outstanding producers deliver. -/
  | rshrink (f : GrowOps)
  /-- RSYNC (R138). Writes back the strand's forwarding window and waits for its late producers. -/
  | rsync
  /-- LSMODE (R276). Checks and starts a mode change of a local-store bank. -/
  | lsmode (f : LsmodeOps)
  /-- NOP (R134). Changes nothing but the PC. -/
  | nop
  /-- H_IMM (R73). Hint word supplying upper immediate bits to its target. -/
  | hImm (f : HintOps)
  /-- H_IMX (R73). Hint word supplying immediate bits [53:32] to an ADDRI target. -/
  | hImx (f : HintOps)
  /-- H_KILL (R88). Hint word marking registers dead after the target reads them. -/
  | hKill (f : HintOps)
  /-- H_SCHED (R89). Hint word setting urgency, streaming and L1 allocation of the target. -/
  | hSched (f : HintOps)
  /-- H_MOD (R90). Hint word overriding rounding, flush and saturation of the target. -/
  | hMod (f : HintOps)
  /-- H_PRED (R91). Hint word restricting the target to members selected by a predicate. -/
  | hPred (f : HintOps)
  /-- LOAD_DELIVERY (R266). Returned load or atomic data enter the thread's qld in issue order. -/
  | loadDelivery (g : Nat) (acc : Nat)
  /-- LDA_FILL (R267). Returned lda data fill the destination a register and set its full bit. -/
  | ldaFill (g : Nat) (acc : Nat)
  /-- LDT_DELIVERY (R273). Decoded ldt words enter members' qld as room is made. -/
  | ldtDelivery (g : Nat) (op : Nat)
  /-- STT_POP_STEP (R274). An accepted stt pops one value from every member's qsd. -/
  | sttPopStep (g : Nat) (op : Nat)
  /-- TILE_DECODE (R220). A decode port reads a tile's entry and stream, checks it and delivers or fails it. -/
  | tileDecode (core : Nat) (port : Nat)
  /-- ENCODE_TILE (R222). The encode path encodes 256 values, writes the stream and then the entry. -/
  | encodeTile (core : Nat)
  /-- COPY_ITEM (R294). The copy engine reads, writes and counts down one destination sector. -/
  | copyItem (o : OpRef)
  /-- CPL_ITEM (R289). The copy engine performs one lane of a cpl and counts its sector down. -/
  | cplItem (g : Nat) (op : Nat) (lane : Nat)
  /-- PREFETCH_LINE (R301). A prefetch fills one line at its home slice and counts its sectors down. -/
  | prefetchLine (g : Nat) (op : Nat)
  /-- MATRIX_PRODUCT_EXECUTE (R309). The matrix engine performs an mma or mdist into an accumulator tile. -/
  | matrixProductExecute (core : Nat)
  /-- TOPK_EXECUTE (R310). The matrix engine merges candidates into top-k entries. -/
  | topkExecute (core : Nat)
  /-- ATTENTION_EXECUTE (R312). The matrix engine performs an attention pass over token tiles. -/
  | attentionExecute (core : Nat)
  /-- ACCUMULATOR_READ (R315). The matrix engine writes accumulator data into macrd's destinations. -/
  | accumulatorRead (core : Nat)
  /-- PROOF_SAMPLE (R64). A sampled output tile is recomputed on the reference path and a record written. -/
  | proofSample (core : Nat)
  /-- PMVAL_REPLY (R110). The monitor block returns pmval and fills the csrr destination. -/
  | pmvalReply (g : Nat) (strand : Strand) (lane : Nat)
  /-- VIEW_REFRESH (R241). The view engine re-derives a pending view block and publishes its entry. -/
  | viewRefresh (cluster : Nat)
  /-- SPAWN_ACCEPT (R329). The dispatcher accepts a queued spawn, numbering its groups and raising the rise counter. -/
  | spawnAccept (g : Nat) (op : Nat)
  /-- GROUP_ADMIT (R34). A PENDING group or team first enters RESIDENT on its core. -/
  | groupAdmit (g : Nat) (core : Nat)
  /-- GROUP_READMIT (R34). A PARKED group or team is readmitted with its window restored. -/
  | groupReadmit (g : Nat)
  /-- GROUP_PARK (R35). An eligible group or team is parked, saving its window and frontiers. -/
  | groupPark (g : Nat)
  /-- GROUP_RETIRE (R36). A DRAINING group whose counters read zero retires and lowers the rise counter. -/
  | groupRetire (g : Nat)
  /-- REG_GRANT (R113). Free chunks are granted to the oldest register waiter. -/
  | regGrant (core : Nat)
  /-- TURN_TIMER_EXPIRY (R25). A ready entry's wait age exceeds the turn timer and it takes precedence. -/
  | turnTimerExpiry (g : Nat) (strand : Strand)
  /-- FRONTIER_SPILL_EXCHANGE (R27). After a turn, the head of the spill list swaps with the lowest-priority hardware entry. -/
  | frontierSpillExchange (g : Nat) (strand : Strand)
  /-- DEADLOCK_COUNT (R23). A thread's deadlock count reaches 2^20 and STRAND_DEADLOCK is raised. -/
  | deadlockCount (g : Nat) (lane : Nat)
  /-- SWAP_THRESHOLD (R35). A group's idle or residence time reaches the swap threshold and it becomes eligible for parking. -/
  | swapThreshold (g : Nat)
  /-- ADMISSION_WAIT_LIMIT (R34). A waiting group reaches 2^20 cycles and takes first place for admission. -/
  | admissionWaitLimit (g : Nat)
  /-- SLEEP_EXPIRY (R135). A sleep count expires and its members continue. -/
  | sleepExpiry (g : Nat) (strand : Strand) (entry : Nat)
  /-- LSMODE_COMPLETE (R195). A bank's mode-change action finishes and the new mode takes effect. -/
  | lsmodeComplete (core : Nat) (bank : Nat)
  /-- SEGMENT_EVICT (R233). The scheduler chooses a segment for eviction when banks are needed. -/
  | segmentEvict (core : Nat)
  /-- SEGMENT_EVICTION_COMPLETE (R229). An evicting segment's bytes reach its backing area and its banks are freed. -/
  | segmentEvictionComplete (ctx : Nat) (seg : Nat)
  /-- SEGMENT_RESTORE_COMPLETE (R229). A restoring or moving segment's bytes land and it becomes RESIDENT. -/
  | segmentRestoreComplete (ctx : Nat) (seg : Nat)
  /-- SEED_START (R232). After named segments are placed, the launch's seed starts as PENDING on its core. -/
  | seedStart (q : Nat)
  /-- MSC_EVICTION (R188). An MSC slice evicts a line, writing back its dirty sectors. -/
  | mscEviction (line : Nat)
  /-- MONITOR_SNAPSHOT (R375). A monitor's sample count reaches a multiple of 2^SNAP and a snapshot is written. -/
  | monitorSnapshot (cluster : Nat) (mon : Nat)
  /-- DOORBELL (R330, R380). A host store to the page of function `q / 32` rings its hardware queue `q % 32`, and Igier reads WIDX. -/
  | doorbell (q : Nat)
  /-- NOP_PACKET (R332). Igier serves a NOP packet. -/
  | nopPacket (q : Nat)
  /-- LAUNCH (R334). Igier serves a LAUNCH packet, placing and starting a seed group. -/
  | launch (q : Nat)
  /-- WAIT (R332). Igier serves a WAIT packet on a semaphore or event. -/
  | wait (q : Nat)
  /-- SIGNAL (R332). Igier serves a SIGNAL packet, adding to a semaphore or setting an event. -/
  | signal (q : Nat)
  /-- COPY (R332). Igier serves a COPY packet of request blocks. -/
  | copy (q : Nat)
  /-- VIEW_REG (R237). Igier serves a VIEW_REG packet, registering or dropping a view. -/
  | viewReg (q : Nat)
  /-- PACKET_COMPLETE (R333). A packet's work ends; Igier releases, writes the completion record, signals and advances RIDX. -/
  | packetComplete (q : Nat)
  /-- SEMAPHORE_POLL (R332). A waiting WAIT rereads its semaphore after 65,536 cycles. -/
  | semaphorePoll (q : Nat)
  /-- EVENT_OVERFLOW_POLL (R356). A waiter that found the overflow area full rereads the event state. -/
  | eventOverflowPoll (g : Nat) (strand : Strand) (entry : Nat)
  /-- RING_CONS_POLL (R338). The device rereads a ring's CONS and writes held records when space returns. -/
  | ringConsPoll (ctx : Nat) (ring : Nat)
  /-- FAULTANS (R168). A servicing agent answers a fault with replay or refuse. -/
  | faultans (part : Nat) (value : BitVec 64)
  /-- INVAL (R344). A store to the high word starts a TLB invalidation command for a context. -/
  | inval (part : Nat) (ctx : Nat) (hi : BitVec 64)
  /-- INVALIDATION_COMPLETE (R344). Accesses using dropped entries have been performed and the command completes. -/
  | invalidationComplete (part : Nat) (ctx : Nat)
  /-- CTXCMD_CREATE (R381). Creates a context from a context record, or refuses it. -/
  | ctxcmdCreate (part : Nat) (value : BitVec 60)
  /-- CTXCMD_DESTROY (R383). Ends and tears down a context whether running or out. -/
  | ctxcmdDestroy (part : Nat) (value : BitVec 60)
  /-- CTXCMD_PREEMPT (R384). Starts pre-emption of a running context. -/
  | ctxcmdPreempt (part : Nat) (value : BitVec 60)
  /-- PREEMPT_SAVE (R176). Once the boundary is reached, the context is saved and PREEMPT_DONE written. -/
  | preemptSave (ctx : Nat)
  /-- CTXCMD_RESUME (R384). Requests resume of a pre-empted context. -/
  | ctxcmdResume (part : Nat) (value : BitVec 60)
  /-- CONTEXT_RESUME (R183). Once its cores are free, the context's saved state is reloaded and engine records reissued. -/
  | contextResume (ctx : Nat)
  /-- QCMD_BIND (R382). Binds a hardware queue to a context through its QCB. -/
  | qcmdBind (part : Nat) (value : BitVec 60)
  /-- QCMD_UNBIND (R382). Starts unbinding a hardware queue, setting HALT. -/
  | qcmdUnbind (part : Nat) (value : BitVec 60)
  /-- QUEUE_FREE (R382). The packet in progress ends and the unbound queue is freed. -/
  | queueFree (q : Nat)
  /-- MONCFG (R373). Writes a monitor's configuration and resets its capture state. -/
  | moncfg (part : Nat) (cluster : Nat) (mon : Nat) (value : BitVec 64)
  /-- DOMAIN (R389). Sets the domain number and enables Barpor training. -/
  | domain (value : BitVec 64)
  /-- EXTASN (R385). Assigns a CXL granule to a partition, writing back lines on reassignment. -/
  | extasn (value : BitVec 64)
  /-- CORRSEL (R390). Samples a core's cyc and PTM time together. -/
  | corrsel (part : Nat) (core : Nat) (ptm : BitVec 64)
  /-- REGISTER_WRITE (R380). A write to a register page register that has no behaviour of its own. -/
  | registerWrite (part : Nat) (off : Nat) (value : BitVec 64)
  /-- KICK (R299). A store to KICK starts request copies for the storing lane. -/
  | kick (g : Nat) (lane : Nat) (value : BitVec 64)
  /-- MSTAT (R287). A store clears bits of the group's sticky matrix status. -/
  | mstat (g : Nat) (value : BitVec 64)
  /-- CREATE_REGION (R201). Creates a confidential memory region with a fresh key and encrypted zeros. -/
  | createRegion (region : Nat) (tdi : Nat) (base : Nat) (len : Nat)
  /-- DESTROY_REGION (R201). Invalidates a region's lines and destroys its key. -/
  | destroyRegion (region : Nat)
  /-- TDI_LEAVE_RUN (R203). A TDI leaving RUN ends its contexts and destroys its regions' keys. -/
  | tdiLeaveRun (tdi : Nat)
  /-- SPDM_REQUEST (R386). The device answers an SPDM request on the host port. -/
  | spdmRequest (req : Nat)
  /-- RECOVERY_IMAGE (R388). A firmware image supplied through the recovery mailbox is verified and written. -/
  | recoveryImage (image : Nat)
  /-- DEVICE_RESET (R389). Power-up runs the bring-up sequence. -/
  | deviceReset
  /-- CORE_SCAN (R392). An eligible core whose scan interval has passed starts an in-field scan. -/
  | coreScan (core : Nat)
  /-- SCAN_END (R392). A scan's signature compare returns the core to service or removes it. -/
  | scanEnd (core : Nat) (pass : Bool)
  /-- SCAN_ABORT (R392). A launch at or above the abort class stops a scan. -/
  | scanAbort (core : Nat)
  /-- D3HOT (R393). Entry to D3hot ends every context. -/
  | d3hot
  /-- D3COLD (R393). Entry to D3cold loses all state. -/
  | d3cold
  /-- POWER_LIMIT_THROTTLE (R393). Core clocks are lowered in 100 MHz steps to stay under the power limit. -/
  | powerLimitThrottle (milliwatts : Nat)
  /-- THERMAL_THROTTLE (R393). A junction temperature of 105 C lowers the clocks. -/
  | thermalThrottle (celsius : Nat)
  /-- THERMAL_SHUTDOWN (R393). A junction temperature of 115 C ends every context and powers off the package. -/
  | thermalShutdown (celsius : Nat)
  /-- EXTENT_RELEASE (R205). A cooperative release of a CXL extent starts draining its dirty lines. -/
  | extentRelease (ext : Nat)
  /-- EXTENT_RELEASE_ACK (R205). A drained cooperative release is acknowledged. -/
  | extentReleaseAck (ext : Nat)
  /-- EXTENT_REVOKE (R205). A forced revocation discards dirty lines and poisons the extent's pages. -/
  | extentRevoke (ext : Nat)
  /-- ECC_UNCORRECTABLE (R189). An uncorrectable error poisons a line and writes an error record. -/
  | eccUncorrectable (line : Nat) (kind : Nat)
  /-- BARPOR_FLIT (R391). A Barpor flit arrives and its requests are taken, or it is replayed on CRC failure. -/
  | barporFlit (port : Nat) (crcOk : Bool) (addr : Nat) (data : Nat)
  /-- RDMA_ACCESS (R391). An RDMA access to device memory is performed at the line's home slice. -/
  | rdmaAccess (part : Nat) (write : Bool) (addr : Nat) (data : Nat)
  /-- CORE_CYCLE (R372). Each cycle of a core's clock adds 1 to cyc and advances wait ages, deadlock counts and sleep counts. -/
  | coreCycle (core : Nat)
  /-- L1_EVICTION (R256). A CACHE-bank L1 line is evicted and its dirty bytes are written back to the home slice. -/
  | l1Eviction (core : Nat) (line : Nat)
  /-- STORE_PERFORMED (R264). A store or non-returning atomic that has left the core is performed at its home, possibly raising
  MEMORY_POISON or setting view pending bits. -/
  | storePerformed (g : Nat) (acc : Nat)
  /-- DYNAMIC_CAPACITY_ADD (R186). The fabric manager adds a CXL dynamic-capacity extent, making its granules reachable. -/
  | dynamicCapacityAdd (ext : Nat) (base : Nat) (len : Nat)
  /-- BARPOR_LINK_DOWN (R391). A trained Barpor link is lost, so domain accesses over it raise REMOTE_UNREACHABLE. -/
  | barporLinkDown (port : Nat)
  /-- PARTITION_ASSIGN (R379). The PF assigns whole clusters, with their queues and monitors, to a VF partition. -/
  | partitionAssign (cluster : Nat) (part : Nat)
  deriving DecidableEq, Repr

end Sys2Proof
end

