-- ==== Sys2Proof/Machine/State.lean ====
section
/-! DEFINITION. The state of the machine as plain data: everything the manual gives the Lanien L7, from the registers of a
lane to the context table of a partition, and the state after reset. -/

namespace Sys2Proof.Machine

open Sys2Proof

/-- Why the machine stops. -/
inductive Fault where
  /-- An instruction word is executed with no issuing frontier entry. Only `exec` applied by hand reaches it: `step` sets
  `State.cur` before it executes a word. Safe: the machine stops. -/
  | noIssue
  deriving DecidableEq, Repr

/-- Why an instruction has no meaning. -/
inductive Refusal where
  /-- An opcode-table row without a meaning. Raised by `exec` alone. Safe: the machine stops. -/
  | notModelled (mnemonic : String)
  deriving DecidableEq, Repr

/-- A cause with its tval and tinfo (R161). -/
structure Cause where
  code : Nat
  val  : Nat := 0
  info : Nat := 0
  deriving DecidableEq, Repr

/-! ### Threads -/

/-- The trap registers, handler mark, priorities, return stack and end mark of one strand of one thread
(R102, R169, R24, R131, R21). -/
structure StrandRegs where
  tcause : Word := 0#32
  tpc    : DWord := 0#64
  tval   : DWord := 0#64
  tinfo  : DWord := 0#64
  tvec   : DWord := 0#64
  th     : Bool := false
  sprio  : BitVec 4 := 0#4
  bprio  : BitVec 4 := 0#4
  stack  : List VAddr := []
  ended  : Bool := false
  deriving DecidableEq, Repr

/-- One thread: its control registers, its two strands and its four queues (R102, R318, R359). `wide` says that it has made a strong
read whose scope reaches beyond the core's L1, `fenced` that it has passed a release fence, after which its strong writes are releases
(R252). -/
structure Thread where
  fmode    : Word := 0#32
  f4x      : Word := 0x80000000#32
  pmsel    : Word := 0#32
  comp     : StrandRegs := {}
  addr     : StrandRegs := {}
  qld      : List Word := []
  qac      : List DWord := []
  qca      : List DWord := []
  qsd      : List Word := []
  deadlock : Nat := 0
  wide     : Bool := false
  fenced   : Bool := false
  ended    : Bool := false
  deriving DecidableEq, Repr

/-! ### Frontiers -/

/-- A member that waits for the answer to a translation fault: its lane, the fault's number in the context, the address and
the access kind (R168). -/
structure FaultWait where
  lane : Nat
  id   : Nat
  va   : Nat
  kind : Nat
  deriving DecidableEq, Repr

/-- Whether a frontier entry is open, or what it is blocked in (R24, R37). -/
inductive Block where
  | ready
  /-- Registers, named by their codes, must be full first (R71, R112, R138). -/
  | regs (codes : List Nat)
  /-- A pop of `n` entries of queue `q` (R320). -/
  | pop (q n : Nat)
  /-- A push of `n` entries to queue `q`; for qld the room that a delivery of `n` words needs (R320, R266). -/
  | push (q n : Nat)
  /-- An engine command that its class counter, or the spawn queue, does not yet accept (R286, R328). -/
  | engine (cls : Nat)
  /-- Accesses of the group that must be performed first (R249, R253). -/
  | accesses (ids : List Nat)
  /-- Engine operations of the group that must end first: tsrel and macz (R302, R305, R314). -/
  | opsEnd (ids : List Nat)
  /-- A FIFO bank that holds fewer than `n` slots (R324). -/
  | fifo (core bank n : Nat)
  /-- A segment that moves, by name (R230). -/
  | segment (name : Nat)
  /-- A run of `n` SCR banks of the core must be free; for segmk, or must be out of reach (R226, R233). -/
  | banks (n : Nat) (make : Bool)
  /-- A cross-lane arrival: its mask, its word, and the fmode of its lowest member at arrival (R40, R154). -/
  | lanes (mask : DWord) (word fmode : Word)
  /-- A rendezvous arrival: sending or receiving at a slot, in arrival order, with its run and the members that act (R91, R115). -/
  | rendezvous (send : Bool) (slot stamp reg w : Nat) (lanes : List Nat)
  /-- Waiting for an event, to acquire at a scope; `polls` counts down to the next read when the overflow area was full (R356,
  R357). -/
  | event (name scope : Nat) (polls : Option Nat)
  /-- Waiting at a transaction barrier, by holding core and bank byte, for its phase to leave `phase`; the result register, and
  the value read at a release while the group was parked (R367, R369). -/
  | barrier (core addr phase dst : Nat) (released : Option Nat)
  /-- cwait of class `cls` with bound `n` (R362). -/
  | counter (cls n : Nat)
  /-- rsync, until late producers have filled registers, named by their codes (R138). -/
  | rsync (codes : List Nat)
  /-- sleep, with the cycles left (R135). -/
  | sleep (left : Nat)
  /-- rgrow, or rshrink where `shrink`, with its place among the group's requests (R113, R137). -/
  | grow (k stamp : Nat) (shrink : Bool)
  /-- A prefix split that waits for the register-file port and the encode path of its core, with its place among the arrivals there: its
  number and its cycle (R15, R354). -/
  | port (stamp cyc : Nat)
  /-- Waiting for answers to translation faults; `mem`, of a load, store or atomic, are the registers that it holds empty
  (R110, R111, R168). -/
  | faults (who : List FaultWait) (mem : Option (List Nat) := none)
  /-- An accepted stt still popping its values (R274). -/
  | stt (op : Nat)
  /-- An accepted ldt, or an stt whose values are popped, with pages to be compared with its descriptor's region that do not translate yet
  (R209). -/
  | tile (op : Nat)
  /-- lsmode of a bank in progress (R194). -/
  | bank (bank : Nat)
  /-- An lsmode that waits for another mode change of the core to end (R194). -/
  | switching
  deriving DecidableEq, Repr

/-- A frontier entry (R24): its program counter, the hint words of the sequence it has issued so far (R86), its members,
wait age and block. `id` names the entry in its group; `yieldFor` are the entries that must issue before it is chosen
again (R136); `at_` is the place, among the instructions of the strand, of the one it is blocked in (R108). -/
structure Entry where
  id       : Nat
  pc       : VAddr
  hints    : List Word := []
  members  : List Nat
  age      : Nat := 0
  block    : Block := .ready
  yieldFor : List Nat := []
  at_      : Nat := 0
  deriving DecidableEq, Repr

/-- The frontier of one strand: at most eight hardware entries, the spill list, and the cycles since the last exchange
(R24, R27). `beats` are the cycles for which the strand still holds its issue slot, `fresh` the first id that an entry made by
the instruction in that slot can have, `chosen` the entry that was taken for it, by id and members, until the step ends, `held` the
entries in which that entry goes on, by id, and `last` the place of its issue among all issues (R25, R26, R28). -/
structure Frontier where
  hw    : List Entry := []
  spill : List Entry := []
  turn  : Nat := 0
  beats : Nat := 0
  fresh : Nat := 0
  chosen : Option (Nat × List Nat) := none
  held  : List Nat := []
  last  : Nat := 0
  deriving DecidableEq, Repr

/-! ### Memory accesses and engine operations -/

/-- What an access of a lane does (R267, R268). -/
inductive AccKind where
  | loadQ
  | loadA (t : Nat)
  | store (data : List Byte)
  | atomic (op : Nat) (uns ret : Bool) (v nv : Nat)
  deriving DecidableEq, Repr

/-- One access of one lane that has issued (R249, R264). `pieces` are the physical byte runs (address, length) it touches
in order; `todo` are the numbers of those still to be performed, once one has been, and `got` what each has read (R247); `value` is what
it read, once performed; `pc` the first word of its sequence, `cyc` the core's clock at issue, and
`poison` what MEMORY_POISON would report (R189); `nol1` and `stream` say how its lines are cached (R89, R341). -/
structure Access where
  id      : Nat
  issue   : Nat
  lane    : Nat
  kind    : AccKind
  order   : Nat
  scope   : Nat
  va      : Nat
  size    : Nat
  pieces  : List (Nat × Nat)
  nol1    : Bool := false
  stream  : Bool := false
  pc      : VAddr := 0
  cyc     : Nat := 0
  todo    : Option (List Nat) := none
  got     : SMap Nat := []
  performed : Bool := false
  value   : Nat := 0
  poison  : Option Nat := none
  deriving DecidableEq, Repr

/-- A tensor descriptor as read (R208). -/
structure Desc where
  addr   : Nat
  data   : Nat
  index  : Nat
  ext    : List Nat
  ndim   : Nat
  shape  : Nat
  fmt    : Nat
  tables : Nat
  extra  : Word
  zrule  : Nat
  zpoint : Nat
  vkind  : Nat
  master : Nat
  vidx   : Nat
  stale  : Nat
  region : Nat
  deriving DecidableEq, Repr

/-- The decoded form of a tile (R215): 256 containers or codes and, for block formats, the scales. -/
structure Tile where
  fmt  : Nat
  elems : List Nat
  mu    : BitVec 128
  subs  : List Nat
  scale : BitVec 16
  extra : Word
  zrule : Nat
  zpoint : Nat
  descAddr : Nat
  coord : Nat
  deriving DecidableEq, Repr

/-- What an outstanding engine operation is (R180). -/
inductive OpKind where
  /-- cpl: (lane, destination, source) per item, size in bytes, the barrier's address (R288). -/
  | cpl (items : List (Nat × Nat × Nat)) (size bar : Nat) (arv : Bool)
  /-- cpk or a COPY packet block: the request block (R292), the plane, row and byte of the row that come next, and the packed
  values taken so far (R294, R296). -/
  | copy (block plane row pos taken : Nat)
  /-- A decode copy or an encode copy with its descriptor (R297, R298); the image of a decode copy, once decoded. -/
  | copyTile (block : Nat) (desc : Desc) (image : Option (List Byte))
  /-- pft: start, lines, completion code, ab (R300). -/
  | pft (start lines comp ab : Nat) (partialSeen : Bool)
  /-- tload: descriptor, packed coordinates, first slot (R303). -/
  | tload (desc : Desc) (coords : List Nat) (slot : Nat)
  /-- ldt: descriptor, coordinate, with scale words, members (R271). `words` are the decoded words per lane not yet in
  qld, once decoded. -/
  | ldt (desc : Desc) (coord : Nat) (scales : Bool) (members : List Nat) (words : Option (List (Nat × List Word)))
  /-- stt: descriptor, coordinate, members, the values popped so far (R274). -/
  | stt (desc : Desc) (coord : Nat) (members : List Nat) (values : SMap Word)
  /-- mma, mdist, mtopk, mattn by kind 0 to 3: the parameter block with its address, mattn's descriptors and KV snapshots, and
  the outputs of mattn on the reference path so far, by 64 m + j (R64, R306, R347). -/
  | mat (op va block : Nat) (descs : List Desc) (snaps : List (List Nat)) (ref : SMap Word)
  /-- macrd: members, v register, run length, tile, mode, row, column, log2 kp (R315). -/
  | macrd (members : List Nat) (d n tile mode row col kp : Nat)
  /-- vwsync: the view and the (stack, tile) blocks of the refreshes it waits for (R281). -/
  | vwsync (view : Nat) (blocks : List (Nat × Nat))
  /-- spawn: the spawn block's number and kernel record address (R327). -/
  | spawn (block : Nat)
  deriving DecidableEq, Repr

/-- How far a tile read through a view under the policy WAIT has come (R242): not checked, waiting for `left` refreshes of a block
(view, stack, tile) to publish, or free to bind. -/
inductive Stall where
  | unchecked
  | waiting (view stack tile left : Nat)
  | passed
  deriving DecidableEq, Repr

/-- An engine operation of a group (R258, R360): `seq` is its place in its class's issue order, `stamp` its arrival number at its engine,
`cyc` the core's clock at issue, `bound` its clock when the last tile's entry was read, `entry` the index entry of the tile under decode
with the code table that it has bound (R219), `staged` the tiles of K and V that an attention pass has decoded for its token tile (R311),
`count` its items, `barOff` the core-window offset of its barrier, `bars` where its barriers lie (core, byte), `faultVa` the address of a
faulted item, `next` the first item not yet done, `stall` the view read of that item, `waits` the accesses that it must come after (R257),
`kept` whether it has ended while its context was brought to the boundary of a pre-emption, and is recorded as completed (R179, R429),
`stream` whether the slices allocate its lines at lowest retention (R89). -/
structure Op where
  id     : Nat
  cls    : Nat
  seq    : Nat
  stamp  : Nat
  lane   : Nat
  core   : Nat
  kind   : OpKind
  cyc    : Nat := 0
  bound  : Nat := 0
  entry  : Option (Nat × Option (Nat × List Nat)) := none
  staged : List Tile := []
  count  : Nat := 1
  barOff : Nat := 0
  bars   : List (Nat × Nat) := []
  faultVa : Nat := 0
  next   : Nat := 0
  stall  : Stall := .unchecked
  accepted : Bool := true
  waits  : List Nat := []
  faultIds : List Nat := []
  ended  : Bool := false
  failed : Option Cause := none
  reported : Bool := false
  kept   : Bool := false
  stream : Bool := false
  deriving DecidableEq, Repr

/-! ### Kernel records, groups, teams, trees -/

/-- A kernel record as read (R325). -/
structure Kernel where
  addr    : Nat := 0
  starters : List Nat := []
  argLog  : Nat := 0
  urg     : Bool := false
  prio    : Nat := 0
  turn    : Nat := 4
  scratch : Nat := 0
  scal    : Nat := 0
  regs    : Nat := 1
  width   : Nat := 0
  args    : Nat := 0
  centry  : Nat := 0
  aentry  : Nat := 0
  deriving DecidableEq, Repr

/-- The states of a group (R30); a RETIRED group is no longer listed. -/
inductive GroupStatus where
  | pending
  | resident
  | parked
  | draining
  deriving DecidableEq, Repr

/-- A csrr of pmval whose value is still to come: its strand, lane, destination register and pmsel at issue (R103, R110). -/
structure SlowRead where
  strand : Strand
  lane   : Nat
  reg    : Nat
  pmsel  : Word
  deriving DecidableEq, Repr

/-- A store through the aperture that no instruction may see yet: the register, the value that the store left in its bank bytes, and
the entries (lane, queue, count) that stood in each strand queue of the group, all of which are popped before a value pushed after
the store (R109). -/
structure Unseen where
  code  : Nat
  value : DWord
  ahead : List (Nat × Nat × Nat)
  deriving DecidableEq, Repr

/-- A group (R18, R101, R359). Registers are held by code (see `vCode` and its fellows): `regs` the architectural values, `bank` the bytes
of the window banks, `empty` the registers whose full/empty bit reads empty, `loose` the registers whose next read may return either value
(R88, R109), `stores` the aperture stores not yet seen, oldest first (R109). `winC` and `winA` are the results in the two forwarding
windows, newest first, and `sentC` and `sentA` count the instructions that the strands have issued. `owed` are registers delivered while
the group is PARKED that have not reached its window image (R111, R433). -/
structure Group where
  ctx      : Nat
  tree     : Nat
  gid      : Nat
  team     : Nat
  core     : Nat
  status   : GroupStatus
  width    : Nat
  vAlloc   : Nat
  sAlloc   : Nat
  kernel   : Kernel := {}
  depth    : Nat := 0
  firstGid : Nat := 0
  groupCount : Nat := 1
  spawner  : Nat := 0xFFFFFFFF
  hint     : Nat := 4
  args     : List Byte := []
  argFaults : List Nat := []
  regs     : SMap DWord := []
  bank     : SMap DWord := []
  empty    : SMap Bool := []
  loose    : SMap Bool := []
  stores   : List Unseen := []
  winC     : List (List Nat) := []
  winA     : List (List Nat) := []
  sentC    : Nat := 0
  sentA    : Nat := 0
  threads  : List Thread := []
  frC      : Frontier := {}
  frA      : Frontier := {}
  nextId   : Nat := 0
  accs     : List Access := []
  ops      : List Op := []
  slow     : List SlowRead := []
  seqs     : List Nat := [0, 0, 0, 0, 0, 0]
  mstat    : BitVec 5 := 0#5
  vstat    : Word := 0#32
  attach   : List Nat := []
  waited   : Nat := 0
  resided  : Nat := 0
  idle     : Nat := 0
  waitDue  : Bool := false
  residedDue : Bool := false
  idleDue  : Bool := false
  order    : Nat := 0
  spillSlot : Option Nat := none
  parkFaults : List Nat := []
  owed     : List Nat := []
  deriving DecidableEq, Repr

/-- A team: its groups, the gid of its first group, its core pair flag, the core where that is fixed, scratchpad banks as (core,
bank) in allocation order, and, while segments named for it are being placed, their names (R18, R191, R232). -/
structure Team where
  groups : List Nat
  gid    : Nat := 0
  pair   : Bool := false
  core   : Option Nat := none
  banks  : List (Nat × Nat) := []
  placing : Bool := false
  names  : List Nat := []
  deriving DecidableEq, Repr

/-- A tree: its context, launch number, rise counter, spawn numbering, launch data (R33, R370). -/
structure Tree where
  ctx    : Nat
  number : Nat
  rise   : Nat
  nextGid : Nat := 1
  admitted : Nat := 0
  queue  : Nat := 0
  order  : Nat := 0
  deriving DecidableEq, Repr

/-- A spawn in a cluster's spawn queue (R318, R329): the spawner's group, operation, partition, core and gid, the depth of its
children, what the spawn block gives, and, once accepted, the groups not yet admitted. -/
structure SpawnEntry where
  group : Nat
  op    : Nat
  ctx   : Nat
  tree  : Nat
  part  : Nat
  core  : Nat
  gid   : Nat
  depth : Nat
  count : Nat
  team  : Nat
  pair  : Bool
  hint  : Nat
  kernel : Kernel
  args  : List Byte
  accepted : Bool := false
  waiting : List Nat := []
  deriving DecidableEq, Repr

/-! ### Cores -/

/-- A line of L1: data, valid sectors, dirty bytes (R196). -/
structure L1Line where
  data  : BitVec 1024
  valid : BitVec 4
  dirty : BitVec 128
  deriving DecidableEq, Repr

/-- An operand slot: state 0 empty, 1 claimed, 2 filled, 3 being filled (R197); `bad` after an uncorrectable error in it (R189). -/
structure Slot where
  state : Nat := 0
  owner : Nat := 0
  tile  : Option Tile := none
  bad   : Bool := false
  deriving DecidableEq, Repr

/-- An accumulator tile: elements by 64 i + j, and the row-statistics area by 32-bit word (R198); `bad` after an uncorrectable error in
it (R189). -/
structure AccTile where
  elems : SMap Word := []
  stats : SMap Word := []
  bad   : Bool := false
  deriving DecidableEq, Repr

/-- A FIFO bank's counters (R323). -/
structure Fifo where
  head   : Nat := 0
  tail   : Nat := 0
  filled : Nat := 0
  deriving DecidableEq, Repr

/-- A translation held by a TLB: the context, the page's first virtual address, its size and its leaf entry (R343). -/
structure TlbEntry where
  ctx  : Nat
  base : Nat
  size : Nat
  leaf : Nat
  deriving DecidableEq, Repr

/-- A pointer held by a walk cache: the table of `level` that covers the range (R343). -/
structure WalkEntry where
  ctx   : Nat
  base  : Nat
  size  : Nat
  level : Nat
  table : Nat
  deriving DecidableEq, Repr

/-- A core (R184, R339, R372). `banks` holds the bytes of the local store at bank × 65,536 + offset; `modes` the banks'
modes (0 REG, 1 SCR, 2 CACHE, 3 FIFO); `switch` a mode change in progress as (bank, new mode); `proofs` the records of
sampled tiles not yet written, with their contexts (R64). -/
structure Core where
  ctx    : Option Nat := none
  banks  : List Host.Cell := []
  modes  : List Nat := [0, 0, 0, 0, 0, 0, 0, 0, 0, 0, 0, 0, 1, 1, 1, 1, 1, 1, 1, 1, 1, 1, 2, 2]
  fifos  : SMap Fifo := []
  switch : Option (Nat × Nat) := none
  l1     : SMap L1Line := []
  tlb    : List TlbEntry := []
  walks  : List WalkEntry := []
  slots  : SMap Slot := []
  acc    : SMap AccTile := []
  proofs : List (Nat × List Nat) := []
  cyc    : DWord := 0#64
  scanning : Bool := false
  removed  : Bool := false
  deriving DecidableEq, Repr

/-! ### Contexts -/

/-- Who waits for an event: an entry of a group, or the Igier thread of a queue (R356). -/
inductive EvWaiter where
  | entry (g id : Nat)
  | queue (q : Nat)
  deriving DecidableEq, Repr

/-- A segment directory entry (R225). `target` and `targetFirst` are where a restore or move puts its banks, `mover` the group whose
pull moves it, `faultIds` the unanswered faults of its move (R433), and `stamp` when its attachments last fell to 0. -/
structure Segment where
  backing : Nat
  name    : Nat
  tree    : Nat
  attachments : Nat
  core    : Nat
  first   : Nat
  banks   : Nat
  cls     : Nat
  state   : Nat
  target  : Nat := 0
  targetFirst : Nat := 0
  dropAfter : Bool := false
  faultIds : List Nat := []
  mover   : Option Nat := none
  stamp   : Nat := 0
  deriving DecidableEq, Repr

/-- A registered view: master and view descriptors, its record's bits [255:191] fields (R237). -/
structure View where
  master  : Desc
  desc    : Desc
  stride  : Nat
  stackMask : Nat
  partitioned : Bool
  transpose : Bool
  slot    : Option Nat
  deriving DecidableEq, Repr

/-- A ring of a context (R336): the fixed fields, the last CONS accepted, PROD, OVF, the next sequence number, records held
for space and, for the error ring, records dropped since the last overflow record. -/
structure Ring where
  base : Nat := 0
  log  : Nat := 6
  vec  : Nat := 0
  cons : Nat := 0
  prod : Nat := 0
  ovf  : Nat := 0
  seq  : Nat := 0
  held : List (List Nat) := []
  dropped : Nat := 0
  summary : Bool := false
  deriving DecidableEq, Repr

/-- A translation fault reported and not yet answered: its id, page address, access kind, and the answer (R168, R424). -/
structure FaultRec where
  id     : Nat
  va     : Nat
  kind   : Nat
  seq    : Option Nat := none
  answer : Option Bool := none
  deriving DecidableEq, Repr

/-- What the device keeps of a saved operand slot beside its image: where it lies, its owner, and whether an uncorrectable error met it
(R177, R189). -/
structure SavedSlot where
  core  : Nat
  slot  : Nat
  owner : Nat
  bad   : Bool := false
  deriving DecidableEq, Repr

/-- What the device keeps of a saved accumulator tile beside its image (R177, R189). -/
structure SavedAcc where
  core : Nat
  tile : Nat
  bad  : Bool := false
  deriving DecidableEq, Repr

/-- Whether a context runs (R384). -/
inductive CtxStatus where
  | running
  | preempting
  | out
  | resuming
  | ended
  deriving DecidableEq, Repr

/-- A context: its record's fields (R381) and the tables it owns. While it is out, `savedModes` are the bank modes of the cores that its
save names, `savedGroups`, `savedBanks`, `savedSlots` and `savedAcc` what its records are of, in their order, `saveLen` the bytes it
wrote to the save area; `resumeFaults` are unanswered faults of its resume (R433), and `command` says
that CTXCMD reads busy for it (R384). -/
structure Context where
  part    : Nat
  number  : Nat
  status  : CtxStatus := .running
  root    : Nat
  saveBase : Nat := 0
  saveSize : Nat := 0
  spillBase : Nat := 0
  spillSlots : Nat := 0
  ringBlock : Nat := 0
  rings   : List Ring := []
  tvecC   : DWord := 0#64
  tvecA   : DWord := 0#64
  seqBase : Nat := 0
  seqLog  : Nat := 0
  poolBase : Nat := 0
  poolSize : Nat := 0
  ovBase  : Nat := 0
  ovCount : Nat := 0
  profile : List Nat := []
  swap    : Nat := 16
  sampling : Nat := 0
  tdi     : Nat := 0
  codes   : SMap (List Nat) := []
  segments : SMap Segment := []
  views   : SMap View := []
  eventBits : SMap Bool := []
  overflow : List (Nat × EvWaiter) := []
  faults  : List FaultRec := []
  nextFault : Nat := 0
  slotSizes : SMap Nat := []
  slotRefs  : SMap Nat := []
  snapshots : List (List Nat) := []
  launches : Nat := 0
  samples  : SMap Nat := []
  spillUsed : List Nat := []
  savedModes : SMap (List Nat) := []
  savedGroups : List Nat := []
  savedBanks : List (Nat × Nat) := []
  savedSlots : List SavedSlot := []
  savedAcc : List SavedAcc := []
  saveLen  : Nat := 0
  resumeFaults : List Nat := []
  command  : Bool := false
  deriving DecidableEq, Repr

/-! ### Device -/

/-- A view block whose pending bit is set (R236): context, view number, stack, view tile. -/
structure ViewBlock where
  ctx   : Nat
  view  : Nat
  stack : Nat
  tile  : Nat
  deriving DecidableEq, Repr

/-- The refresh that a view engine runs (R241): its block and the view as registered; the master entry e1 once read; `entry` the entry
that its decode has bound, with its code table (R219); `dropped` whether its view has been dropped since it began (R239); the values of
the view tile once decoded; whether the pending bit has been cleared; the cause of a failure still to be published (R244); `stamp` and
`cyc` its place among the arrivals at its port and path (R15); the translation faults it waits for. -/
structure Refresh where
  block : ViewBlock
  view  : View
  first : Option Nat := none
  entry : Option (Nat × Option (Nat × List Nat)) := none
  dropped : Bool := false
  values : Option (List Word) := none
  cleared : Bool := false
  cause : Option Nat := none
  stamp : Nat := 0
  cyc : Nat := 0
  faultIds : List Nat := []
  deriving DecidableEq, Repr

/-- A resident event: context, name, state bit, waiters (R356). -/
structure EventRec where
  ctx   : Nat
  name  : Nat
  state : Bool
  waiters : List EvWaiter := []
  deriving DecidableEq, Repr

/-- What an Igier thread does with the packet at RIDX (R333): nothing yet; placing or running a launch; waiting for a semaphore
to read at least `n`, or for an event; running the blocks of a COPY; its work has ended. -/
inductive QStage where
  | idle
  | placing (tree : Nat)
  | running (tree : Nat)
  | semaphore (va n : Nat)
  | event (name : Nat)
  | copying (ops : List Op)
  | ended
  deriving DecidableEq, Repr

/-- An error that a queue latches in its QCB (R335). -/
structure Latch where
  cause : Nat
  val   : Nat
  info  : Nat
  pidx  : Nat
  deriving DecidableEq, Repr

/-- A hardware queue with its Igier thread (R318, R330, R382). `header` is the first word of the packet in progress; `faultIds` are
unanswered translation faults, of the QCB where `qcbFault`; `latch` is an error whose QCB write waits for such an answer, `bell` a
doorbell whose read does; `lost` is a queue halted inside Igier. -/
structure HwQueue where
  part  : Nat := 0
  bound : Option Nat := none
  qcb   : Nat := 0
  log   : Nat := 4
  ring  : Nat := 0
  vec   : Nat := 0
  widx  : Nat := 0
  ridx  : Nat := 0
  halted : Bool := false
  lost  : Bool := false
  stage : QStage := .idle
  header : Nat := 0
  faultIds : List Nat := []
  qcbFault : Bool := false
  bell   : Bool := false
  latch  : Option Latch := none
  unbinding : Bool := false
  deriving DecidableEq, Repr

/-- A monitor: configuration and capture state (R373, R375). -/
structure Monitor where
  config : DWord := 0#64
  minimum : Nat := 0xFFFFFFFF
  maximum : Nat := 0
  bins   : List Nat := List.replicate 32 0
  count  : Nat := 0
  number : Nat := 0
  due    : List (List Nat) := []
  deriving DecidableEq, Repr

/-- A memory region bound to a TDI (R202); `live` is false once its key is destroyed. -/
structure Region where
  tdi  : Nat
  base : Nat
  len  : Nat
  live : Bool := true
  deriving DecidableEq, Repr

/-- TDISP states (R386). -/
inductive TdiState where
  | configUnlocked
  | configLocked
  | run
  | error
  deriving DecidableEq, Repr

/-- A TDI: its state and the partition it binds (R386). -/
structure Tdi where
  state : TdiState := .configUnlocked
  part  : Nat := 0
  deriving DecidableEq, Repr

/-- A CXL dynamic-capacity extent (R186, R205): `releasing` while a cooperative release drains, `revoked` after a forced
revocation. -/
structure Extent where
  base : Nat
  len  : Nat
  releasing : Bool := false
  revoked : Bool := false
  deriving DecidableEq, Repr

/-- Power states (R393). -/
inductive PowerState where
  | d0
  | d3hot
  | d3cold
  deriving DecidableEq, Repr

/-- An MSC line: its valid and dirty sectors, its slice, whether it is held at lowest retention (R89), the contexts whose writes made it
dirty, and what the memory behind the slice holds in the dirty sectors (R188, R205). The newest bytes of a home are those of
`State.mem`. -/
structure MscLine where
  valid : BitVec 4 := 0#4
  dirty : BitVec 4 := 0#4
  slice : Nat := 0
  low   : Bool := false
  writers : List Nat := []
  back  : BitVec 1024 := 0#1024
  deriving DecidableEq, Repr

/-- The invalidation register of a context (R344): its low word, whether a command runs, and the accesses, as (group, access),
that may still use dropped entries. -/
structure Inval where
  low  : DWord := 0#64
  busy : Bool := false
  accs : List (Nat × Nat) := []
  deriving DecidableEq, Repr

/-- The entry that is issuing: group, strand, the entry taken from the frontier, and the word fetched at its PC
(R24, R67). -/
structure Issue where
  group  : Nat
  strand : Strand
  entry  : Entry
  word   : Word
  deriving DecidableEq, Repr

/-- What the environment has fixed for a step (DESIGN CHOICE, log entry 1). -/
inductive Move where
  /-- A strand of a group takes an issue slot (R25, R26). -/
  | issue (g : Nat) (st : Strand)
  /-- An event of the opcode table. -/
  | event (i : Instr)
  /-- An access in flight is performed, its data kept until delivery (R248). -/
  | perform (g acc : Nat)
  /-- A cycle of a core's clock (R372). -/
  | tick (core : Nat)
  /-- One of the pieces of an access that are still to be performed is performed (R247). -/
  | performPiece (g acc n : Nat)
  /-- The device drops an entry, as it may at any time: of a core's TLB, of its walk cache, or of a die's TLB (R343). -/
  | dropTlb (core n : Nat)
  | dropWalk (core n : Nat)
  | dropDieTlb (die n : Nat)
  /-- The device assigns a frame of 64 KiB to a context (R204; DESIGN CHOICE, log entry 4). -/
  | assignFrame (ctx frame : Nat)
  /-- A granule passes to the partition that EXTASN has named, once no access to it is in flight (R385). -/
  | passGranule (granule : Nat)
  /-- An error of a kind that ECC corrects (R189). -/
  | eccCorrected (kind : Nat)
  /-- Bring-up ends: the PF is enabled (R389). -/
  | enableFunctions
  /-- The device does, one after the other, what its own events can do for a queue, a context, a group, a cluster's view engine, a core
  (R38). -/
  | queueWork (q : Nat)
  | contextWork (ctx : Nat)
  | groupWork (g : Nat)
  | viewWork (cluster : Nat)
  | coreWork (core : Nat)
  /-- A host or PCIe agent writes bytes of memory (R380, R391). -/
  | hostWrite (addr : Nat) (bytes : List Byte)
  deriving DecidableEq, Repr

/-- The whole machine. `mended` are the bytes of a poisoned line that one store instruction, named by the list, has stored so far, and
`corrected` the errors that ECC corrected, by kind (R189). `frames` are the last owners of frames of 64 KiB (R204).
`leaving` are CXL granules that a store to EXTASN gives to a partition, or to none, and that wait for accesses in flight (R385). -/
structure State where
  mem     : List Host.Cell := []
  msc     : SMap MscLine := []
  poison  : SMap Nat := []
  mended  : SMap (List Nat × BitVec 128) := []
  corrected : SMap Nat := []
  frames  : SMap Nat := []
  leaving : SMap (Option Nat) := []
  extents : SMap Extent := []
  granules : SMap Nat := []
  links   : List Nat := []
  domain  : Nat := 0
  domainOn : Bool := false
  clusterPart : SMap Nat := []
  queuePart : SMap Nat := []
  cores   : SMap Core := []
  dieTlb  : SMap (List TlbEntry) := []
  groups  : SMap Group := []
  teams   : SMap Team := []
  trees   : SMap Tree := []
  spawnQ  : SMap (List SpawnEntry) := []
  ctxs    : SMap Context := []
  refresh : List ViewBlock := []
  refreshing : SMap Refresh := []
  events  : List EventRec := []
  queues  : SMap HwQueue := []
  monitors : SMap Monitor := []
  regions : SMap Region := []
  tdis    : SMap Tdi := []
  invals  : SMap Inval := []
  ctxcmd  : SMap Nat := []
  qcmd    : SMap Nat := []
  qcbaddr : SMap Nat := []
  pwrcap  : Nat := 3000
  clockSteps : Nat := 0
  power   : PowerState := .d0
  scanctl : Nat := 0
  corrsel : SMap Nat := []
  corrcyc : SMap DWord := []
  corrptm : SMap DWord := []
  firmware : Nat := 0
  fused    : Nat := 0
  bringup  : Nat := 6
  spdm     : List DWord := []
  msix     : List (Nat × Nat) := []
  cur     : Option Issue := none
  agenda  : List Move := []
  free    : Nat := 0
  stamp   : Nat := 0
  deriving DecidableEq, Repr

/-- The machine right after reset: bring-up has reached step 6 (R389), no context exists, every buffer is empty or zero
(R184, R318, R339, R359). The values the manual does not give are those of log entries 4 and 5. -/
def State.reset : State := {}

end Sys2Proof.Machine
end

