-- ==== Sys2Proof/Machine/Memory.lean ====
section
/-! DEFINITION. Physical memory, its tiers and homes (R186 to R189), regions (R201 to R203), the page tables and TLBs
(R340 to R344), L1 (R196), and the banks of local store. -/

namespace Sys2Proof.Machine

open Sys2Proof

/-! ### Parts of the device -/

/-- The cluster of a core (R10). -/
def clusterOf (core : Nat) : Nat := core / 16

/-- The partition that holds a core: 0 for the PF (R379). -/
def partOfCore (s : State) (core : Nat) : Nat := SMap.get 0 s.clusterPart (clusterOf core)

/-- A core's state. -/
def State.core (s : State) (c : Nat) : Core := SMap.get {} s.cores c

/-- Change a core's state. -/
def State.setCore (s : State) (c : Nat) (f : Core → Core) : State :=
  { s with cores := SMap.put {} s.cores c (f (s.core c)) }

/-- A group, where it exists. -/
def State.group? (s : State) (g : Nat) : Option Group := SMap.find? s.groups g

/-- Change a group. -/
def State.setGroup (s : State) (g : Nat) (f : Group → Group) : State :=
  { s with groups := SMap.modify s.groups g f }

/-- A context, where it exists. -/
def State.ctx? (s : State) (c : Nat) : Option Context := SMap.find? s.ctxs c

/-- Change a context. -/
def State.setCtx (s : State) (c : Nat) (f : Context → Context) : State :=
  { s with ctxs := SMap.modify s.ctxs c f }

/-- A team, where it exists. -/
def State.team? (s : State) (t : Nat) : Option Team := SMap.find? s.teams t

/-! ### Bytes at their homes -/

/-- The tiers of the physical space (R186). -/
inductive Tier where
  | hbm
  | cxl
  | domain
  | host
  | unpopulated
  deriving DecidableEq, Repr

/-- The tier of a physical address (R186). -/
def tierOf (pa : Nat) : Tier :=
  if pa < 2 ^ 40 then .hbm
  else if 2 ^ 44 ≤ pa && pa < 2 ^ 45 then .cxl
  else if 2 ^ 48 ≤ pa && pa < 2 ^ 48 + 2 ^ 46 then .domain
  else if 2 ^ 51 ≤ pa && pa < 2 ^ 52 then .host
  else .unpopulated

/-- A domain address that names the package's own number is its own HBM (R186). -/
def normPA (s : State) (pa : Nat) : Nat :=
  if tierOf pa = .domain && s.domainOn && (pa - 2 ^ 48) / 2 ^ 40 = s.domain then pa % 2 ^ 40 else pa

/-- A byte at its home. A byte that nothing has written reads 0 (R204; log entry 4). -/
def readByte (s : State) (pa : Nat) : Byte := SMap.get 0#8 s.mem (normPA s pa)

/-- `n` bytes at their homes. -/
def readBytes (s : State) (pa n : Nat) : List Byte := (upTo n).map fun i => readByte s (pa + i)

/-- A little-endian number of `n` bytes (R4). -/
def readNat (s : State) (pa n : Nat) : Nat := natOfBytes (readBytes s pa n)

/-- Write bytes at a rising run of addresses of a byte map. -/
def putBytes (m : List Host.Cell) (a : Nat) : List Byte → List Host.Cell
  | [] => m
  | b :: bs => putBytes (SMap.put 0#8 m a b) (a + 1) bs

/-- The canonical form of memory: addresses strictly rising, and no cell that equals what an unlisted address reads as
(DESIGN CHOICE, log entry 4). -/
def Memory.wf (m : List Host.Cell) : Bool := SMap.wf 0#8 m

/-- The extent that holds a CXL address (R186). -/
def extentAt (s : State) (pa : Nat) : Option Extent :=
  (s.extents.find? fun e => e.2.base ≤ pa && pa < e.2.base + e.2.len).map (·.2)

/-- The region that covers an address: a live one first (R201). -/
def regionAt (s : State) (pa : Nat) : Option Region :=
  let hit := fun (live : Bool) (r : Nat × Region) => r.2.live == live && r.2.base ≤ pa && pa < r.2.base + r.2.len
  match s.regions.find? (hit true) with
  | some r => some r.2
  | none => (s.regions.find? (hit false)).map (·.2)

/-- The cause that an access to a physical address meets for a context of partition `part` bound to TDI `tdi`: 0x0A3
REMOTE_UNREACHABLE or 0x1C4 REGION_KEY_DESTROYED (R186, R201, R203, R385, R391). -/
def homeCause (s : State) (part tdi pa0 : Nat) : Option Nat :=
  let pa := normPA s pa0
  let reach := match tierOf pa with
    | .hbm => decide (SMap.get 0 s.clusterPart (pa / 2 ^ 36) = part)
    | .cxl => (extentAt s pa).isSome && decide (SMap.find? s.granules ((pa - 2 ^ 44) / 2 ^ 28) = some part)
    | .domain => s.domainOn && s.links.any fun port => Config.onPath port ((pa - 2 ^ 48) / 2 ^ 40)
    | .host => true
    | .unpopulated => false
  if !reach then some 0x0A3
  else match regionAt s pa with
    | none => none
    | some r => if !r.live then some 0x1C4 else if r.tdi = tdi then none else some 0x0A3

/-- The owner of a frame whose last owner is gone: no context has this number (R204). -/
def noOwner : Nat := 2 ^ 64

/-- Whether an address lies in a frame of 64 KiB that another context owns: a context does not reach it before it has been assigned the
frame, and so not before the frame is zeroed (R7, R204; DEDUCED, log entry 4). -/
def frameOfOther (s : State) (c pa0 : Nat) : Bool :=
  let pa := normPA s pa0
  (tierOf pa = .hbm || tierOf pa = .cxl) && (SMap.find? s.frames (pa / 65536)).any fun o => o != c

/-- The cause that an access of context `c` to a physical address meets: that of its home, or REMOTE_UNREACHABLE for a frame of another
context. -/
def reachCause (s : State) (c part tdi pa : Nat) : Option Nat :=
  (homeCause s part tdi pa).or (if frameOfOther s c pa then some 0x0A3 else none)

/-- The tinfo of MEMORY_POISON for an address, if it is poisoned (R189, R205). -/
def poisonAt (s : State) (pa0 : Nat) : Option Nat :=
  let pa := normPA s pa0
  match (if tierOf pa = .cxl then extentAt s pa else none) with
  | some e => if e.revoked then some 1 else SMap.find? s.poison (pa / 128)
  | none => SMap.find? s.poison (pa / 128)

/-- The sectors of line `line` that the run of `n` bytes at `pa` touches. -/
def sectorsOf (line pa n : Nat) : BitVec 4 :=
  (upTo 4).foldl (fun m k =>
    if pa < line * 128 + 32 * k + 32 && line * 128 + 32 * k < pa + n then m ||| (1#4 <<< k) else m) 0#4

/-- The lines that a run of bytes touches. -/
def linesOf (pa n : Nat) : List Nat :=
  if n = 0 then [] else (upTo ((pa + n - 1) / 128 - pa / 128 + 1)).map (pa / 128 + ·)

/-- The stacks of a partition, in rising order (R187, R379). -/
def stacksOfPart (s : State) (part : Nat) : List Nat := (upTo 16).filter fun k => SMap.get 0 s.clusterPart k = part

/-- The home slice of a line of HBM or CXL memory, 0 to 1,023; slice k lies in stack k / 64 and fronts its pseudo-channels 8 (k mod 64)
to 8 (k mod 64) + 7 (R10, R187). A CXL line whose granule no partition holds, or a partition without a stack, has none (R187 takes a
remainder by the number of stacks: DESIGN CHOICE, log entry 48). -/
def homeSlice (s : State) (pa : Nat) : Option Nat :=
  match tierOf pa with
  | .hbm =>
    let o := pa % 2 ^ 36
    some (64 * (pa / 2 ^ 36) + (bitsOf o 15 7 ^^^ bitsOf o 24 16) / 8)
  | .cxl =>
    let o := pa % 2 ^ 42
    let own := match SMap.find? s.granules ((pa - 2 ^ 44) / 2 ^ 28) with
      | some part => stacksOfPart s part
      | none => []
    own[(4 * ((pa - 2 ^ 44) / 2 ^ 42) + bitsOf o 8 7) % own.length]?.map fun n => 64 * n + bitsOf o 14 9
  | _ => none

/-- The lines that a slice of 512 KiB holds (R11). -/
def sliceLines : Nat := 4096

/-- A map of held lines in which slice `k` has room for line `l`: a full slice evicts a line held at lowest retention, where it holds one
(R89), else any; of those R188 does not say which (DESIGN CHOICE, log entry 48). -/
def mscRoom (free : Nat) (m : SMap MscLine) (k l : Nat) : SMap MscLine :=
  let mine := m.filter fun p => p.2.slice = k
  if (SMap.find? m l).isSome || mine.length < sliceLines then m
  else
    let low := mine.filter fun p => p.2.low
    let out := (if low.isEmpty then mine else low).map (·.1)
    SMap.erase m (out.getD ((Config.freeWord free (900 + k)).toNat % out.length) 0)

/-- The bytes of a line at its home. -/
def lineBits (s : State) (line : Nat) : BitVec 1024 := BitVec.ofNat 1024 (readNat s (line * 128) 128)

/-- The bits of the sectors `sec` of a line. -/
def sectorMask (sec : BitVec 4) : BitVec 1024 :=
  (upTo 4).foldl (fun m k => if sec.getLsbD k then m ||| ((2 ^ 256 - 1 : BitVec 1024) <<< (256 * k)) else m) 0#1024

/-- A held line after an access to its sectors `sec`: dirty after a write, with what the memory behind it keeps until they are written
back (R188). -/
def MscLine.touch (x : MscLine) (slice : Nat) (sec : BitVec 4) (dirty : Bool) (old : BitVec 1024) : MscLine :=
  let fresh := sectorMask (sec &&& ~~~x.dirty)
  { x with
    valid := x.valid ||| sec, slice := slice,
    dirty := if dirty then x.dirty ||| sec else x.dirty,
    back := if dirty then (x.back &&& ~~~fresh) ||| (old &&& fresh) else x.back }

/-- A home slice holds the touched sectors after an access, dirty after a write (R17, R188). Host and domain lines, and lines that have no
home, are not held here. -/
def mscTouch (s : State) (pa0 n : Nat) (dirty : Bool) : State :=
  let pa := normPA s pa0
  if tierOf pa = .hbm || tierOf pa = .cxl then
    { s with msc := (linesOf pa n).foldl (fun m l => match homeSlice s (128 * l) with
        | none => m
        | some k => SMap.put {} (mscRoom s.free m k l) l
            ((SMap.get {} (mscRoom s.free m k l) l).touch k (sectorsOf l pa n) dirty (lineBits s l))) s.msc }
  else s

/-- After a stream access that found the machine at `s`, the lines that the slices have allocated for it are held at lowest retention
(R89; that a later access leaves the mark is a DESIGN CHOICE, log entry 48). -/
def streamLines (s t : State) : State :=
  { t with msc := t.msc.map fun p => if (SMap.find? s.msc p.1).isSome then p else (p.1, { p.2 with low := true }) }

/-- The dirty lines of a run that a context's write has made so are its own (R205). -/
def claimLines (s : State) (c pa n : Nat) : State :=
  { s with msc := (linesOf (normPA s pa) n).foldl (fun m l => SMap.modify m l fun x =>
      if x.dirty = 0#4 || x.writers.contains c then x else { x with writers := x.writers ++ [c] }) s.msc }

/-- Held lines that meet a test leave their slices, written back (R188). -/
def dropHeld (s : State) (hit : Nat → Bool) : State := { s with msc := s.msc.filter fun p => !hit p.1 }

/-- Held lines that meet a test are dropped without write-back: the memory behind them still holds the older bytes (R188, R201, R205). -/
def discardHeld (s : State) (hit : Nat → Bool) : State :=
  let lost := s.msc.filter fun p => hit p.1 && p.2.dirty != 0#4
  let older := fun (m : List Host.Cell) (p : Nat × MscLine) => (upTo 4).foldl (fun m k =>
    if p.2.dirty.getLsbD k then
      putBytes m (p.1 * 128 + 32 * k) (bytesOfNat (p.2.back.extractLsb' (256 * k) 256).toNat 32)
    else m) m
  dropHeld { s with mem := lost.foldl older s.mem } hit

/-- A store of all 128 bytes of a line clears its poison (R189). -/
def clearPoison (s : State) (pa n : Nat) : State :=
  { s with poison := s.poison.filter fun p => !(decide (pa ≤ p.1 * 128) && decide (p.1 * 128 + 128 ≤ pa + n)) }

/-- Bytes of a poisoned line that one instruction, named by `key`, stores at its home: with the last of the 128 the poison is gone
(R189). -/
def mendPoison (s : State) (key : List Nat) (pa0 n : Nat) : State :=
  let pa := normPA s pa0
  (linesOf pa n).foldl (fun s l =>
    if (SMap.find? s.poison l).isNone then s
    else
      let before := match SMap.find? s.mended l with
        | some (k, m) => if k = key then m else 0#128
        | none => 0#128
      let m := (upTo 128).foldl (fun m j => if pa ≤ l * 128 + j && l * 128 + j < pa + n then m ||| (1#128 <<< j) else m) before
      if m = BitVec.allOnes 128 then { s with poison := SMap.erase s.poison l, mended := SMap.erase s.mended l }
      else { s with mended := SMap.insert s.mended l (key, m) }) s

/-- Write bytes at their home, without the marks on views. -/
def writeRaw (s : State) (pa : Nat) (bs : List Byte) : State :=
  let s := mscTouch (clearPoison s (normPA s pa) bs.length) pa bs.length true
  { s with mem := putBytes s.mem (normPA s pa) bs }

/-! ### Page tables -/

/-- What a walk found (R342). -/
inductive Walk where
  | absent
  /-- A leaf entry and the size of its page. -/
  | leaf (pte size : Nat)
  deriving DecidableEq, Repr

/-- The index field of a level: its low bit and its width (R340). -/
def levelField (level : Nat) : Nat × Nat :=
  match level with
  | 0 => (43, 13)
  | 1 => (30, 13)
  | 2 => (21, 9)
  | _ => (16, 5)

/-- Bytes of the table of a level (R340). -/
def tableSize (level : Nat) : Nat := 8 * 2 ^ (levelField level).2

/-- Bytes that one entry of a level covers. -/
def pageSize (level : Nat) : Nat := 2 ^ (levelField level).1

/-- One entry of a walk: absent, a pointer to the next table, or a leaf (R341, R342). -/
inductive PteStep where
  | absent
  | pointer (table : Nat)
  | leaf
  deriving DecidableEq, Repr

/-- Judge an entry at a level (R342). -/
def judgeEntry (level pte : Nat) : PteStep :=
  let addr := bitsOf pte 51 8 * 256
  if !bitOf pte 0 || bitsOf pte 63 52 != 0 || bitsOf pte 7 5 != 0 then .absent
  else if bitOf pte 1 then
    if level = 0 || addr % pageSize level != 0 then .absent else .leaf
  else if level = 3 || bitsOf pte 4 2 != 0 || addr % tableSize (level + 1) != 0 || tierOf addr != .hbm then .absent
  else .pointer addr

/-- Walk from the table of a level, over `fuel` levels (R340, R342). -/
def walkFrom (s : State) (va table level : Nat) : Nat → Walk
  | 0 => .absent
  | fuel + 1 =>
    let f := levelField level
    let pte := readNat s (table + 8 * bitsOf va (f.1 + f.2 - 1) f.1) 8
    match judgeEntry level pte with
    | .absent => .absent
    | .leaf => .leaf pte (pageSize level)
    | .pointer next => walkFrom s va next (level + 1) fuel

/-- The tables that a walk passes, as walk-cache entries (R343). -/
def walkTrail (s : State) (ctx va table level : Nat) : Nat → List WalkEntry
  | 0 => []
  | fuel + 1 =>
    let f := levelField level
    let pte := readNat s (table + 8 * bitsOf va (f.1 + f.2 - 1) f.1) 8
    match judgeEntry level pte with
    | .pointer next => ⟨ctx, va / pageSize level * pageSize level, pageSize level, level + 1, next⟩
        :: walkTrail s ctx va next (level + 1) fuel
    | _ => []

/-- The physical address of a virtual one under a leaf (R342). -/
def leafPA (pte size va : Nat) : Nat := bitsOf pte 51 8 * 256 / size * size + va % size

/-- Why a leaf does not allow an access kind: 0x0C1 PAGE_WRITE_PROTECT, 0x0C2 PAGE_EXEC_PROTECT (R342). -/
def leafCause (pte kind : Nat) : Option Nat :=
  if (kind = 2 || kind = 3 || kind = 5) && !bitOf pte 2 then some 0x0C1
  else if kind = 0 && !bitOf pte 3 then some 0x0C2
  else none

/-- A translation with no TLB: the physical address and the leaf, or the replayable cause (R342). -/
def translateRaw (s : State) (root va kind : Nat) : Except Nat (Nat × Nat) :=
  match walkFrom s va root 0 4 with
  | .absent => .error 0x0C0
  | .leaf pte size =>
    match leafCause pte kind with
    | some c => .error c
    | none => .ok (leafPA pte size va, pte)

/-- The first address of the page that holds a virtual address of a context: of its leaf, whatever its size (R340, R342); where no leaf
covers it, of the smallest page that could (DESIGN CHOICE, log entry 46). -/
def pageOf (s : State) (ctx va : Nat) : Nat :=
  match walkFrom s va ((s.ctx? ctx).map (·.root) |>.getD 0) 0 4 with
  | .leaf _ size => va / size * size
  | .absent => va / 65536 * 65536

/-- The entry of a TLB that covers a virtual address. -/
def tlbFind (l : List TlbEntry) (ctx va : Nat) : Option TlbEntry :=
  l.find? fun e => e.ctx = ctx && e.base ≤ va && va < e.base + e.size

/-- The deepest walk-cache entry that covers a virtual address. -/
def walkFind (l : List WalkEntry) (ctx va : Nat) : Option WalkEntry :=
  (l.filter fun e => e.ctx = ctx && e.base ≤ va && va < e.base + e.size).foldl
    (fun best e => match best with
      | none => some e
      | some b => if b.level < e.level then some e else some b) none

/-- Put an entry at the head of a list that holds at most `n`. -/
def keepAtMost {α : Type} (n : Nat) (x : α) (l : List α) : List α := (x :: l).take n

/-- A translation on a core: its TLB, the die's TLB, then a walk from the deepest cached table; what a completed walk read
is kept (R339, R343). A held entry that does not allow the access is dropped and the walk made again (R343). (DEDUCED, log entry 44.) -/
def translate (s : State) (ctx core va kind : Nat) : Except Nat (Nat × Nat × State) :=
  let c := s.core core
  let die := core / 64
  let dieTlb := SMap.get [] s.dieTlb die
  let root := match s.ctx? ctx with
    | some x => x.root
    | none => 0
  let walked : Except Nat (Nat × Nat × State) :=
    let start := match walkFind c.walks ctx va with
      | some w => (w.table, w.level)
      | none => (root, 0)
    let go := fun (st : Nat × Nat) => walkFrom s va st.1 st.2 (4 - st.2)
    match go start with
    | .leaf pte size =>
      match leafCause pte kind with
      | none =>
        let e : TlbEntry := ⟨ctx, va / size * size, size, pte⟩
        let trail := walkTrail s ctx va start.1 start.2 (4 - start.2)
        let s1 := s.setCore core fun c =>
          { c with tlb := keepAtMost 128 e c.tlb, walks := (trail ++ c.walks).take 256 }
        .ok (leafPA pte size va, pte, { s1 with dieTlb := SMap.put [] s1.dieTlb die (keepAtMost 2048 e dieTlb) })
      | some _ => (translateRaw s root va kind).map fun p => (p.1, p.2, s)
    | .absent => (translateRaw s root va kind).map fun p => (p.1, p.2, s)
  match tlbFind c.tlb ctx va with
  | some e => if leafCause e.leaf kind = none then .ok (leafPA e.leaf e.size va, e.leaf, s) else walked
  | none =>
    match tlbFind dieTlb ctx va with
    | some e =>
      if leafCause e.leaf kind = none then
        .ok (leafPA e.leaf e.size va, e.leaf, s.setCore core fun c => { c with tlb := keepAtMost 128 e c.tlb })
      else walked
    | none => walked

/-- Drop every TLB and walk-cache entry of a context that meets a test (R344, R383). -/
def dropTranslations (s : State) (ctx : Nat) (hit : Nat → Nat → Bool) : State :=
  { s with
    cores := s.cores.map fun p => (p.1, { p.2 with
      tlb := p.2.tlb.filter fun e => !(e.ctx = ctx && hit e.base e.size),
      walks := p.2.walks.filter fun e => !(e.ctx = ctx && hit e.base e.size) }),
    dieTlb := (s.dieTlb.map fun p => (p.1, p.2.filter fun e => !(e.ctx = ctx && hit e.base e.size))).filter
      fun p => !p.2.isEmpty }

/-! ### Views marked by writes -/

/-- Tiles along each dimension of a descriptor (R206, R207). -/
def tileCounts (d : Desc) : List Nat :=
  (upTo 4).map fun i =>
    let e := d.ext.getD i 0
    if i < d.ndim then (if d.shape = 0 then (if i = 0 then ceilDiv e 256 else e)
      else if i < 2 then ceilDiv e 16 else e) else 1

/-- The number of tiles of a descriptor. -/
def tileTotal (d : Desc) : Nat := (tileCounts d).foldl (· * ·) 1

/-- The stacks that hold view tile `i` (R238). -/
def stacksOf (v : View) (i : Nat) : List Nat :=
  let all := (upTo 16).filter fun k => bitOf v.stackMask k
  if v.partitioned then (all[i % all.length]?).toList else all

/-- The position in the index order of a coordinate (R207). -/
def tileIndex (d : Desc) (c : List Nat) : Nat :=
  let n := tileCounts d
  c.getD 0 0 + n.getD 0 1 * (c.getD 1 0 + n.getD 1 1 * (c.getD 2 0 + n.getD 2 1 * c.getD 3 0))

/-- The coordinate of an index position. -/
def tileCoord (d : Desc) (i : Nat) : List Nat :=
  let n := tileCounts d
  [i % n.getD 0 1, i / n.getD 0 1 % n.getD 1 1, i / (n.getD 0 1 * n.getD 1 1) % n.getD 2 1,
    i / (n.getD 0 1 * n.getD 1 1 * n.getD 2 1)]

/-- The view tile that master tile `i` feeds (R238). -/
def viewTileOf (v : View) (i : Nat) : Nat :=
  if v.transpose then
    match tileCoord v.master i with
    | [a, b, c, d] => tileIndex v.desc [b, a, c, d]
    | _ => i
  else i

/-- Set the pending bit of a view block: the bits are kept in the order in which they were set (R236, R241). -/
def setBlock (s : State) (c num stack tile : Nat) : State :=
  if s.refresh.any fun b => b.ctx = c && b.view = num && b.stack = stack && b.tile = tile then s
  else { s with refresh := s.refresh ++ [{ ctx := c, view := num, stack := stack, tile := tile }] }

/-- Set the pending bits of the view blocks fed by master tile `i` of view `num` (R240). -/
def setPending (s : State) (c num : Nat) (v : View) (i : Nat) : State :=
  let t := viewTileOf v i
  (stacksOf v t).foldl (fun s k => setBlock s c num k t) s

/-- The master tiles whose entries lie in a written physical run: the run is compared with each 64 KiB page of the index
range, as the context's tables map it (R240). -/
def tilesWritten (s : State) (c : Context) (d : Desc) (pa n : Nat) : List Nat :=
  let total := tileTotal d
  let first := d.index / 65536
  let pages := (d.index + 16 * total - 1) / 65536 - first + 1
  (upTo pages).flatMap fun k =>
    let page := (first + k) * 65536
    match translateRaw s c.root page 1 with
    | .error _ => []
    | .ok (base0, _) =>
      let base := normPA s base0
      if pa < base + 65536 && base < pa + n then
        (upTo n).filterMap fun j =>
          let a := pa + j
          if base ≤ a && a < base + 65536 then
            let va := page + (a - base)
            if d.index ≤ va && va < d.index + 16 * total && ((va - d.index) % 16 = 0 || j = 0) then
              some ((va - d.index) / 16)
            else none
          else none
      else []

/-- Set the pending bits for a write to physical bytes in every context (R240). -/
def markViews (s : State) (pa n : Nat) : State :=
  s.ctxs.foldl (fun s p => p.2.views.foldl (fun s v =>
    (tilesWritten s p.2 v.2.master (normPA s pa) n).foldl (fun s i => setPending s p.1 v.1 v.2 i) s) s) s

/-- Write bytes at their home (R188, R240). -/
def writeHome (s : State) (pa : Nat) (bs : List Byte) : State := markViews (writeRaw s pa bs) pa bs.length

/-- A context writes bytes at their home (R188, R205). -/
def writeFor (s : State) (c : Option Nat) (pa : Nat) (bs : List Byte) : State :=
  let s := writeHome s pa bs
  match c with
  | some c => claimLines s c pa bs.length
  | none => s

/-- Frames that a context has written and that have had no owner are the context's (R204; DESIGN CHOICE, log entry 4). -/
def claimFrames (s : State) (c : Option Nat) (pas : List Nat) : State :=
  match c with
  | none => s
  | some c =>
    let held := (pas.map (normPA s)).filter fun pa => tierOf pa = .hbm || tierOf pa = .cxl
    { s with frames := ((held.map (· / 65536)).eraseDups).foldl (fun m f =>
        if (SMap.find? m f).isSome then m else SMap.insert m f c) s.frames }

/-- A context writes bytes of one line at their home, and so owns its frame (R188, R204, R205). -/
def writeLine (s : State) (c : Option Nat) (pa : Nat) (bs : List Byte) : State := claimFrames (writeFor s c pa bs) c [pa]

/-- Read bytes at their home: the bytes, and the machine whose slices now hold their sectors (R188). -/
def readHome (s : State) (pa n : Nat) : List Byte × State := (readBytes s pa n, mscTouch s pa n false)

/-! ### L1 -/

/-- The empty L1 line. -/
def L1Line.none : L1Line := ⟨0#1024, 0#4, 0#128⟩

/-- Byte `j` of a line. -/
def L1Line.byte (l : L1Line) (j : Nat) : Byte := l.data.extractLsb' (8 * j) 8

/-- Whether a line holds every byte of the run of `n` bytes at `pa`, filled or written (R196). -/
def L1Line.holds (l : L1Line) (pa n : Nat) : Bool :=
  (upTo n).all fun j => l.dirty.getLsbD ((pa + j) % 128) || l.valid.getLsbD ((pa + j) % 128 / 32)

/-- A line with byte `j` replaced. -/
def L1Line.setByte (l : L1Line) (j : Nat) (b : Byte) : L1Line :=
  { l with data := (l.data &&& ~~~(255#1024 <<< (8 * j))) ||| (b.zeroExtend 1024 <<< (8 * j)) }

/-- How many lines the core's CACHE banks hold (R196, R11). -/
def l1Capacity (c : Core) : Nat := 512 * (c.modes.filter (· = 2)).length

/-- Whether L1 may hold a line: it holds it already or has room (R196). -/
def l1Room (c : Core) (line : Nat) : Bool := (SMap.find? c.l1 line).isSome || c.l1.length < l1Capacity c

/-- Fill one sector of a line from its home, keeping the dirty bytes (R196). -/
def l1FillSector (s : State) (core line k : Nat) : State :=
  let l := SMap.get L1Line.none (s.core core).l1 line
  if l.valid.getLsbD k then s
  else
    let r := readHome s (line * 128 + 32 * k) 32
    let l' := (upTo 32).foldl (fun l j =>
      if l.dirty.getLsbD (32 * k + j) then l else l.setByte (32 * k + j) (r.1.getD j 0#8)) l
    r.2.setCore core fun c => { c with l1 := SMap.put L1Line.none c.l1 line { l' with valid := l'.valid ||| (1#4 <<< k) } }

/-- Read bytes of one line through L1: what it does not hold, it fills by sector (R196, R256). -/
def l1Read (s : State) (core pa n : Nat) : List Byte × State :=
  let line := pa / 128
  let s := if (SMap.get L1Line.none (s.core core).l1 line).holds pa n then s
    else (upTo 4).foldl (fun s k => if (sectorsOf line pa n).getLsbD k then l1FillSector s core line k else s) s
  let l := SMap.get L1Line.none (s.core core).l1 line
  ((upTo n).map fun j => l.byte (pa % 128 + j), s)

/-- Write bytes of one line into L1 and its dirty mask (R196). -/
def l1Write (s : State) (core pa : Nat) (bs : List Byte) : State :=
  let line := pa / 128
  s.setCore core fun c =>
    let l := SMap.get L1Line.none c.l1 line
    let l' := (upTo bs.length).foldl (fun l j =>
      let l := l.setByte (pa % 128 + j) (bs.getD j 0#8)
      { l with dirty := l.dirty ||| (1#128 <<< (pa % 128 + j)) }) l
    { c with l1 := SMap.put L1Line.none c.l1 line l' }

/-- The runs of dirty bytes of a line, from byte `j` over `fuel` bytes. -/
def dirtyRuns (l : L1Line) (j : Nat) (run : List Byte) : Nat → List (Nat × List Byte)
  | 0 => if run.isEmpty then [] else [(j - run.length, run)]
  | fuel + 1 =>
    if l.dirty.getLsbD j then dirtyRuns l (j + 1) (run ++ [l.byte j]) fuel
    else if run.isEmpty then dirtyRuns l (j + 1) [] fuel
    else (j - run.length, run) :: dirtyRuns l (j + 1) [] fuel

/-- Write back the dirty bytes of one line of L1 (R196). -/
def l1WriteBackLine (s : State) (core line : Nat) : State :=
  match SMap.find? (s.core core).l1 line with
  | none => s
  | some l =>
    let s := (dirtyRuns l 0 [] 128).foldl (fun s r => writeLine s (s.core core).ctx (line * 128 + r.1) r.2) s
    s.setCore core fun c => { c with l1 := SMap.modify c.l1 line fun l => { l with dirty := 0#128 } }

/-- Drop one line of L1, its dirty bytes written back first (R196). -/
def l1Drop (s : State) (core line : Nat) : State :=
  (l1WriteBackLine s core line).setCore core fun c => { c with l1 := SMap.erase c.l1 line }

/-- A release at clu scope or wider writes back L1's dirty bytes (R252). Lines left with nothing valid are dropped. -/
def l1WriteBack (s : State) (core : Nat) : State :=
  let s := (s.core core).l1.foldl (fun s p => l1WriteBackLine s core p.1) s
  s.setCore core fun c => { c with l1 := c.l1.filter fun p => p.2.valid != 0#4 }

/-- An acquire at clu scope or wider invalidates L1, the dirty bytes written back first (R196, R252). -/
def l1Invalidate (s : State) (core : Nat) : State :=
  (l1WriteBack s core).setCore core fun c => { c with l1 := [] }

/-! ### Frames -/

/-- A frame of 64 KiB of the memory that a context's partition holds is assigned to the context: unless it was the last owner, the frame
is zeroed at its home, and no copy of its lines is left in a slice or in the L1 of a core (R204). -/
def assignFrame (s : State) (c frame : Nat) : State :=
  let pa := frame * 65536
  match s.ctx? c with
  | none => s
  | some x =>
    if SMap.find? s.frames frame = some c || !(tierOf pa = .hbm || tierOf pa = .cxl) || (homeCause s x.part x.tdi pa).isSome then s
    else
      let s := dropHeld s fun l => l * 128 / 65536 = frame
      { s with
        cores := s.cores.map fun p => (p.1, { p.2 with l1 := p.2.l1.filter fun l => normPA s (l.1 * 128) / 65536 != frame }),
        mem := s.mem.filter fun p => p.1 / 65536 != frame,
        poison := s.poison.filter fun p => p.1 * 128 / 65536 != frame,
        mended := s.mended.filter fun p => p.1 * 128 / 65536 != frame,
        frames := SMap.insert s.frames frame c }

/-! ### Local store -/

/-- The number that stands for a byte of a core's banks among the places of an access, above every physical address. -/
def bankPlace (core addr : Nat) : Nat := 2 ^ 60 + core * 2 ^ 24 + addr

/-- Whether a place is a byte of a bank. -/
def isBankPlace (pa : Nat) : Bool := 2 ^ 60 ≤ pa

/-- The core and the byte of its banks that a place stands for. -/
def bankOf (pa : Nat) : Nat × Nat := ((pa - 2 ^ 60) / 2 ^ 24, (pa - 2 ^ 60) % 2 ^ 24)

/-- Bytes of a core's banks at bank × 65,536 + offset (R184). -/
def lsRead (s : State) (core a n : Nat) : List Byte := (upTo n).map fun i => SMap.get 0#8 (s.core core).banks (a + i)

/-- Write bytes of a core's banks. -/
def lsWrite (s : State) (core a : Nat) (bs : List Byte) : State :=
  s.setCore core fun c => { c with banks := putBytes c.banks a bs }

/-- Zero one bank (R194, R204). -/
def lsZeroBank (s : State) (core b : Nat) : State :=
  s.setCore core fun c =>
    { c with banks := c.banks.filter (fun p => p.1 / 65536 != b), fifos := SMap.erase c.fifos b }

/-- The mode of a bank: 0 REG, 1 SCR, 2 CACHE, 3 FIFO (R83). -/
def bankMode (c : Core) (b : Nat) : Nat := c.modes.getD b 0

/-- The default bank profile (R193). -/
def defaultProfile : List Nat := [0, 0, 0, 0, 0, 0, 0, 0, 0, 0, 0, 0, 1, 1, 1, 1, 1, 1, 1, 1, 1, 1, 2, 2]

/-- A core zeroed for its next owner: banks, L1, slots, accumulator tiles (R204). The clock and the TLBs stay. -/
def zeroCore (s : State) (core : Nat) : State :=
  s.setCore core fun c =>
    { c with ctx := none, banks := [], modes := defaultProfile, fifos := [], switch := none, l1 := [], slots := [],
             acc := [] }

end Sys2Proof.Machine
end

