-- ==== Sys2Proof/Machine/Rings.lean ====
section
/-! DEFINITION. The rings of a context and their records (R336 to R338, R424), the latched errors of its queues (R330, R335),
and MSI-X vectors. -/

namespace Sys2Proof.Machine

open Sys2Proof

/-! ### Rings -/

/-- Whether the functions of the device answer the host: bring-up has passed step 6 and the device is in D0 (R389, R393). -/
def State.up (s : State) : Bool := s.bringup = 6 && s.power = .d0

/-- Where host-physical address `h` lies in the physical space (R336). -/
def hostPA (h : Nat) : Nat := 2 ^ 51 + h

/-- A record before it is written: kind, queue, core, words 1 to 7 (R337). -/
abbrev Rec := List Nat

/-- A record from its kind, queue, core and words. -/
def mkRec (kind queue core : Nat) (ws : List Nat) : Rec := kind :: queue :: core :: ws

/-- The 64 bytes of a record under sequence number `seq` (R337). Word 7 of a fault record is its fault id, the sequence
number (R424). -/
def recBytes (r : Rec) (seq : Nat) : List Byte :=
  let w0 := r.getD 0 0 + r.getD 1 0 % 256 * 2 ^ 8 + r.getD 2 0 % 65536 * 2 ^ 16 + seq % 2 ^ 32 * 2 ^ 32
  bytesOfNat w0 8 ++ (upTo 7).flatMap fun k =>
    bytesOfNat (if r.getD 0 0 = 0x10 && k = 6 then seq % 2 ^ 32 else r.getD (3 + k) 0) 8

/-- Signal an MSI-X vector of a function (R333, R338). (DESIGN CHOICE, log entry 40.) -/
def signalMsix (s : State) (part vec : Nat) : State := { s with msix := s.msix ++ [(part, vec)] }

/-- Change ring `r` of context `c`. -/
def State.setRing (s : State) (c r : Nat) (f : Ring → Ring) : State :=
  s.setCtx c fun x => { x with rings := listModify x.rings r f }

/-- Ring `r` of a context. -/
def Context.ring (c : Context) (r : Nat) : Ring := c.rings.getD r {}

/-- Read CONS again: a value above PROD or below the last accepted one is ignored (R336). -/
def readCons (s : State) (c r : Nat) : State :=
  match s.ctx? c with
  | none => s
  | some x =>
    let v := readNat s (hostPA (x.ringBlock + 32 * r + 24)) 8
    s.setRing c r fun g => if g.cons ≤ v && v ≤ g.prod then { g with cons := v } else g

/-- Whether a ring is full (R336). -/
def Ring.full (g : Ring) : Bool := g.prod - g.cons = 2 ^ g.log

/-- Raise OVF and signal the overflow vector (R336, R338). -/
def ringOverflow (s : State) (c r : Nat) : State :=
  match s.ctx? c with
  | none => s
  | some x =>
    let g := x.ring r
    let ovf := min (g.ovf + 1) (2 ^ 32 - 1)
    let s := s.setRing c r fun g => { g with ovf := ovf }
    signalMsix (writeHome s (hostPA (x.ringBlock + 32 * r + 12)) (bytesOfNat ovf 4)) x.part g.vec

/-- A command that CTXCMD runs for a context is done (R384). -/
def State.endCommand (s : State) (c : Nat) : State :=
  match s.ctx? c with
  | none => s
  | some x =>
    if x.command then { s with ctxcmd := SMap.put 0 s.ctxcmd x.part 0 }.setCtx c fun x => { x with command := false } else s

/-- Write a record and advance PROD (R336). A fault record fixes its fault's id (R338, R424); PREEMPT_DONE ends
the pre-empt command (R384). -/
def ringWrite (s : State) (c r : Nat) (rcd : Rec) : State :=
  match s.ctx? c with
  | none => s
  | some x =>
    let g := x.ring r
    let s := writeHome s (hostPA (g.base + 64 * (g.prod % 2 ^ g.log))) (recBytes rcd g.seq)
    let s := writeHome s (hostPA (x.ringBlock + 32 * r + 16)) (bytesOfNat (g.prod + 1) 8)
    let s := s.setRing c r fun g => { g with prod := g.prod + 1, seq := (g.seq + 1) % 2 ^ 32 }
    if rcd.getD 0 0 = 0x10 then
      let fix := fun (f : FaultRec) => if f.id = rcd.getD 9 0 then { f with seq := some g.seq } else f
      s.setCtx c fun x => { x with faults := x.faults.map fix }
    else if rcd.getD 0 0 = 2 then s.endCommand c
    else s

/-! ### Queue control blocks -/

/-- A queue. -/
def State.queue (s : State) (q : Nat) : HwQueue := SMap.get {} s.queues q

/-- Change a queue. -/
def State.setQueue (s : State) (q : Nat) (f : HwQueue → HwQueue) : State :=
  { s with queues := SMap.put {} s.queues q (f (s.queue q)) }

/-- What Igier meets at a virtual address of a context: the physical address, a replayable fault, or a cause that cannot be
replayed (R382). -/
inductive Reach where
  | ok (pa : Nat)
  | replay (cause : Nat)
  | bad (cause info : Nat)
  deriving DecidableEq, Repr

/-- Reach a virtual address of a context without a core's TLB: Igier, context creation, view refreshes and moves walk
afresh (R343 lets any entry be dropped). `kind` is the access kind; a cause comes with its tinfo (R161). -/
def reachVirtual (s : State) (c va kind : Nat) : Reach :=
  match s.ctx? c with
  | none => .bad 0x0A3 0
  | some x =>
    if 2 ^ 56 ≤ va then .bad 0x0C3 kind
    else if 2 ^ 56 - 2 ^ 32 ≤ va then .bad 0x0A1 0
    else match translateRaw s x.root va kind with
      | .error e => .replay e
      | .ok (pa, _) =>
        match reachCause s c x.part x.tdi pa with
        | some e => .bad e 0
        | none =>
          match poisonAt s pa with
          | some k => if kind = 2 || kind = 5 then (if k = 0 then .ok pa else .bad 0x0A2 k) else .bad 0x0A2 k
          | none => .ok pa

/-- The queues bound to a context. -/
def queuesOf (s : State) (c : Nat) : List Nat :=
  (s.queues.filter fun p => p.2.bound = some c).map (·.1)

/-- Whether a queue's ERR reads set (R330). -/
def queueErr (s : State) (q : Nat) : Bool :=
  let hq := s.queue q
  match hq.bound with
  | none => false
  | some c => match reachVirtual s c (hq.qcb + 32) 4 with
    | .ok pa => bitOf (readNat s pa 1) 1
    | _ => hq.lost

/-- Write what is held or counted while space lasts: records held in order; before the error ring's records one
ERROR_OVERFLOW, after the event ring's one ERROR_SUMMARY (R338). -/
def drainRing (s : State) (c r : Nat) : Nat → State
  | 0 => s
  | fuel + 1 =>
    match s.ctx? c with
    | none => s
    | some x =>
      let g := x.ring r
      if g.full then s
      else if r = 3 && g.dropped != 0 then
        drainRing (ringWrite (s.setRing c r fun g => { g with dropped := 0 }) c r
          (mkRec 0x35 0 0xFFFF [g.dropped, 0, 0, 0, 0, 0, 0])) c r fuel
      else match g.held with
        | rcd :: rest => drainRing (ringWrite (s.setRing c r fun g => { g with held := rest }) c r rcd) c r fuel
        | [] =>
          if g.summary then
            let mask := (queuesOf s c).foldl (fun m q => if queueErr s q then m + 2 ^ q else m) 0
            drainRing (ringWrite (s.setRing c r fun g => { g with summary := false }) c r
              (mkRec 0x04 0 0xFFFF [mask, g.ovf, 0, 0, 0, 0, 0])) c r fuel
          else s

/-- The device reads CONS and writes what waits (R338). -/
def ringPoll (s : State) (c r : Nat) : State :=
  match s.ctx? c with
  | none => s
  | some x => drainRing (readCons s c r) c r ((x.ring r).held.length + 3)

/-- Put a record on ring `r` of context `c`: 0 event, 1 fault, 2 telemetry, 3 error. A record that finds the ring full is held,
counted or dropped as R338 gives. -/
def ringEmit (s0 : State) (c r : Nat) (rcd : Rec) : State :=
  let s := ringPoll s0 c r
  match s.ctx? c with
  | none => s
  | some x =>
    let g := x.ring r
    if !g.full && g.held.isEmpty then ringWrite s c r rcd
    else if r = 0 && rcd.getD 0 0 = 3 then
      ringOverflow (s.setRing c r fun g => { g with summary := true }) c r
    else if r = 3 && 64 ≤ g.held.length then
      ringOverflow (s.setRing c r fun g => { g with dropped := g.dropped + 1 }) c r
    else s.setRing c r fun g => { g with held := g.held ++ [rcd] }

/-! ### Translation faults -/

/-- Where a translation fault arose, for words 0 and 4 to 6 of its record (R424). -/
structure FaultSite where
  queue  : Nat := 0
  core   : Nat := 0xFFFF
  gid    : Nat := 0xFFFFFFFF
  tree   : Nat := 0xFFFFFFFF
  lane   : Nat := 0
  strand : Nat
  deriving DecidableEq, Repr

/-- Write one fault-ring record and remember the fault until it is answered; its number in the context (R168, R424). -/
def reportFault (s : State) (c cause va kind : Nat) (site : FaultSite) : State × Nat :=
  match s.ctx? c with
  | none => (s, 0)
  | some x =>
    let id := x.nextFault
    let s := s.setCtx c fun x =>
      { x with nextFault := id + 1, faults := x.faults ++ [{ id := id, va := va, kind := kind }] }
    (ringEmit s c 1 (mkRec 0x10 site.queue site.core
      [cause, va, kind, site.gid, site.lane % 256 + site.tree * 2 ^ 32, site.strand, id]), id)

/-- The answer to a fault: none while it is unanswered, true for "refuse". -/
def faultAnswer (s : State) (c id : Nat) : Option Bool :=
  match s.ctx? c with
  | none => some true
  | some x => match x.faults.find? fun f => f.id = id with
    | none => some false
    | some f => f.answer

/-- Forget answered faults. -/
def dropFaults (s : State) (c : Nat) (ids : List Nat) : State :=
  s.setCtx c fun x => { x with faults := x.faults.filter fun f => !ids.contains f.id }

/-! ### Latched errors -/

/-- Halt a queue inside Igier, with one QUEUE_ERROR record (R382). -/
def loseQueue (s : State) (c q cause kind : Nat) : State :=
  let hq := s.queue q
  let s := s.setQueue q fun h =>
    { h with halted := true, lost := true, stage := .idle, latch := none, faultIds := [], qcbFault := false, bell := false }
  ringEmit s c 0 (mkRec 0x03 q 0xFFFF [hq.ridx, cause, hq.qcb, kind, 0, 0, 0])

/-- Reach a field of a queue's QCB to write it: here a poisoned line stops a write too (R382). -/
def reachQcb (s : State) (c va : Nat) : Reach :=
  match reachVirtual s c va 5 with
  | .ok pa => match poisonAt s pa with
    | some k => .bad 0x0A2 k
    | none => .ok pa
  | x => x

/-- Latch an error in the QCB with the packets consumed, then ERR and HALT, and report it (R330, R335). A QCB that does not translate
makes the latch wait (R382). -/
def latchError (s : State) (q : Nat) (l : Latch) : State :=
  let hq := s.queue q
  match hq.bound with
  | none => s
  | some c =>
    match reachQcb s c (hq.qcb + 32) with
    | .ok pa =>
      let s := writeLine s (some c) (pa - 8) (bytesOfNat hq.ridx 8)
      let s := writeLine s (some c) (pa + 4) (bytesOfNat l.pidx 4 ++ bytesOfNat l.val 8 ++ bytesOfNat l.info 8)
      let s := writeLine s (some c) pa (bytesOfNat (3 + l.cause % 512 * 4) 4)
      let s := s.setQueue q fun h =>
        { h with halted := true, stage := .idle, latch := none, faultIds := [], qcbFault := false }
      ringEmit s c 0 (mkRec 0x03 q 0xFFFF [l.pidx, l.cause, l.val, l.info, 0, 0, 0])
    | .replay e =>
      let r := reportFault s c e (hq.qcb + 32) 5 { queue := q, strand := 2 }
      r.1.setQueue q fun h =>
        { h with halted := true, stage := .idle, latch := some l, faultIds := [r.2], qcbFault := true }
    | .bad e _ => loseQueue s c q e 5

/-- A packet fails: it is consumed, and its cause latched (R330, R335). -/
def failPacket (s : State) (q : Nat) (c : Cause) : State :=
  let i := (s.queue q).ridx
  latchError (s.setQueue q fun h => { h with ridx := h.ridx + 1 }) q ⟨c.code, c.val, c.info, i⟩

end Sys2Proof.Machine
end

