-- ==== Sys2Proof/Machine/Access.lean ====
section
/-! DEFINITION. What an address in the windows of the top 4 GiB reaches (R190, R191), and how an access that has issued is performed: the
order of R249, the place of R246, the atomic operations of R268, and poison (R189, R205). -/

namespace Sys2Proof.Machine

open Sys2Proof

/-! ### What a window address reaches -/

/-- The first address of the windows (R190). -/
def windowBase : Nat := 2 ^ 56 - 2 ^ 32

/-- The base of a core's own window, of the team-peer window and of the cluster window (R190). -/
def coreWindow : Nat := 0xFFFFFFFFC00000
def peerWindow : Nat := 0xFFFFFFFF800000
def clusterWindow : Nat := 0xFFFFFFF8000000

/-- What a window address reaches (R190, R191). -/
inductive Place where
  /-- A byte of a bank, by core and bank × 65,536 + offset; `cluster` when it is reached through the cluster window. -/
  | bank (core addr : Nat) (cluster : Bool)
  /-- An offset of the register aperture. -/
  | aperture (off : Nat)
  /-- An offset of the engine control page. -/
  | page (off : Nat)
  | nothing
  deriving DecidableEq, Repr

/-- The place of a window address for a group on a core (R190, R191). -/
def placeOf (s : State) (core team va : Nat) : Place :=
  if coreWindow ≤ va && va < coreWindow + 0x400000 then
    let off := va - coreWindow
    if off < 0x180000 then .bank core off false
    else if off < 0x190000 then .aperture (off - 0x180000)
    else if off < 0x191000 then .page (off - 0x190000)
    else if 0x200000 ≤ off && off < 0x380000 then
      match s.team? team with
      | none => .nothing
      | some t => match t.banks[(off - 0x200000) / 65536]? with
        | some (c, b) => .bank c (b * 65536 + off % 65536) false
        | none => .nothing
    else .nothing
  else if peerWindow ≤ va && va < peerWindow + 0x180000 then
    .bank (if core % 2 = 0 then core + 1 else core - 1) (va - peerWindow) false
  else if clusterWindow ≤ va && va < clusterWindow + 0x4000000 then
    let off := (va - clusterWindow) % 0x400000
    if off < 0x180000 then .bank (core / 16 * 16 + (va - clusterWindow) / 0x400000) off true else .nothing
  else .nothing

/-! ### Accesses -/

/-- Whether an access reads memory. -/
def Access.reads (a : Access) : Bool :=
  match a.kind with
  | .store _ => false
  | _ => true

/-- Whether an access writes memory. -/
def Access.writes (a : Access) : Bool :=
  match a.kind with
  | .store _ | .atomic .. => true
  | _ => false

/-- Whether an access is strong or atomic (R246). -/
def Access.strong (a : Access) : Bool :=
  a.scope != 0 || match a.kind with
    | .atomic .. => true
    | _ => false

/-- Whether an access is an acquire (R74, R255). -/
def Access.acquires (a : Access) : Bool := a.reads && a.scope != 0 && (a.order = 1 || a.order = 3)

/-- Whether an access is a release (R74, R255). -/
def Access.releases (a : Access) : Bool := a.writes && a.scope != 0 && (a.order = 2 || a.order = 3)

/-- Whether an access is sc (R74). -/
def Access.sc (a : Access) : Bool := a.scope != 0 && a.order = 3

/-- Whether two accesses touch a common byte. -/
def Access.meets (a b : Access) : Bool :=
  a.pieces.any fun p => b.pieces.any fun q => decide (p.1 < q.1 + q.2) && decide (q.1 < p.1 + p.2)

/-- Whether `x`, earlier in a thread, is ordered before `y` (R249), or an access of a lower lane of one instruction before one
of a higher lane to the same byte (R246). Fences act by waiting (R275) and dependencies by the delivery of the value. -/
def Access.before (x y : Access) : Bool :=
  if x.lane = y.lane then
    x.meets y || (x.reads && x.strong && y.strong) || x.acquires || y.releases || x.sc || y.sc
  else x.issue = y.issue && x.meets y && x.writes && y.writes

/-- The numbers of an access's pieces that are still to be performed (R247). -/
def Access.left (a : Access) : List Nat := a.todo.getD (upTo a.pieces.length)

/-- One piece of an access as an access of its own (R247). -/
def Access.piece (a : Access) (k : Nat) : Access :=
  let before := (a.pieces.take k).foldl (fun n p => n + p.2) 0
  let n := (a.pieces.getD k (0, 0)).2
  { a with
    pieces := [a.pieces.getD k (0, 0)],
    kind := match a.kind with
      | .store data => .store ((data.drop before).take n)
      | x => x }

/-- What the pieces of a load have read, low bytes first. -/
def Access.gathered (a : Access) : Nat :=
  (upTo a.pieces.length).foldr (fun k x =>
    SMap.get 0 a.got k + 2 ^ (8 * (a.pieces.getD k (0, 0)).2) * x) 0

/-- Whether access `a` of a group may be performed: no earlier access that is ordered before it is still to be performed. -/
def mayPerform (accs : List Access) (a : Access) : Bool :=
  accs.all fun x => x.performed || a.id ≤ x.id || !x.before a

/-- The accesses of lanes that an access or step performed at issue must wait for (R249). -/
def waitsBefore (accs : List Access) (lanes : List Nat) (strong releases sc : Bool) : List Nat :=
  (accs.filter fun x => !x.performed && lanes.contains x.lane
    && ((x.reads && x.strong && strong) || x.acquires || releases || x.sc || sc)).map (·.id)

/-- A signed reading of `sz` bytes. -/
def signedOf (sz x : Nat) : Int := if x < 2 ^ (8 * sz - 1) then Int.ofNat x else Int.ofNat x - Int.ofNat (2 ^ (8 * sz))

/-- The value an atomic writes over `o`, or none (R268). -/
def atomicNew (op : Nat) (uns : Bool) (sz o v nv : Nat) : Option Nat :=
  let less := if uns then decide (o < v) else decide (signedOf sz o < signedOf sz v)
  match op with
  | 0 => some ((o + v) % 2 ^ (8 * sz))
  | 1 => some (if less then o else v)
  | 2 => some (if less then v else o)
  | 3 => some (o &&& v)
  | 4 => some (o ||| v)
  | 5 => some (o ^^^ v)
  | 6 => some v
  | _ => if o = v then some nv else none

/-- Whether a scope lets L1 serve an access of a team on a core pair or not: 0 through L1 as it stands, 1 through L1 with a
refetch or write-through, 2 at the home (R246). -/
def scopeLevel (scope : Nat) (pair : Bool) : Nat :=
  if scope = 0 || scope = 1 then 0
  else if scope = 2 then (if pair then 1 else 0)
  else if scope = 3 then 1 else 2

/-- Whether an acquire or release at a scope reaches beyond the core's L1: clu or wider, or team on a core pair (R252). -/
def beyondCore (scope : Nat) (pair : Bool) : Bool := 3 ≤ scope || (scope = 2 && pair)

/-- Whether a line may be held in L1 at all: HBM, CXL and domain lines (R188, R196). -/
def cacheable (s : State) (pa : Nat) : Bool :=
  match tierOf (normPA s pa) with
  | .hbm | .cxl | .domain => true
  | _ => false

/-- Read one piece of a line, or of a bank, where no cache stands (R246). -/
def readPiece (s : State) (core level : Nat) (nol1 : Bool) (pa0 n : Nat) : List Byte × State :=
  let pa := normPA s pa0
  let line := pa / 128
  if isBankPlace pa then (lsRead s (bankOf pa).1 (bankOf pa).2 n, s)
  else if !cacheable s pa then readHome s pa n
  else if level = 2 then readHome (l1Drop s core line) pa n
  else
    let s := if level = 1 then l1Drop s core line else s
    let c := s.core core
    if (SMap.find? c.l1 line).isSome || (!nol1 && l1Room c line) then l1Read s core pa n else readHome s pa n

/-- Write one piece of a line, or of a bank (R246). -/
def writePiece (s : State) (core level : Nat) (nol1 : Bool) (pa0 : Nat) (bs : List Byte) : State :=
  let pa := normPA s pa0
  let line := pa / 128
  let who := (s.core core).ctx
  if isBankPlace pa then lsWrite s (bankOf pa).1 (bankOf pa).2 bs
  else if !cacheable s pa then writeHome s pa bs
  else if level = 2 then writeLine (l1Drop s core line) who pa bs
  else if level = 1 then
    let s := writeLine (l1WriteBackLine s core line) who pa bs
    if (SMap.find? (s.core core).l1 line).isSome then
      (l1Write s core pa bs).setCore core fun c => { c with l1 := SMap.modify c.l1 line fun l => { l with dirty := 0#128 } }
    else s
  else
    let c := s.core core
    if (SMap.find? c.l1 line).isSome || (!nol1 && l1Room c line) then l1Write s core pa bs else writeLine s who pa bs

/-- L1 before an access at a level is performed: the line that an access at the home touches, or a read that refetches, is written back
and dropped, before the home is found poisoned or not (R196, R246, R265). -/
def l1Ready (s : State) (core level : Nat) (reads : Bool) (pieces : List (Nat × Nat)) : State :=
  pieces.foldl (fun s p =>
    let pa := normPA s p.1
    if !isBankPlace pa && cacheable s pa && (level = 2 || (level = 1 && reads)) then l1Drop s core (pa / 128) else s) s

/-- The tinfo of MEMORY_POISON that an access meets (R189, R205): a read of a poisoned line that L1 does not serve, and any access
to a page poisoned as a whole. -/
def accessPoison (s : State) (core level : Nat) (reads : Bool) (pieces : List (Nat × Nat)) : Option Nat :=
  pieces.findSome? fun p =>
    let pa := normPA s p.1
    let line := pa / 128
    let held := level = 0 && match SMap.find? (s.core core).l1 line with
      | some l => l.holds pa p.2
      | none => false
    match poisonAt s pa with
    | some k => if (reads && !held) || k != 0 then some k else none
    | none => none

/-- Where an access is performed: an atomic at the home; a strong read of a thread that has read beyond its core's L1, where `wide`, not
from an older line of L1 (R246, R252; DESIGN CHOICE, log entry 52). -/
def Access.level (a : Access) (pair wide : Bool) : Nat :=
  match a.kind with
  | .atomic .. => 2
  | _ => if wide && a.strong && a.reads then max 1 (scopeLevel a.scope pair) else scopeLevel a.scope pair

/-- Whether an access is a compare-and-swap whose comparison fails at its home now (R268). -/
def Access.fails (s : State) (core : Nat) (a : Access) : Bool :=
  match a.kind with
  | .atomic op uns _ v nv =>
    (atomicNew op uns a.size (natOfBytes (a.pieces.flatMap fun p => (readPiece s core 2 true p.1 p.2).1)) v nv).isNone
  | _ => false

/-- An access with the order that it has: a compare-and-swap that fails is a read, acquire or relaxed (R268). -/
def Access.ordered (s : State) (core : Nat) (a : Access) : Access :=
  if a.fails s core then { a with order := if a.order = 1 || a.order = 3 then 1 else 0 } else a

/-- What a release does with the L1 of its core: one that reaches beyond the core writes its dirty bytes back; one that does not empties it,
so that the writes which happen-before what its thread has read are seen by whoever synchronises with the release (R252; DESIGN CHOICE,
log entry 52). -/
def passOn (s : State) (core : Nat) (beyond : Bool) : State := if beyond then l1WriteBack s core else l1Invalidate s core

/-- Perform the reads and writes of an access at its level, without its deliveries: the machine, the value read, and the poison met
(R189, R246 to R248, R252, R265). -/
def performData (s : State) (core level : Nat) (pair : Bool) (a0 : Access) : State × Nat × Option Nat :=
  let a := a0.ordered s core
  let s := if a.releases && beyondCore a.scope pair then l1WriteBack s core else s
  let s := l1Ready s core level a.reads a.pieces
  match accessPoison s core level a.reads a.pieces with
  | some k => (s, 0, some k)
  | none =>
    let streamed := fun (t : State) => if a.stream then streamLines s t else t
    let readAll := a.pieces.foldl (fun (r : List Byte × State) p =>
      let x := readPiece r.2 core level a.nol1 p.1 p.2
      (r.1 ++ x.1, x.2)) ([], s)
    let writeAll := fun (s : State) (bs : List Byte) =>
      (a.pieces.foldl (fun (r : State × List Byte) p =>
        (writePiece r.1 core level a.nol1 p.1 (r.2.take p.2), r.2.drop p.2)) (s, bs)).1
    let fin := fun (s : State) => if a.acquires && beyondCore a.scope pair then l1Invalidate (streamed s) core else streamed s
    match a.kind with
    | .store data =>
      (streamed (a.pieces.foldl (fun s p =>
        if level = 0 && (SMap.find? (s.core core).l1 (normPA s p.1 / 128)).isSome then s
        else mendPoison s [core, a.issue, a.cyc, a.pc.toNat] p.1 p.2) (writeAll s data)), 0, none)
    | .atomic op uns _ v nv =>
      let o := natOfBytes readAll.1
      let s := match atomicNew op uns a.size o v nv with
        | some m => writeAll readAll.2 (bytesOfNat m a.size)
        | none => readAll.2
      (fin s, o, none)
    | _ => (fin readAll.2, natOfBytes readAll.1, none)

end Sys2Proof.Machine
end

