-- ==== Sys2Proof/Decode.lean ====
section
/-! DEFINITION. The decoder, from the formats and opcode maps of R66 to R83: total on every word, and after it the encoder
and the table's view of a word. -/

namespace Sys2Proof

/-! ### Operand fields (R68) -/

/-- The operand fields in a word of IADD, ISUB, IMUL, IMULH, IMIN, IMAX, UMIN, UMAX, … (R68). -/
def VOps.dec (w : BitVec 32) : VOps :=
  { w := w.extractLsb' 23 2, vd := w.extractLsb' 16 7, va := w.extractLsb' 9 7, vb := w.extractLsb' 2 7, ea := w.getLsbD 1, eb := w.getLsbD 0 }

/-- The operand fields in a word of INOT, INEG, IABS, POPC, CLZ, CTZ, BREV, FNEG, … (R68). -/
def UnOps.dec (w : BitVec 32) : UnOps :=
  { w := w.extractLsb' 23 2, vd := w.extractLsb' 16 7, va := w.extractLsb' 9 7, ea := w.getLsbD 1 }

/-- The operand fields in a word of ICMP, UCMP, FCMP (R68). -/
def CmpOps.dec (w : BitVec 32) : CmpOps :=
  { pd := w.extractLsb' 20 3, cond := w.extractLsb' 16 4, va := w.extractLsb' 9 7, vb := w.extractLsb' 2 7, ea := w.getLsbD 1, eb := w.getLsbD 0 }

/-- The operand fields in a word of FCLASS (R68). -/
def ClassOps.dec (w : BitVec 32) : ClassOps :=
  { pd := w.extractLsb' 20 3, cond := w.extractLsb' 16 4, va := w.extractLsb' 9 7, ea := w.getLsbD 1 }

/-- The operand fields in a word of CVTF, CVTH, BXPACK, BXUNPACK (R68). -/
def CvtOps.dec (w : BitVec 32) : CvtOps :=
  { w := w.extractLsb' 23 2, vd := w.extractLsb' 16 7, va := w.extractLsb' 9 7, fmt := w.extractLsb' 5 4, pol := w.extractLsb' 3 2, t := w.getLsbD 2, ea := w.getLsbD 1 }

/-- The operand fields in a word of BXDOT2, BXDOT4, BXDOT7 (R68). -/
def BxOps.dec (w : BitVec 32) : BxOps :=
  { vd := w.extractLsb' 18 7, va := w.extractLsb' 11 7, vb := w.extractLsb' 4 7, bsel := w.extractLsb' 2 2, ea := w.getLsbD 1, eb := w.getLsbD 0 }

/-- The operand fields in a word of F4DOT (R68). -/
def DotOps.dec (w : BitVec 32) : DotOps :=
  { vd := w.extractLsb' 18 7, va := w.extractLsb' 11 7, vb := w.extractLsb' 4 7, ea := w.getLsbD 1, eb := w.getLsbD 0 }

/-- The operand fields in a word of SHFL, VOTE, REDUX, SCAN (R68). -/
def LnOps.dec (w : BitVec 32) : LnOps :=
  { mode := w.extractLsb' 22 3, vd := w.extractLsb' 15 7, va := w.extractLsb' 8 7, sm := w.extractLsb' 0 8 }

/-- The operand fields in a word of IADDS, FADDS, FMULS (R68). -/
def VsOps.dec (w : BitVec 32) : VsOps :=
  { w := w.extractLsb' 23 2, vd := w.extractLsb' 16 7, va := w.extractLsb' 9 7, sb := w.extractLsb' 1 8, ea := w.getLsbD 0 }

/-- The operand fields in a word of MOVS (R68). -/
def MovsOps.dec (w : BitVec 32) : MovsOps :=
  { w := w.extractLsb' 23 2, vd := w.extractLsb' 16 7, sb := w.extractLsb' 1 8 }

/-- The operand fields in a word of IADDI, ANDI, ORI, XORI (R68). -/
def ViOps.dec (w : BitVec 32) : ViOps :=
  { vd := w.extractLsb' 18 7, va := w.extractLsb' 11 7, ea := w.getLsbD 10, imm := w.extractLsb' 0 10 }

/-- The operand fields in a word of SHLI, SHRI, SARI (R68). -/
def ShOps.dec (w : BitVec 32) : ShOps :=
  { vd := w.extractLsb' 18 7, va := w.extractLsb' 11 7, ea := w.getLsbD 10, k := w.extractLsb' 0 5 }

/-- The operand fields in a word of LI (R68). -/
def LiOps.dec (w : BitVec 32) : LiOps :=
  { vd := w.extractLsb' 18 7, imm := w.extractLsb' 0 10 }

/-- The operand fields in a word of SEL (R68). -/
def SelOps.dec (w : BitVec 32) : SelOps :=
  { w := w.extractLsb' 23 2, vd := w.extractLsb' 16 7, va := w.extractLsb' 9 7, vb := w.extractLsb' 2 7, p := w.extractLsb' 0 2 }

/-- The operand fields in a word of XSEND (R68). -/
def SendOps.dec (w : BitVec 32) : SendOps :=
  { w := w.extractLsb' 23 2, va := w.extractLsb' 9 7, slot := w.extractLsb' 2 7, ea := w.getLsbD 1 }

/-- The operand fields in a word of XRECV (R68). -/
def RecvOps.dec (w : BitVec 32) : RecvOps :=
  { w := w.extractLsb' 23 2, vd := w.extractLsb' 16 7, slot := w.extractLsb' 2 7 }

/-- The operand fields in a word of POP, PUSH, PEEK, QLEN (R68). -/
def QOps.dec (w : BitVec 32) : QOps :=
  { w := w.extractLsb' 23 2, reg := w.extractLsb' 16 7, queue := w.extractLsb' 14 2 }

/-- The operand fields in a word of SADD, SSUB, SMUL, SAND, SOR, SXOR, SSHL, SSHR, … (R68). -/
def S3Ops.dec (w : BitVec 32) : S3Ops :=
  { sd := w.extractLsb' 16 8, sa := w.extractLsb' 8 8, sb := w.extractLsb' 0 8 }

/-- The operand fields in a word of SADDI (R68). -/
def SiOps.dec (w : BitVec 32) : SiOps :=
  { sd := w.extractLsb' 16 8, sa := w.extractLsb' 8 8, imm := w.extractLsb' 0 8 }

/-- The operand fields in a word of SLI (R68). -/
def SliOps.dec (w : BitVec 32) : SliOps :=
  { sd := w.extractLsb' 16 8, imm := w.extractLsb' 0 8 }

/-- The operand fields in a word of SMOV, SCLZ, SPOPC (R68). -/
def S2Ops.dec (w : BitVec 32) : S2Ops :=
  { sd := w.extractLsb' 16 8, sa := w.extractLsb' 8 8 }

/-- The operand fields in a word of V2S (R68). -/
def V2sOps.dec (w : BitVec 32) : V2sOps :=
  { sd := w.extractLsb' 16 8, va := w.extractLsb' 8 7, lane := w.extractLsb' 0 8 }

/-- The operand fields in a word of AADD, ASUB, AMUL, AAND, AOR, AXOR, ASHL, ASHR, … (R68). -/
def A3Ops.dec (w : BitVec 32) : A3Ops :=
  { ad := w.extractLsb' 18 5, aa := w.extractLsb' 13 5, ab := w.extractLsb' 8 5 }

/-- The operand fields in a word of ALEA (R68). -/
def LeaOps.dec (w : BitVec 32) : LeaOps :=
  { ad := w.extractLsb' 18 5, aa := w.extractLsb' 13 5, ab := w.extractLsb' 8 5, k := w.extractLsb' 0 3 }

/-- The operand fields in a word of ACMP (R68). -/
def AcmpOps.dec (w : BitVec 32) : AcmpOps :=
  { pd := w.extractLsb' 20 3, aa := w.extractLsb' 13 5, ab := w.extractLsb' 8 5, cond := w.extractLsb' 0 4 }

/-- The operand fields in a word of AMOV (R68). -/
def A2Ops.dec (w : BitVec 32) : A2Ops :=
  { ad := w.extractLsb' 18 5, aa := w.extractLsb' 13 5 }

/-- The operand fields in a word of A2S (R68). -/
def A2sOps.dec (w : BitVec 32) : A2sOps :=
  { aa := w.extractLsb' 13 5, sd := w.extractLsb' 0 8 }

/-- The operand fields in a word of S2A (R68). -/
def S2aOps.dec (w : BitVec 32) : S2aOps :=
  { ad := w.extractLsb' 18 5, sb := w.extractLsb' 0 8 }

/-- The operand fields in a word of AADDI, ALUI, AANDI, AORI (R68). -/
def AiOps.dec (w : BitVec 32) : AiOps :=
  { ad := w.extractLsb' 19 5, aa := w.extractLsb' 14 5, imm := w.extractLsb' 0 14 }

/-- The operand fields in a word of ALI (R68). -/
def AliOps.dec (w : BitVec 32) : AliOps :=
  { ad := w.extractLsb' 19 5, imm := w.extractLsb' 0 14 }

/-- The operand fields in a word of ASHLI, ASHRI (R68). -/
def AshOps.dec (w : BitVec 32) : AshOps :=
  { ad := w.extractLsb' 19 5, aa := w.extractLsb' 14 5, k := w.extractLsb' 0 6 }

/-- The operand fields in a word of ACMPI (R68). -/
def AcmpiOps.dec (w : BitVec 32) : AcmpiOps :=
  { pd := w.extractLsb' 21 3, cond := w.extractLsb' 19 2, aa := w.extractLsb' 14 5, imm := w.extractLsb' 0 14 }

/-- The operand fields in a word of LDQ (R68). -/
def LdqOps.dec (w : BitVec 32) : LdqOps :=
  { size := w.extractLsb' 24 3, order := w.extractLsb' 22 2, scope := w.extractLsb' 19 3, base := w.extractLsb' 9 5, off := w.extractLsb' 0 9 }

/-- The operand fields in a word of LDA, ST (R68). -/
def MOps.dec (w : BitVec 32) : MOps :=
  { size := w.extractLsb' 24 3, order := w.extractLsb' 22 2, scope := w.extractLsb' 19 3, t := w.extractLsb' 14 5, base := w.extractLsb' 9 5, off := w.extractLsb' 0 9 }

/-- The operand fields in a word of ATOM_ADD, ATOM_AND, ATOM_OR, ATOM_XOR, ATOM_XCHG, ATOM_CAS (R68). -/
def AtomOps.dec (w : BitVec 32) : AtomOps :=
  { order := w.extractLsb' 22 2, scope := w.extractLsb' 19 3, sz64 := w.getLsbD 18, ret := w.getLsbD 17, base := w.extractLsb' 9 5, off := w.extractLsb' 0 9 }

/-- The operand fields in a word of ATOM_MIN, ATOM_MAX (R68). -/
def AtomMOps.dec (w : BitVec 32) : AtomMOps :=
  { order := w.extractLsb' 22 2, scope := w.extractLsb' 19 3, sz64 := w.getLsbD 18, ret := w.getLsbD 17, uns := w.getLsbD 16, base := w.extractLsb' 9 5, off := w.extractLsb' 0 9 }

/-- The operand fields in a word of LDL, STL, LDT, STT (R68). -/
def LtOps.dec (w : BitVec 32) : LtOps :=
  { size := w.extractLsb' 22 3, t := w.extractLsb' 17 5, base := w.extractLsb' 12 5, off := w.extractLsb' 0 12 }

/-- The operand fields in a word of BR, CALL (R68). -/
def BrOps.dec (w : BitVec 32) : BrOps :=
  { prio := w.extractLsb' 17 4, disp := w.extractLsb' 0 17 }

/-- The operand fields in a word of BRT, BRF (R68). -/
def BrpOps.dec (w : BitVec 32) : BrpOps :=
  { p := w.extractLsb' 21 3, prio := w.extractLsb' 17 4, disp := w.extractLsb' 0 17 }

/-- The operand fields in a word of RET (R68). -/
def RetOps.dec (w : BitVec 32) : RetOps :=
  { prio := w.extractLsb' 17 4 }

/-- The operand fields in a word of JMPS (R68). -/
def JmpsOps.dec (w : BitVec 32) : JmpsOps :=
  { prio := w.extractLsb' 17 4, sn := w.extractLsb' 0 8 }

/-- The operand fields in a word of CPL (R68). -/
def CplOps.dec (w : BitVec 32) : CplOps :=
  { aa := w.extractLsb' 17 5, ab := w.extractLsb' 12 5, arv := w.getLsbD 7, bar := w.extractLsb' 2 5, size := w.extractLsb' 0 2 }

/-- The operand fields in a word of CPK (R68). -/
def CpkOps.dec (w : BitVec 32) : CpkOps :=
  { aa := w.extractLsb' 17 5, n := w.extractLsb' 0 6 }

/-- The operand fields in a word of PFT (R68). -/
def PftOps.dec (w : BitVec 32) : PftOps :=
  { aa := w.extractLsb' 17 5, ab := w.extractLsb' 12 5, comp := w.extractLsb' 10 2, size := w.extractLsb' 0 10 }

/-- The operand fields in a word of TLOAD (R68). -/
def TloadOps.dec (w : BitVec 32) : TloadOps :=
  { aa := w.extractLsb' 17 5, ab := w.extractLsb' 12 5, list := w.getLsbD 11, count := w.extractLsb' 6 5, slot := w.extractLsb' 0 6 }

/-- The operand fields in a word of TSCLAIM, TSREL (R68). -/
def SlotOps.dec (w : BitVec 32) : SlotOps :=
  { count := w.extractLsb' 6 6, slot := w.extractLsb' 0 6 }

/-- The operand fields in a word of MMA, MDIST, MTOPK, MATTN, SPAWN, VWSYNC, SEGDET, SEGDROP, … (R68). -/
def XaOps.dec (w : BitVec 32) : XaOps :=
  { aa := w.extractLsb' 17 5 }

/-- The operand fields in a word of MACZ (R68). -/
def MaczOps.dec (w : BitVec 32) : MaczOps :=
  { tile := w.extractLsb' 0 3 }

/-- The operand fields in a word of MACRD (R68). -/
def MacrdOps.dec (w : BitVec 32) : MacrdOps :=
  { aa := w.extractLsb' 17 5, mode := w.extractLsb' 12 5, w := w.extractLsb' 10 2, tile := w.extractLsb' 7 3, vd := w.extractLsb' 0 7 }

/-- The operand fields in a word of VWSTAT (R68). -/
def XdOps.dec (w : BitVec 32) : XdOps :=
  { ad := w.extractLsb' 7 5 }

/-- The operand fields in a word of SEGMK (R68). -/
def SegmkOps.dec (w : BitVec 32) : SegmkOps :=
  { aa := w.extractLsb' 17 5, ab := w.extractLsb' 12 5, ad := w.extractLsb' 7 5, cls := w.extractLsb' 5 2, n := w.extractLsb' 0 5 }

/-- The operand fields in a word of SEGATT (R68). -/
def SegattOps.dec (w : BitVec 32) : SegattOps :=
  { aa := w.extractLsb' 17 5, ad := w.extractLsb' 7 5, acq := w.getLsbD 1, pull := w.getLsbD 0 }

/-- The operand fields in a word of CTLOAD (R68). -/
def CtloadOps.dec (w : BitVec 32) : CtloadOps :=
  { aa := w.extractLsb' 17 5, slot := w.extractLsb' 0 4 }

/-- The operand fields in a word of CTINV (R68). -/
def CtinvOps.dec (w : BitVec 32) : CtinvOps :=
  { slot := w.extractLsb' 0 4 }

/-- The operand fields in a word of XLMAP_NEW (R68). -/
def XadOps.dec (w : BitVec 32) : XadOps :=
  { aa := w.extractLsb' 17 5, ad := w.extractLsb' 7 5 }

/-- The operand fields in a word of XLMAP_RD, XLMAP_WR, XLPFX (R68). -/
def XlmapOps.dec (w : BitVec 32) : XlmapOps :=
  { aa := w.extractLsb' 17 5, ab := w.extractLsb' 12 5, ad := w.extractLsb' 7 5, hh := w.extractLsb' 2 5 }

/-- The operand fields in a word of XLFORK (R68). -/
def XadOps.dec2 (w : BitVec 32) : XadOps :=
  { aa := w.extractLsb' 17 5, ad := w.extractLsb' 7 5 }

/-- The operand fields in a word of XLFREE_ACCEPT, TBINIT (R68). -/
def XabOps.dec (w : BitVec 32) : XabOps :=
  { aa := w.extractLsb' 17 5, ab := w.extractLsb' 12 5 }

/-- The operand fields in a word of EVWAIT, EVSET (R68). -/
def EvOps.dec (w : BitVec 32) : EvOps :=
  { aa := w.extractLsb' 17 5, scope := w.extractLsb' 0 3 }

/-- The operand fields in a word of EVTEST (R68). -/
def EvdOps.dec (w : BitVec 32) : EvdOps :=
  { aa := w.extractLsb' 17 5, ad := w.extractLsb' 7 5, scope := w.extractLsb' 0 3 }

/-- The operand fields in a word of TBARV (R68). -/
def TbarvOps.dec (w : BitVec 32) : TbarvOps :=
  { aa := w.extractLsb' 17 5, k := w.extractLsb' 0 6 }

/-- The operand fields in a word of TBARV_LANES (R68). -/
def XaOps.dec2 (w : BitVec 32) : XaOps :=
  { aa := w.extractLsb' 17 5 }

/-- The operand fields in a word of TBEXP, TBEXP_ARV (R68). -/
def XabOps.dec2 (w : BitVec 32) : XabOps :=
  { aa := w.extractLsb' 17 5, ab := w.extractLsb' 12 5 }

/-- The operand fields in a word of TBWAIT (R68). -/
def XabdOps.dec (w : BitVec 32) : XabdOps :=
  { aa := w.extractLsb' 17 5, ab := w.extractLsb' 12 5, ad := w.extractLsb' 7 5 }

/-- The operand fields in a word of CWAIT (R68). -/
def CwaitOps.dec (w : BitVec 32) : CwaitOps :=
  { n := w.extractLsb' 6 6, cls := w.extractLsb' 3 3, scope := w.extractLsb' 0 3 }

/-- The operand fields in a word of FENCE (R68). -/
def FenceOps.dec (w : BitVec 32) : FenceOps :=
  { scope := w.extractLsb' 19 3, order := w.extractLsb' 16 3 }

/-- The operand fields in a word of TRAP (R68). -/
def TrapOps.dec (w : BitVec 32) : TrapOps :=
  { n := w.extractLsb' 0 5 }

/-- The operand fields in a word of BRK (R68). -/
def BrkOps.dec (w : BitVec 32) : BrkOps :=
  { code := w.extractLsb' 0 16 }

/-- The operand fields in a word of CSRR, CSRW (R68). -/
def CsrOps.dec (w : BitVec 32) : CsrOps :=
  { reg := w.extractLsb' 15 7, num := w.extractLsb' 0 12 }

/-- The operand fields in a word of SLEEP (R68). -/
def SleepOps.dec (w : BitVec 32) : SleepOps :=
  { n := w.extractLsb' 0 22 }

/-- The operand fields in a word of RGROW, RSHRINK (R68). -/
def GrowOps.dec (w : BitVec 32) : GrowOps :=
  { k := w.extractLsb' 0 5 }

/-- The operand fields in a word of LSMODE (R68). -/
def LsmodeOps.dec (w : BitVec 32) : LsmodeOps :=
  { bank := w.extractLsb' 17 5, mode := w.extractLsb' 15 2 }

/-- The operand fields in a word of H_IMM, H_IMX, H_KILL, H_SCHED, H_MOD, H_PRED (R68). -/
def HintOps.dec (w : BitVec 32) : HintOps :=
  { payload := w.extractLsb' 0 22 }

/-! ### The opcode map (R76 to R83) -/

/-- The operations of major class 0x00 (R76). -/
def decodeMajor00 (w : BitVec 32) : Option Instr :=
  match (w.extractLsb' 25 2).toNat with
  | 0 => some (.iadd (VOps.dec w))
  | 1 => some (.isub (VOps.dec w))
  | 2 => some (.imul (VOps.dec w))
  | 3 => some (.imulh (VOps.dec w))
  | _ => none

/-- The operations of major class 0x01 (R76). -/
def decodeMajor01 (w : BitVec 32) : Option Instr :=
  match (w.extractLsb' 25 2).toNat with
  | 0 => some (.imin (VOps.dec w))
  | 1 => some (.imax (VOps.dec w))
  | 2 => some (.umin (VOps.dec w))
  | 3 => some (.umax (VOps.dec w))
  | _ => none

/-- The operations of major class 0x02 (R76). -/
def decodeMajor02 (w : BitVec 32) : Option Instr :=
  match (w.extractLsb' 25 2).toNat with
  | 0 => some (.land (VOps.dec w))
  | 1 => some (.lor (VOps.dec w))
  | 2 => some (.lxor (VOps.dec w))
  | 3 => some (.landn (VOps.dec w))
  | _ => none

/-- The operations of major class 0x03 (R76). -/
def decodeMajor03 (w : BitVec 32) : Option Instr :=
  match (w.extractLsb' 25 2).toNat with
  | 0 => some (.shl (VOps.dec w))
  | 1 => some (.shr (VOps.dec w))
  | 2 => some (.sar (VOps.dec w))
  | 3 => some (.rot (VOps.dec w))
  | _ => none

/-- The operations of major class 0x04 (R76). -/
def decodeMajor04 (w : BitVec 32) : Option Instr :=
  match (w.extractLsb' 25 2).toNat with
  | 0 => some (.imac (VOps.dec w))
  | 1 => some (.imulhu (VOps.dec w))
  | 2 => some (.isad (VOps.dec w))
  | 3 => some (.idot4 (VOps.dec w))
  | _ => none

/-- The operations of major class 0x05 (R76). -/
def decodeMajor05 (w : BitVec 32) : Option Instr :=
  match (w.extractLsb' 25 2).toNat with
  | 0 => match (w.extractLsb' 2 7).toNat with
    | 0 => some (.inot (UnOps.dec w))
    | 1 => some (.ineg (UnOps.dec w))
    | 2 => some (.iabs (UnOps.dec w))
    | 3 => some (.popc (UnOps.dec w))
    | 4 => some (.clz (UnOps.dec w))
    | 5 => some (.ctz (UnOps.dec w))
    | 6 => some (.brev (UnOps.dec w))
    | 16 => some (.fneg (UnOps.dec w))
    | 17 => some (.fabs (UnOps.dec w))
    | 18 => some (.ffloor (UnOps.dec w))
    | 19 => some (.fceil (UnOps.dec w))
    | 20 => some (.ftrunc (UnOps.dec w))
    | 21 => some (.frint (UnOps.dec w))
    | 22 => some (.frcp (UnOps.dec w))
    | 23 => some (.frsq (UnOps.dec w))
    | 24 => some (.fsqrt (UnOps.dec w))
    | 25 => some (.fexp2 (UnOps.dec w))
    | 26 => some (.flog2 (UnOps.dec w))
    | 27 => some (.ftanh (UnOps.dec w))
    | 28 => some (.fsin (UnOps.dec w))
    | 29 => some (.fcos (UnOps.dec w))
    | _ => none
  | _ => none

/-- The operations of major class 0x06 (R76). -/
def decodeMajor06 (w : BitVec 32) : Option Instr :=
  match (w.extractLsb' 25 2).toNat with
  | 0 => some (.fadd (VOps.dec w))
  | 1 => some (.fsub (VOps.dec w))
  | 2 => some (.fmul (VOps.dec w))
  | 3 => some (.fmac (VOps.dec w))
  | _ => none

/-- The operations of major class 0x07 (R76). -/
def decodeMajor07 (w : BitVec 32) : Option Instr :=
  match (w.extractLsb' 25 2).toNat with
  | 0 => some (.fmin (VOps.dec w))
  | 1 => some (.fmax (VOps.dec w))
  | 2 => some (.fsgnj (VOps.dec w))
  | 3 => some (.fabd (VOps.dec w))
  | _ => none

/-- The operations of major class 0x08 (R76). -/
def decodeMajor08 (w : BitVec 32) : Option Instr :=
  match (w.extractLsb' 25 2).toNat with
  | 0 => some (.badd2 (VOps.dec w))
  | 1 => some (.bmul2 (VOps.dec w))
  | 2 => some (.bmac2 (VOps.dec w))
  | 3 => some (.bmax2 (VOps.dec w))
  | _ => none

/-- The operations of major class 0x09 (R76). -/
def decodeMajor09 (w : BitVec 32) : Option Instr :=
  match (w.extractLsb' 25 2).toNat with
  | 0 => some (.hadd2 (VOps.dec w))
  | 1 => some (.hmul2 (VOps.dec w))
  | 2 => some (.hmac2 (VOps.dec w))
  | 3 => some (.hmax2 (VOps.dec w))
  | _ => none

/-- The operations of major class 0x0A (R76). -/
def decodeMajor0A (w : BitVec 32) : Option Instr :=
  match (w.extractLsb' 25 2).toNat with
  | 0 => some (.icmp (CmpOps.dec w))
  | 1 => some (.ucmp (CmpOps.dec w))
  | 2 => some (.fcmp (CmpOps.dec w))
  | 3 => some (.fclass (ClassOps.dec w))
  | _ => none

/-- The operations of major class 0x0B (R76). -/
def decodeMajor0B (w : BitVec 32) : Option Instr :=
  match (w.extractLsb' 25 2).toNat with
  | 0 => some (.cvtf (CvtOps.dec w))
  | 1 => some (.cvth (CvtOps.dec w))
  | 2 => some (.bxpack (CvtOps.dec w))
  | 3 => some (.bxunpack (CvtOps.dec w))
  | _ => none

/-- The operations of major class 0x0C (R76). -/
def decodeMajor0C (w : BitVec 32) : Option Instr :=
  match (w.extractLsb' 25 2).toNat with
  | 0 => some (.bxdot2 (BxOps.dec w))
  | 1 => some (.bxdot4 (BxOps.dec w))
  | 2 => some (.bxdot7 (BxOps.dec w))
  | 3 => some (.f4dot (DotOps.dec w))
  | _ => none

/-- The operations of major class 0x0D (R76). -/
def decodeMajor0D (w : BitVec 32) : Option Instr :=
  match (w.extractLsb' 25 2).toNat with
  | 0 => some (.shfl (LnOps.dec w))
  | 1 => some (.vote (LnOps.dec w))
  | 2 => some (.redux (LnOps.dec w))
  | 3 => some (.scan (LnOps.dec w))
  | _ => none

/-- The operations of major class 0x0E (R76). -/
def decodeMajor0E (w : BitVec 32) : Option Instr :=
  match (w.extractLsb' 25 2).toNat with
  | 0 => some (.iadds (VsOps.dec w))
  | 1 => some (.fadds (VsOps.dec w))
  | 2 => some (.fmuls (VsOps.dec w))
  | 3 => some (.movs (MovsOps.dec w))
  | _ => none

/-- The operations of major class 0x0F (R76). -/
def decodeMajor0F (w : BitVec 32) : Option Instr :=
  match (w.extractLsb' 25 2).toNat with
  | 0 => some (.iaddi (ViOps.dec w))
  | 1 => some (.andi (ViOps.dec w))
  | 2 => some (.ori (ViOps.dec w))
  | 3 => some (.xori (ViOps.dec w))
  | _ => none

/-- The operations of major class 0x10 (R76). -/
def decodeMajor10 (w : BitVec 32) : Option Instr :=
  match (w.extractLsb' 25 2).toNat with
  | 0 => some (.shli (ShOps.dec w))
  | 1 => some (.shri (ShOps.dec w))
  | 2 => some (.sari (ShOps.dec w))
  | 3 => some (.li (LiOps.dec w))
  | _ => none

/-- The operations of major class 0x11 (R76). -/
def decodeMajor11 (w : BitVec 32) : Option Instr :=
  match (w.extractLsb' 25 2).toNat with
  | 0 => some (.mov (UnOps.dec w))
  | 1 => some (.sel (SelOps.dec w))
  | 2 => some (.xsend (SendOps.dec w))
  | 3 => some (.xrecv (RecvOps.dec w))
  | _ => none

/-- The operations of major class 0x12 (R76). -/
def decodeMajor12 (w : BitVec 32) : Option Instr :=
  match (w.extractLsb' 25 2).toNat with
  | 0 => some (.pop (QOps.dec w))
  | 1 => some (.push (QOps.dec w))
  | 2 => some (.peek (QOps.dec w))
  | 3 => some (.qlen (QOps.dec w))
  | _ => none

/-- The operations of major class 0x13 (R76). -/
def decodeMajor13 (w : BitVec 32) : Option Instr :=
  match (w.extractLsb' 24 3).toNat with
  | 0 => some (.sadd (S3Ops.dec w))
  | 1 => some (.ssub (S3Ops.dec w))
  | 2 => some (.smul (S3Ops.dec w))
  | 3 => some (.sand (S3Ops.dec w))
  | 4 => some (.sor (S3Ops.dec w))
  | 5 => some (.sxor (S3Ops.dec w))
  | 6 => some (.sshl (S3Ops.dec w))
  | 7 => some (.sshr (S3Ops.dec w))
  | _ => none

/-- The operations of major class 0x14 (R76). -/
def decodeMajor14 (w : BitVec 32) : Option Instr :=
  match (w.extractLsb' 24 3).toNat with
  | 0 => some (.saddi (SiOps.dec w))
  | 1 => some (.sli (SliOps.dec w))
  | 2 => some (.smov (S2Ops.dec w))
  | 3 => some (.v2s (V2sOps.dec w))
  | 4 => some (.smin (S3Ops.dec w))
  | 5 => some (.smax (S3Ops.dec w))
  | 6 => some (.sclz (S2Ops.dec w))
  | 7 => some (.spopc (S2Ops.dec w))
  | _ => none

/-- The operations of major class 0x15 (R76). -/
def decodeMajor15 (w : BitVec 32) : Option Instr :=
  match (w.extractLsb' 23 4).toNat with
  | 0 => some (.aadd (A3Ops.dec w))
  | 1 => some (.asub (A3Ops.dec w))
  | 2 => some (.amul (A3Ops.dec w))
  | 3 => some (.aand (A3Ops.dec w))
  | 4 => some (.aor (A3Ops.dec w))
  | 5 => some (.axor (A3Ops.dec w))
  | 6 => some (.ashl (A3Ops.dec w))
  | 7 => some (.ashr (A3Ops.dec w))
  | 8 => some (.asar (A3Ops.dec w))
  | 9 => some (.amin (A3Ops.dec w))
  | 10 => some (.amax (A3Ops.dec w))
  | 11 => some (.alea (LeaOps.dec w))
  | 12 => some (.acmp (AcmpOps.dec w))
  | 13 => some (.amov (A2Ops.dec w))
  | 14 => some (.a2s (A2sOps.dec w))
  | 15 => some (.s2a (S2aOps.dec w))
  | _ => none

/-- The operations of major class 0x16 (R76). -/
def decodeMajor16 (w : BitVec 32) : Option Instr :=
  match (w.extractLsb' 24 3).toNat with
  | 0 => some (.aaddi (AiOps.dec w))
  | 1 => some (.ali (AliOps.dec w))
  | 2 => some (.alui (AiOps.dec w))
  | 3 => some (.aandi (AiOps.dec w))
  | 4 => some (.aori (AiOps.dec w))
  | 5 => some (.ashli (AshOps.dec w))
  | 6 => some (.ashri (AshOps.dec w))
  | 7 => some (.acmpi (AcmpiOps.dec w))
  | _ => none

/-- The operations of major class 0x17 (R76). -/
def decodeMajor17 (w : BitVec 32) : Option Instr :=
  some (.ldq (LdqOps.dec w))

/-- The operations of major class 0x18 (R76). -/
def decodeMajor18 (w : BitVec 32) : Option Instr :=
  some (.lda (MOps.dec w))

/-- The operations of major class 0x19 (R76). -/
def decodeMajor19 (w : BitVec 32) : Option Instr :=
  some (.st (MOps.dec w))

/-- The operations of major class 0x1A (R76). -/
def decodeMajor1A (w : BitVec 32) : Option Instr :=
  match (w.extractLsb' 24 3).toNat with
  | 0 => some (.atomAdd (AtomOps.dec w))
  | 1 => some (.atomMin (AtomMOps.dec w))
  | 2 => some (.atomMax (AtomMOps.dec w))
  | 3 => some (.atomAnd (AtomOps.dec w))
  | 4 => some (.atomOr (AtomOps.dec w))
  | 5 => some (.atomXor (AtomOps.dec w))
  | 6 => some (.atomXchg (AtomOps.dec w))
  | 7 => some (.atomCas (AtomOps.dec w))
  | _ => none

/-- The operations of major class 0x1B (R76). -/
def decodeMajor1B (w : BitVec 32) : Option Instr :=
  match (w.extractLsb' 25 2).toNat with
  | 0 => some (.ldl (LtOps.dec w))
  | 1 => some (.stl (LtOps.dec w))
  | 2 => some (.ldt (LtOps.dec w))
  | 3 => some (.stt (LtOps.dec w))
  | _ => none

/-- The operations of major class 0x1C (R76). -/
def decodeMajor1C (w : BitVec 32) : Option Instr :=
  match (w.extractLsb' 24 3).toNat with
  | 0 => some (.br (BrOps.dec w))
  | 1 => some (.brt (BrpOps.dec w))
  | 2 => some (.brf (BrpOps.dec w))
  | 3 => some (.call (BrOps.dec w))
  | 4 => some (.ret (RetOps.dec w))
  | 5 => some (.jmps (JmpsOps.dec w))
  | 6 => some .exit
  | _ => none

/-- The operations of major class 0x1D (R76). -/
def decodeMajor1D (w : BitVec 32) : Option Instr :=
  match (w.extractLsb' 22 5).toNat with
  | 0 => some (.cpl (CplOps.dec w))
  | 1 => some (.cpk (CpkOps.dec w))
  | 2 => some (.pft (PftOps.dec w))
  | 3 => some (.tload (TloadOps.dec w))
  | 4 => some (.tsclaim (SlotOps.dec w))
  | 5 => some (.tsrel (SlotOps.dec w))
  | 6 => some (.mma (XaOps.dec w))
  | 7 => some (.mdist (XaOps.dec w))
  | 8 => some (.mtopk (XaOps.dec w))
  | 9 => some (.mattn (XaOps.dec w))
  | 10 => some (.macz (MaczOps.dec w))
  | 11 => some (.macrd (MacrdOps.dec w))
  | 12 => some (.spawn (XaOps.dec w))
  | 13 => some (.vwsync (XaOps.dec w))
  | 14 => some (.vwstat (XdOps.dec w))
  | 15 => some (.segmk (SegmkOps.dec w))
  | 16 => some (.segatt (SegattOps.dec w))
  | 17 => some (.segdet (XaOps.dec w))
  | 18 => some (.segdrop (XaOps.dec w))
  | 19 => some (.segseal (XaOps.dec w))
  | _ => none

/-- The operations of major class 0x1E (R76). -/
def decodeMajor1E (w : BitVec 32) : Option Instr :=
  match (w.extractLsb' 22 5).toNat with
  | 0 => some (.ctload (CtloadOps.dec w))
  | 1 => some (.ctinv (CtinvOps.dec w))
  | 2 => match (w.extractLsb' 0 2).toNat with
    | 0 => some (.xlmapNew (XadOps.dec w))
    | 1 => some (.xlmapRd (XlmapOps.dec w))
    | 2 => some (.xlmapWr (XlmapOps.dec w))
    | _ => none
  | 3 => some (.xlfork (XadOps.dec2 w))
  | 4 => if w.extractLsb' 12 5 = 0 then some (.xlfree (XaOps.dec w)) else some (.xlfreeAccept (XabOps.dec w))
  | 5 => some (.xlseal (XaOps.dec w))
  | 6 => some (.xlpfx (XlmapOps.dec w))
  | 7 => some (.evwait (EvOps.dec w))
  | 8 => some (.evset (EvOps.dec w))
  | 9 => some (.evclr (XaOps.dec w))
  | 10 => some (.evtest (EvdOps.dec w))
  | 11 => some (.tbinit (XabOps.dec w))
  | 12 => if w.getLsbD 6 then some (.tbarvLanes (XaOps.dec2 w)) else some (.tbarv (TbarvOps.dec w))
  | 13 => if w.getLsbD 0 then some (.tbexpArv (XabOps.dec2 w)) else some (.tbexp (XabOps.dec2 w))
  | 14 => some (.tbwait (XabdOps.dec w))
  | 15 => some (.cwait (CwaitOps.dec w))
  | _ => none

/-- The operations of major class 0x1F (R76). -/
def decodeMajor1F (w : BitVec 32) : Option Instr :=
  match (w.extractLsb' 22 5).toNat with
  | 0 => some (.fence (FenceOps.dec w))
  | 1 => some (.trap (TrapOps.dec w))
  | 2 => some .tret
  | 3 => some (.brk (BrkOps.dec w))
  | 4 => some (.csrr (CsrOps.dec w))
  | 5 => some (.csrw (CsrOps.dec w))
  | 6 => some (.sleep (SleepOps.dec w))
  | 7 => some .yield
  | 8 => some (.rgrow (GrowOps.dec w))
  | 9 => some (.rshrink (GrowOps.dec w))
  | 10 => some .rsync
  | 11 => some (.lsmode (LsmodeOps.dec w))
  | 12 => some .nop
  | 24 => some (.hImm (HintOps.dec w))
  | 25 => some (.hImx (HintOps.dec w))
  | 26 => some (.hKill (HintOps.dec w))
  | 27 => some (.hSched (HintOps.dec w))
  | 28 => some (.hMod (HintOps.dec w))
  | 29 => some (.hPred (HintOps.dec w))
  | _ => none

/-- The instruction or hint that a word's major class, function fields and selector name, its zero fields
not yet looked at (R67 reason 3 is `zeroBreach`); none where the operation is reserved (reason 1). -/
def decodeOp (w : BitVec 32) : Option Instr :=
  match (w.extractLsb' 27 5).toNat with
  | 0 => decodeMajor00 w
  | 1 => decodeMajor01 w
  | 2 => decodeMajor02 w
  | 3 => decodeMajor03 w
  | 4 => decodeMajor04 w
  | 5 => decodeMajor05 w
  | 6 => decodeMajor06 w
  | 7 => decodeMajor07 w
  | 8 => decodeMajor08 w
  | 9 => decodeMajor09 w
  | 10 => decodeMajor0A w
  | 11 => decodeMajor0B w
  | 12 => decodeMajor0C w
  | 13 => decodeMajor0D w
  | 14 => decodeMajor0E w
  | 15 => decodeMajor0F w
  | 16 => decodeMajor10 w
  | 17 => decodeMajor11 w
  | 18 => decodeMajor12 w
  | 19 => decodeMajor13 w
  | 20 => decodeMajor14 w
  | 21 => decodeMajor15 w
  | 22 => decodeMajor16 w
  | 23 => decodeMajor17 w
  | 24 => decodeMajor18 w
  | 25 => decodeMajor19 w
  | 26 => decodeMajor1A w
  | 27 => decodeMajor1B w
  | 28 => decodeMajor1C w
  | 29 => decodeMajor1D w
  | 30 => decodeMajor1E w
  | 31 => decodeMajor1F w
  | _ => none

/-- The bytes of a word as the hardware stores it: little-endian (R66). -/
def bytesOfWord (w : BitVec 32) : List (BitVec 8) :=
  [w.extractLsb' 0 8, w.extractLsb' 8 8, w.extractLsb' 16 8, w.extractLsb' 24 8]

/-- The word that four stored bytes hold (R66). -/
def wordOfBytes : List (BitVec 8) → Option (BitVec 32)
  | [b0, b1, b2, b3] => some (b3 ++ b2 ++ b1 ++ b0)
  | _ => none

/-! ### The encoder -/

/-- The word of IADD, ISUB, IMUL, IMULH, IMIN, IMAX, UMIN, UMAX, … (R68). -/
def VOps.enc (major : BitVec 5) (fn : BitVec 2) (f : VOps) : BitVec 32 :=
  major ++ fn ++ f.w ++ f.vd ++ f.va ++ f.vb ++ BitVec.ofBool f.ea ++ BitVec.ofBool f.eb

/-- The word of INOT, INEG, IABS, POPC, CLZ, CTZ, BREV, FNEG, … (R68). -/
def UnOps.enc (major : BitVec 5) (sel : BitVec 7) (f : UnOps) : BitVec 32 :=
  major ++ 0#2 ++ f.w ++ f.vd ++ f.va ++ sel ++ BitVec.ofBool f.ea ++ 0#1

/-- The word of ICMP, UCMP, FCMP (R68). -/
def CmpOps.enc (fn : BitVec 2) (f : CmpOps) : BitVec 32 :=
  0x0A#5 ++ fn ++ 0#2 ++ f.pd ++ f.cond ++ f.va ++ f.vb ++ BitVec.ofBool f.ea ++ BitVec.ofBool f.eb

/-- The word of FCLASS (R68). -/
def ClassOps.enc  (f : ClassOps) : BitVec 32 :=
  0x0A#5 ++ 3#2 ++ 0#2 ++ f.pd ++ f.cond ++ f.va ++ 0#7 ++ BitVec.ofBool f.ea ++ 0#1

/-- The word of CVTF, CVTH, BXPACK, BXUNPACK (R68). -/
def CvtOps.enc (fn : BitVec 2) (f : CvtOps) : BitVec 32 :=
  0x0B#5 ++ fn ++ f.w ++ f.vd ++ f.va ++ f.fmt ++ f.pol ++ BitVec.ofBool f.t ++ BitVec.ofBool f.ea ++ 0#1

/-- The word of BXDOT2, BXDOT4, BXDOT7 (R68). -/
def BxOps.enc (fn : BitVec 2) (f : BxOps) : BitVec 32 :=
  0x0C#5 ++ fn ++ f.vd ++ f.va ++ f.vb ++ f.bsel ++ BitVec.ofBool f.ea ++ BitVec.ofBool f.eb

/-- The word of F4DOT (R68). -/
def DotOps.enc  (f : DotOps) : BitVec 32 :=
  0x0C#5 ++ 3#2 ++ f.vd ++ f.va ++ f.vb ++ 0#2 ++ BitVec.ofBool f.ea ++ BitVec.ofBool f.eb

/-- The word of SHFL, VOTE, REDUX, SCAN (R68). -/
def LnOps.enc (fn : BitVec 2) (f : LnOps) : BitVec 32 :=
  0x0D#5 ++ fn ++ f.mode ++ f.vd ++ f.va ++ f.sm

/-- The word of IADDS, FADDS, FMULS (R68). -/
def VsOps.enc (fn : BitVec 2) (f : VsOps) : BitVec 32 :=
  0x0E#5 ++ fn ++ f.w ++ f.vd ++ f.va ++ f.sb ++ BitVec.ofBool f.ea

/-- The word of MOVS (R68). -/
def MovsOps.enc  (f : MovsOps) : BitVec 32 :=
  0x0E#5 ++ 3#2 ++ f.w ++ f.vd ++ 0#7 ++ f.sb ++ 0#1

/-- The word of IADDI, ANDI, ORI, XORI (R68). -/
def ViOps.enc (fn : BitVec 2) (f : ViOps) : BitVec 32 :=
  0x0F#5 ++ fn ++ f.vd ++ f.va ++ BitVec.ofBool f.ea ++ f.imm

/-- The word of SHLI, SHRI, SARI (R68). -/
def ShOps.enc (fn : BitVec 2) (f : ShOps) : BitVec 32 :=
  0x10#5 ++ fn ++ f.vd ++ f.va ++ BitVec.ofBool f.ea ++ 0#5 ++ f.k

/-- The word of LI (R68). -/
def LiOps.enc  (f : LiOps) : BitVec 32 :=
  0x10#5 ++ 3#2 ++ f.vd ++ 0#7 ++ 0#1 ++ f.imm

/-- The word of SEL (R68). -/
def SelOps.enc  (f : SelOps) : BitVec 32 :=
  0x11#5 ++ 1#2 ++ f.w ++ f.vd ++ f.va ++ f.vb ++ f.p

/-- The word of XSEND (R68). -/
def SendOps.enc  (f : SendOps) : BitVec 32 :=
  0x11#5 ++ 2#2 ++ f.w ++ 0#7 ++ f.va ++ f.slot ++ BitVec.ofBool f.ea ++ 0#1

/-- The word of XRECV (R68). -/
def RecvOps.enc  (f : RecvOps) : BitVec 32 :=
  0x11#5 ++ 3#2 ++ f.w ++ f.vd ++ 0#7 ++ f.slot ++ 0#1 ++ 0#1

/-- The word of POP, PUSH, PEEK, QLEN (R68). -/
def QOps.enc (fn : BitVec 2) (f : QOps) : BitVec 32 :=
  0x12#5 ++ fn ++ f.w ++ f.reg ++ f.queue ++ 0#14

/-- The word of SADD, SSUB, SMUL, SAND, SOR, SXOR, SSHL, SSHR, … (R68). -/
def S3Ops.enc (major : BitVec 5) (fn : BitVec 3) (f : S3Ops) : BitVec 32 :=
  major ++ fn ++ f.sd ++ f.sa ++ f.sb

/-- The word of SADDI (R68). -/
def SiOps.enc  (f : SiOps) : BitVec 32 :=
  0x14#5 ++ 0#3 ++ f.sd ++ f.sa ++ f.imm

/-- The word of SLI (R68). -/
def SliOps.enc  (f : SliOps) : BitVec 32 :=
  0x14#5 ++ 1#3 ++ f.sd ++ 0#8 ++ f.imm

/-- The word of SMOV, SCLZ, SPOPC (R68). -/
def S2Ops.enc (fn : BitVec 3) (f : S2Ops) : BitVec 32 :=
  0x14#5 ++ fn ++ f.sd ++ f.sa ++ 0#8

/-- The word of V2S (R68). -/
def V2sOps.enc  (f : V2sOps) : BitVec 32 :=
  0x14#5 ++ 3#3 ++ f.sd ++ 0#1 ++ f.va ++ f.lane

/-- The word of AADD, ASUB, AMUL, AAND, AOR, AXOR, ASHL, ASHR, … (R68). -/
def A3Ops.enc (fn : BitVec 4) (f : A3Ops) : BitVec 32 :=
  0x15#5 ++ fn ++ f.ad ++ f.aa ++ f.ab ++ 0#8

/-- The word of ALEA (R68). -/
def LeaOps.enc  (f : LeaOps) : BitVec 32 :=
  0x15#5 ++ 11#4 ++ f.ad ++ f.aa ++ f.ab ++ 0#5 ++ f.k

/-- The word of ACMP (R68). -/
def AcmpOps.enc  (f : AcmpOps) : BitVec 32 :=
  0x15#5 ++ 12#4 ++ f.pd ++ 0#2 ++ f.aa ++ f.ab ++ 0#4 ++ f.cond

/-- The word of AMOV (R68). -/
def A2Ops.enc  (f : A2Ops) : BitVec 32 :=
  0x15#5 ++ 13#4 ++ f.ad ++ f.aa ++ 0#5 ++ 0#8

/-- The word of A2S (R68). -/
def A2sOps.enc  (f : A2sOps) : BitVec 32 :=
  0x15#5 ++ 14#4 ++ 0#5 ++ f.aa ++ 0#5 ++ f.sd

/-- The word of S2A (R68). -/
def S2aOps.enc  (f : S2aOps) : BitVec 32 :=
  0x15#5 ++ 15#4 ++ f.ad ++ 0#5 ++ 0#5 ++ f.sb

/-- The word of AADDI, ALUI, AANDI, AORI (R68). -/
def AiOps.enc (fn : BitVec 3) (f : AiOps) : BitVec 32 :=
  0x16#5 ++ fn ++ f.ad ++ f.aa ++ f.imm

/-- The word of ALI (R68). -/
def AliOps.enc  (f : AliOps) : BitVec 32 :=
  0x16#5 ++ 1#3 ++ f.ad ++ 0#5 ++ f.imm

/-- The word of ASHLI, ASHRI (R68). -/
def AshOps.enc (fn : BitVec 3) (f : AshOps) : BitVec 32 :=
  0x16#5 ++ fn ++ f.ad ++ f.aa ++ 0#8 ++ f.k

/-- The word of ACMPI (R68). -/
def AcmpiOps.enc  (f : AcmpiOps) : BitVec 32 :=
  0x16#5 ++ 7#3 ++ f.pd ++ f.cond ++ f.aa ++ f.imm

/-- The word of LDQ (R68). -/
def LdqOps.enc  (f : LdqOps) : BitVec 32 :=
  0x17#5 ++ f.size ++ f.order ++ f.scope ++ 0#5 ++ f.base ++ f.off

/-- The word of LDA, ST (R68). -/
def MOps.enc (major : BitVec 5) (f : MOps) : BitVec 32 :=
  major ++ f.size ++ f.order ++ f.scope ++ f.t ++ f.base ++ f.off

/-- The word of ATOM_ADD, ATOM_AND, ATOM_OR, ATOM_XOR, ATOM_XCHG, ATOM_CAS (R68). -/
def AtomOps.enc (fn : BitVec 3) (f : AtomOps) : BitVec 32 :=
  0x1A#5 ++ fn ++ f.order ++ f.scope ++ BitVec.ofBool f.sz64 ++ BitVec.ofBool f.ret ++ 0#1 ++ 0#2 ++ f.base ++ f.off

/-- The word of ATOM_MIN, ATOM_MAX (R68). -/
def AtomMOps.enc (fn : BitVec 3) (f : AtomMOps) : BitVec 32 :=
  0x1A#5 ++ fn ++ f.order ++ f.scope ++ BitVec.ofBool f.sz64 ++ BitVec.ofBool f.ret ++ BitVec.ofBool f.uns ++ 0#2 ++ f.base ++ f.off

/-- The word of LDL, STL, LDT, STT (R68). -/
def LtOps.enc (fn : BitVec 2) (f : LtOps) : BitVec 32 :=
  0x1B#5 ++ fn ++ f.size ++ f.t ++ f.base ++ f.off

/-- The word of BR, CALL (R68). -/
def BrOps.enc (fn : BitVec 3) (f : BrOps) : BitVec 32 :=
  0x1C#5 ++ fn ++ 0#3 ++ f.prio ++ f.disp

/-- The word of BRT, BRF (R68). -/
def BrpOps.enc (fn : BitVec 3) (f : BrpOps) : BitVec 32 :=
  0x1C#5 ++ fn ++ f.p ++ f.prio ++ f.disp

/-- The word of RET (R68). -/
def RetOps.enc  (f : RetOps) : BitVec 32 :=
  0x1C#5 ++ 4#3 ++ 0#3 ++ f.prio ++ 0#17

/-- The word of JMPS (R68). -/
def JmpsOps.enc  (f : JmpsOps) : BitVec 32 :=
  0x1C#5 ++ 5#3 ++ 0#3 ++ f.prio ++ 0#9 ++ f.sn

/-- The word of EXIT (R68). -/
def encBare24  : BitVec 32 :=
  0x1C#5 ++ 6#3 ++ 0#24

/-- The word of CPL (R68). -/
def CplOps.enc  (f : CplOps) : BitVec 32 :=
  0x1D#5 ++ 0#5 ++ f.aa ++ f.ab ++ 0#4 ++ BitVec.ofBool f.arv ++ f.bar ++ f.size

/-- The word of CPK (R68). -/
def CpkOps.enc  (f : CpkOps) : BitVec 32 :=
  0x1D#5 ++ 1#5 ++ f.aa ++ 0#5 ++ 0#6 ++ f.n

/-- The word of PFT (R68). -/
def PftOps.enc  (f : PftOps) : BitVec 32 :=
  0x1D#5 ++ 2#5 ++ f.aa ++ f.ab ++ f.comp ++ f.size

/-- The word of TLOAD (R68). -/
def TloadOps.enc  (f : TloadOps) : BitVec 32 :=
  0x1D#5 ++ 3#5 ++ f.aa ++ f.ab ++ BitVec.ofBool f.list ++ f.count ++ f.slot

/-- The word of TSCLAIM, TSREL (R68). -/
def SlotOps.enc (fn : BitVec 5) (f : SlotOps) : BitVec 32 :=
  0x1D#5 ++ fn ++ 0#5 ++ 0#5 ++ f.count ++ f.slot

/-- The word of MMA, MDIST, MTOPK, MATTN, SPAWN, VWSYNC, SEGDET, SEGDROP, … (R68). -/
def XaOps.enc (major : BitVec 5) (fn : BitVec 5) (f : XaOps) : BitVec 32 :=
  major ++ fn ++ f.aa ++ 0#5 ++ 0#12

/-- The word of MACZ (R68). -/
def MaczOps.enc  (f : MaczOps) : BitVec 32 :=
  0x1D#5 ++ 10#5 ++ 0#5 ++ 0#5 ++ 0#9 ++ f.tile

/-- The word of MACRD (R68). -/
def MacrdOps.enc  (f : MacrdOps) : BitVec 32 :=
  0x1D#5 ++ 11#5 ++ f.aa ++ f.mode ++ f.w ++ f.tile ++ f.vd

/-- The word of VWSTAT (R68). -/
def XdOps.enc  (f : XdOps) : BitVec 32 :=
  0x1D#5 ++ 14#5 ++ 0#5 ++ 0#5 ++ f.ad ++ 0#7

/-- The word of SEGMK (R68). -/
def SegmkOps.enc  (f : SegmkOps) : BitVec 32 :=
  0x1D#5 ++ 15#5 ++ f.aa ++ f.ab ++ f.ad ++ f.cls ++ f.n

/-- The word of SEGATT (R68). -/
def SegattOps.enc  (f : SegattOps) : BitVec 32 :=
  0x1D#5 ++ 16#5 ++ f.aa ++ 0#5 ++ f.ad ++ 0#5 ++ BitVec.ofBool f.acq ++ BitVec.ofBool f.pull

/-- The word of CTLOAD (R68). -/
def CtloadOps.enc  (f : CtloadOps) : BitVec 32 :=
  0x1E#5 ++ 0#5 ++ f.aa ++ 0#5 ++ 0#8 ++ f.slot

/-- The word of CTINV (R68). -/
def CtinvOps.enc  (f : CtinvOps) : BitVec 32 :=
  0x1E#5 ++ 1#5 ++ 0#5 ++ 0#5 ++ 0#8 ++ f.slot

/-- The word of XLMAP_NEW (R68). -/
def XadOps.enc  (f : XadOps) : BitVec 32 :=
  0x1E#5 ++ 2#5 ++ f.aa ++ 0#5 ++ f.ad ++ 0#5 ++ 0#2

/-- The word of XLMAP_RD, XLMAP_WR, XLPFX (R68). -/
def XlmapOps.enc (fn : BitVec 5) (sel : BitVec 2) (f : XlmapOps) : BitVec 32 :=
  0x1E#5 ++ fn ++ f.aa ++ f.ab ++ f.ad ++ f.hh ++ sel

/-- The word of XLFORK (R68). -/
def XadOps.enc2  (f : XadOps) : BitVec 32 :=
  0x1E#5 ++ 3#5 ++ f.aa ++ 0#5 ++ f.ad ++ 0#7

/-- The word of XLFREE_ACCEPT, TBINIT (R68). -/
def XabOps.enc (fn : BitVec 5) (f : XabOps) : BitVec 32 :=
  0x1E#5 ++ fn ++ f.aa ++ f.ab ++ 0#12

/-- The word of EVWAIT, EVSET (R68). -/
def EvOps.enc (fn : BitVec 5) (f : EvOps) : BitVec 32 :=
  0x1E#5 ++ fn ++ f.aa ++ 0#5 ++ 0#9 ++ f.scope

/-- The word of EVTEST (R68). -/
def EvdOps.enc  (f : EvdOps) : BitVec 32 :=
  0x1E#5 ++ 10#5 ++ f.aa ++ 0#5 ++ f.ad ++ 0#4 ++ f.scope

/-- The word of TBARV (R68). -/
def TbarvOps.enc  (f : TbarvOps) : BitVec 32 :=
  0x1E#5 ++ 12#5 ++ f.aa ++ 0#5 ++ 0#5 ++ 0#1 ++ f.k

/-- The word of TBARV_LANES (R68). -/
def XaOps.enc2  (f : XaOps) : BitVec 32 :=
  0x1E#5 ++ 12#5 ++ f.aa ++ 0#5 ++ 0#5 ++ 1#1 ++ 0#6

/-- The word of TBEXP, TBEXP_ARV (R68). -/
def XabOps.enc2 (sel : BitVec 1) (f : XabOps) : BitVec 32 :=
  0x1E#5 ++ 13#5 ++ f.aa ++ f.ab ++ 0#11 ++ sel

/-- The word of TBWAIT (R68). -/
def XabdOps.enc  (f : XabdOps) : BitVec 32 :=
  0x1E#5 ++ 14#5 ++ f.aa ++ f.ab ++ f.ad ++ 0#7

/-- The word of CWAIT (R68). -/
def CwaitOps.enc  (f : CwaitOps) : BitVec 32 :=
  0x1E#5 ++ 15#5 ++ 0#5 ++ 0#5 ++ f.n ++ f.cls ++ f.scope

/-- The word of FENCE (R68). -/
def FenceOps.enc  (f : FenceOps) : BitVec 32 :=
  0x1F#5 ++ 0#5 ++ f.scope ++ f.order ++ 0#16

/-- The word of TRAP (R68). -/
def TrapOps.enc  (f : TrapOps) : BitVec 32 :=
  0x1F#5 ++ 1#5 ++ 0#17 ++ f.n

/-- The word of TRET, YIELD, RSYNC, NOP (R68). -/
def encBare22 (fn : BitVec 5) : BitVec 32 :=
  0x1F#5 ++ fn ++ 0#22

/-- The word of BRK (R68). -/
def BrkOps.enc  (f : BrkOps) : BitVec 32 :=
  0x1F#5 ++ 3#5 ++ 0#6 ++ f.code

/-- The word of CSRR, CSRW (R68). -/
def CsrOps.enc (fn : BitVec 5) (f : CsrOps) : BitVec 32 :=
  0x1F#5 ++ fn ++ f.reg ++ 0#3 ++ f.num

/-- The word of SLEEP (R68). -/
def SleepOps.enc  (f : SleepOps) : BitVec 32 :=
  0x1F#5 ++ 6#5 ++ f.n

/-- The word of RGROW, RSHRINK (R68). -/
def GrowOps.enc (fn : BitVec 5) (f : GrowOps) : BitVec 32 :=
  0x1F#5 ++ fn ++ 0#17 ++ f.k

/-- The word of LSMODE (R68). -/
def LsmodeOps.enc  (f : LsmodeOps) : BitVec 32 :=
  0x1F#5 ++ 11#5 ++ f.bank ++ f.mode ++ 0#15

/-- The word of H_IMM, H_IMX, H_KILL, H_SCHED, H_MOD, H_PRED (R68). -/
def HintOps.enc (fn : BitVec 5) (f : HintOps) : BitVec 32 :=
  0x1F#5 ++ fn ++ f.payload

/-- The word of a well-formed instruction, from the formats and maps of R68 to R83. A device event has no word. -/
def encode : Instr → Option (BitVec 32)
  | .iadd f => some (VOps.enc 0x00 0 f)
  | .isub f => some (VOps.enc 0x00 1 f)
  | .imul f => some (VOps.enc 0x00 2 f)
  | .imulh f => some (VOps.enc 0x00 3 f)
  | .imin f => some (VOps.enc 0x01 0 f)
  | .imax f => some (VOps.enc 0x01 1 f)
  | .umin f => some (VOps.enc 0x01 2 f)
  | .umax f => some (VOps.enc 0x01 3 f)
  | .land f => some (VOps.enc 0x02 0 f)
  | .lor f => some (VOps.enc 0x02 1 f)
  | .lxor f => some (VOps.enc 0x02 2 f)
  | .landn f => some (VOps.enc 0x02 3 f)
  | .shl f => some (VOps.enc 0x03 0 f)
  | .shr f => some (VOps.enc 0x03 1 f)
  | .sar f => some (VOps.enc 0x03 2 f)
  | .rot f => some (VOps.enc 0x03 3 f)
  | .imac f => some (VOps.enc 0x04 0 f)
  | .imulhu f => some (VOps.enc 0x04 1 f)
  | .isad f => some (VOps.enc 0x04 2 f)
  | .idot4 f => some (VOps.enc 0x04 3 f)
  | .inot f => some (UnOps.enc 0x05 0 f)
  | .ineg f => some (UnOps.enc 0x05 1 f)
  | .iabs f => some (UnOps.enc 0x05 2 f)
  | .popc f => some (UnOps.enc 0x05 3 f)
  | .clz f => some (UnOps.enc 0x05 4 f)
  | .ctz f => some (UnOps.enc 0x05 5 f)
  | .brev f => some (UnOps.enc 0x05 6 f)
  | .fneg f => some (UnOps.enc 0x05 16 f)
  | .fabs f => some (UnOps.enc 0x05 17 f)
  | .ffloor f => some (UnOps.enc 0x05 18 f)
  | .fceil f => some (UnOps.enc 0x05 19 f)
  | .ftrunc f => some (UnOps.enc 0x05 20 f)
  | .frint f => some (UnOps.enc 0x05 21 f)
  | .frcp f => some (UnOps.enc 0x05 22 f)
  | .frsq f => some (UnOps.enc 0x05 23 f)
  | .fsqrt f => some (UnOps.enc 0x05 24 f)
  | .fexp2 f => some (UnOps.enc 0x05 25 f)
  | .flog2 f => some (UnOps.enc 0x05 26 f)
  | .ftanh f => some (UnOps.enc 0x05 27 f)
  | .fsin f => some (UnOps.enc 0x05 28 f)
  | .fcos f => some (UnOps.enc 0x05 29 f)
  | .fadd f => some (VOps.enc 0x06 0 f)
  | .fsub f => some (VOps.enc 0x06 1 f)
  | .fmul f => some (VOps.enc 0x06 2 f)
  | .fmac f => some (VOps.enc 0x06 3 f)
  | .fmin f => some (VOps.enc 0x07 0 f)
  | .fmax f => some (VOps.enc 0x07 1 f)
  | .fsgnj f => some (VOps.enc 0x07 2 f)
  | .fabd f => some (VOps.enc 0x07 3 f)
  | .badd2 f => some (VOps.enc 0x08 0 f)
  | .bmul2 f => some (VOps.enc 0x08 1 f)
  | .bmac2 f => some (VOps.enc 0x08 2 f)
  | .bmax2 f => some (VOps.enc 0x08 3 f)
  | .hadd2 f => some (VOps.enc 0x09 0 f)
  | .hmul2 f => some (VOps.enc 0x09 1 f)
  | .hmac2 f => some (VOps.enc 0x09 2 f)
  | .hmax2 f => some (VOps.enc 0x09 3 f)
  | .icmp f => some (CmpOps.enc 0 f)
  | .ucmp f => some (CmpOps.enc 1 f)
  | .fcmp f => some (CmpOps.enc 2 f)
  | .fclass f => some (ClassOps.enc f)
  | .cvtf f => some (CvtOps.enc 0 f)
  | .cvth f => some (CvtOps.enc 1 f)
  | .bxpack f => some (CvtOps.enc 2 f)
  | .bxunpack f => some (CvtOps.enc 3 f)
  | .bxdot2 f => some (BxOps.enc 0 f)
  | .bxdot4 f => some (BxOps.enc 1 f)
  | .bxdot7 f => some (BxOps.enc 2 f)
  | .f4dot f => some (DotOps.enc f)
  | .shfl f => some (LnOps.enc 0 f)
  | .vote f => some (LnOps.enc 1 f)
  | .redux f => some (LnOps.enc 2 f)
  | .scan f => some (LnOps.enc 3 f)
  | .iadds f => some (VsOps.enc 0 f)
  | .fadds f => some (VsOps.enc 1 f)
  | .fmuls f => some (VsOps.enc 2 f)
  | .movs f => some (MovsOps.enc f)
  | .iaddi f => some (ViOps.enc 0 f)
  | .andi f => some (ViOps.enc 1 f)
  | .ori f => some (ViOps.enc 2 f)
  | .xori f => some (ViOps.enc 3 f)
  | .shli f => some (ShOps.enc 0 f)
  | .shri f => some (ShOps.enc 1 f)
  | .sari f => some (ShOps.enc 2 f)
  | .li f => some (LiOps.enc f)
  | .mov f => some (UnOps.enc 0x11 0 f)
  | .sel f => some (SelOps.enc f)
  | .xsend f => some (SendOps.enc f)
  | .xrecv f => some (RecvOps.enc f)
  | .pop f => some (QOps.enc 0 f)
  | .push f => some (QOps.enc 1 f)
  | .peek f => some (QOps.enc 2 f)
  | .qlen f => some (QOps.enc 3 f)
  | .sadd f => some (S3Ops.enc 0x13 0 f)
  | .ssub f => some (S3Ops.enc 0x13 1 f)
  | .smul f => some (S3Ops.enc 0x13 2 f)
  | .sand f => some (S3Ops.enc 0x13 3 f)
  | .sor f => some (S3Ops.enc 0x13 4 f)
  | .sxor f => some (S3Ops.enc 0x13 5 f)
  | .sshl f => some (S3Ops.enc 0x13 6 f)
  | .sshr f => some (S3Ops.enc 0x13 7 f)
  | .saddi f => some (SiOps.enc f)
  | .sli f => some (SliOps.enc f)
  | .smov f => some (S2Ops.enc 2 f)
  | .v2s f => some (V2sOps.enc f)
  | .smin f => some (S3Ops.enc 0x14 4 f)
  | .smax f => some (S3Ops.enc 0x14 5 f)
  | .sclz f => some (S2Ops.enc 6 f)
  | .spopc f => some (S2Ops.enc 7 f)
  | .aadd f => some (A3Ops.enc 0 f)
  | .asub f => some (A3Ops.enc 1 f)
  | .amul f => some (A3Ops.enc 2 f)
  | .aand f => some (A3Ops.enc 3 f)
  | .aor f => some (A3Ops.enc 4 f)
  | .axor f => some (A3Ops.enc 5 f)
  | .ashl f => some (A3Ops.enc 6 f)
  | .ashr f => some (A3Ops.enc 7 f)
  | .asar f => some (A3Ops.enc 8 f)
  | .amin f => some (A3Ops.enc 9 f)
  | .amax f => some (A3Ops.enc 10 f)
  | .alea f => some (LeaOps.enc f)
  | .acmp f => some (AcmpOps.enc f)
  | .amov f => some (A2Ops.enc f)
  | .a2s f => some (A2sOps.enc f)
  | .s2a f => some (S2aOps.enc f)
  | .aaddi f => some (AiOps.enc 0 f)
  | .ali f => some (AliOps.enc f)
  | .alui f => some (AiOps.enc 2 f)
  | .aandi f => some (AiOps.enc 3 f)
  | .aori f => some (AiOps.enc 4 f)
  | .ashli f => some (AshOps.enc 5 f)
  | .ashri f => some (AshOps.enc 6 f)
  | .acmpi f => some (AcmpiOps.enc f)
  | .ldq f => some (LdqOps.enc f)
  | .lda f => some (MOps.enc 0x18 f)
  | .st f => some (MOps.enc 0x19 f)
  | .atomAdd f => some (AtomOps.enc 0 f)
  | .atomMin f => some (AtomMOps.enc 1 f)
  | .atomMax f => some (AtomMOps.enc 2 f)
  | .atomAnd f => some (AtomOps.enc 3 f)
  | .atomOr f => some (AtomOps.enc 4 f)
  | .atomXor f => some (AtomOps.enc 5 f)
  | .atomXchg f => some (AtomOps.enc 6 f)
  | .atomCas f => some (AtomOps.enc 7 f)
  | .ldl f => some (LtOps.enc 0 f)
  | .stl f => some (LtOps.enc 1 f)
  | .ldt f => some (LtOps.enc 2 f)
  | .stt f => some (LtOps.enc 3 f)
  | .br f => some (BrOps.enc 0 f)
  | .brt f => some (BrpOps.enc 1 f)
  | .brf f => some (BrpOps.enc 2 f)
  | .call f => some (BrOps.enc 3 f)
  | .ret f => some (RetOps.enc f)
  | .jmps f => some (JmpsOps.enc f)
  | .exit => some (encBare24)
  | .cpl f => some (CplOps.enc f)
  | .cpk f => some (CpkOps.enc f)
  | .pft f => some (PftOps.enc f)
  | .tload f => some (TloadOps.enc f)
  | .tsclaim f => some (SlotOps.enc 4 f)
  | .tsrel f => some (SlotOps.enc 5 f)
  | .mma f => some (XaOps.enc 0x1D 6 f)
  | .mdist f => some (XaOps.enc 0x1D 7 f)
  | .mtopk f => some (XaOps.enc 0x1D 8 f)
  | .mattn f => some (XaOps.enc 0x1D 9 f)
  | .macz f => some (MaczOps.enc f)
  | .macrd f => some (MacrdOps.enc f)
  | .spawn f => some (XaOps.enc 0x1D 12 f)
  | .vwsync f => some (XaOps.enc 0x1D 13 f)
  | .vwstat f => some (XdOps.enc f)
  | .segmk f => some (SegmkOps.enc f)
  | .segatt f => some (SegattOps.enc f)
  | .segdet f => some (XaOps.enc 0x1D 17 f)
  | .segdrop f => some (XaOps.enc 0x1D 18 f)
  | .segseal f => some (XaOps.enc 0x1D 19 f)
  | .ctload f => some (CtloadOps.enc f)
  | .ctinv f => some (CtinvOps.enc f)
  | .xlmapNew f => some (XadOps.enc f)
  | .xlmapRd f => some (XlmapOps.enc 2 1 f)
  | .xlmapWr f => some (XlmapOps.enc 2 2 f)
  | .xlfork f => some (XadOps.enc2 f)
  | .xlfree f => some (XaOps.enc 0x1E 4 f)
  | .xlfreeAccept f => some (XabOps.enc 4 f)
  | .xlseal f => some (XaOps.enc 0x1E 5 f)
  | .xlpfx f => some (XlmapOps.enc 6 0 f)
  | .evwait f => some (EvOps.enc 7 f)
  | .evset f => some (EvOps.enc 8 f)
  | .evclr f => some (XaOps.enc 0x1E 9 f)
  | .evtest f => some (EvdOps.enc f)
  | .tbinit f => some (XabOps.enc 11 f)
  | .tbarv f => some (TbarvOps.enc f)
  | .tbarvLanes f => some (XaOps.enc2 f)
  | .tbexp f => some (XabOps.enc2 0 f)
  | .tbexpArv f => some (XabOps.enc2 1 f)
  | .tbwait f => some (XabdOps.enc f)
  | .cwait f => some (CwaitOps.enc f)
  | .fence f => some (FenceOps.enc f)
  | .trap f => some (TrapOps.enc f)
  | .tret => some (encBare22 2)
  | .brk f => some (BrkOps.enc f)
  | .csrr f => some (CsrOps.enc 4 f)
  | .csrw f => some (CsrOps.enc 5 f)
  | .sleep f => some (SleepOps.enc f)
  | .yield => some (encBare22 7)
  | .rgrow f => some (GrowOps.enc 8 f)
  | .rshrink f => some (GrowOps.enc 9 f)
  | .rsync => some (encBare22 10)
  | .lsmode f => some (LsmodeOps.enc f)
  | .nop => some (encBare22 12)
  | .hImm f => some (HintOps.enc 24 f)
  | .hImx f => some (HintOps.enc 25 f)
  | .hKill f => some (HintOps.enc 26 f)
  | .hSched f => some (HintOps.enc 27 f)
  | .hMod f => some (HintOps.enc 28 f)
  | .hPred f => some (HintOps.enc 29 f)
  | .loadDelivery _ _ => none
  | .ldaFill _ _ => none
  | .ldtDelivery _ _ => none
  | .sttPopStep _ _ => none
  | .tileDecode _ _ => none
  | .encodeTile _ => none
  | .copyItem _ => none
  | .cplItem _ _ _ => none
  | .prefetchLine _ _ => none
  | .matrixProductExecute _ => none
  | .topkExecute _ => none
  | .attentionExecute _ => none
  | .accumulatorRead _ => none
  | .proofSample _ => none
  | .pmvalReply _ _ _ => none
  | .viewRefresh _ => none
  | .spawnAccept _ _ => none
  | .groupAdmit _ _ => none
  | .groupReadmit _ => none
  | .groupPark _ => none
  | .groupRetire _ => none
  | .regGrant _ => none
  | .turnTimerExpiry _ _ => none
  | .frontierSpillExchange _ _ => none
  | .deadlockCount _ _ => none
  | .swapThreshold _ => none
  | .admissionWaitLimit _ => none
  | .sleepExpiry _ _ _ => none
  | .lsmodeComplete _ _ => none
  | .segmentEvict _ => none
  | .segmentEvictionComplete _ _ => none
  | .segmentRestoreComplete _ _ => none
  | .seedStart _ => none
  | .mscEviction _ => none
  | .monitorSnapshot _ _ => none
  | .doorbell _ => none
  | .nopPacket _ => none
  | .launch _ => none
  | .wait _ => none
  | .signal _ => none
  | .copy _ => none
  | .viewReg _ => none
  | .packetComplete _ => none
  | .semaphorePoll _ => none
  | .eventOverflowPoll _ _ _ => none
  | .ringConsPoll _ _ => none
  | .faultans _ _ => none
  | .inval _ _ _ => none
  | .invalidationComplete _ _ => none
  | .ctxcmdCreate _ _ => none
  | .ctxcmdDestroy _ _ => none
  | .ctxcmdPreempt _ _ => none
  | .preemptSave _ => none
  | .ctxcmdResume _ _ => none
  | .contextResume _ => none
  | .qcmdBind _ _ => none
  | .qcmdUnbind _ _ => none
  | .queueFree _ => none
  | .moncfg _ _ _ _ => none
  | .domain _ => none
  | .extasn _ => none
  | .corrsel _ _ _ => none
  | .registerWrite _ _ _ => none
  | .kick _ _ _ => none
  | .mstat _ _ => none
  | .createRegion _ _ _ _ => none
  | .destroyRegion _ => none
  | .tdiLeaveRun _ => none
  | .spdmRequest _ => none
  | .recoveryImage _ => none
  | .deviceReset => none
  | .coreScan _ => none
  | .scanEnd _ _ => none
  | .scanAbort _ => none
  | .d3hot => none
  | .d3cold => none
  | .powerLimitThrottle _ => none
  | .thermalThrottle _ => none
  | .thermalShutdown _ => none
  | .extentRelease _ => none
  | .extentReleaseAck _ => none
  | .extentRevoke _ => none
  | .eccUncorrectable _ _ => none
  | .barporFlit _ _ _ _ => none
  | .rdmaAccess _ _ _ _ => none
  | .coreCycle _ => none
  | .l1Eviction _ _ => none
  | .storePerformed _ _ => none
  | .dynamicCapacityAdd _ _ _ => none
  | .barporLinkDown _ => none
  | .partitionAssign _ _ => none


/-- The instruction a word decodes to: its operation is assigned and its fields that must be zero are zero. -/
def decodeWord (w : BitVec 32) : Option Instr :=
  match decodeOp w with
  | none => none
  | some i => if encode i = some w then some i else none

/-- The instruction that the opcode table's bits `w` stand for, through the bytes the hardware stores. -/
def decodeTableWord (_nbits w : Nat) : Option Instr :=
  match wordOfBytes (bytesOfWord (BitVec.ofNat 32 w)) with
  | none => none
  | some v => decodeWord v

end Sys2Proof
end

