-- ==== Sys2Proof/Machine/Legal.lean ====
section
/-! DEFINITION. When a word or a hint sequence is legal: the register runs an instruction names (R68 to R72), the reasons of
R67 by field, by strand (R75) and by hint (R84 to R90). -/

namespace Sys2Proof.Machine

open Sys2Proof

/-! ### Registers named by an instruction -/

/-- A run of registers (R69). -/
structure Run where
  reg : Nat
  len : Nat
  deriving DecidableEq, Repr

/-- The registers of a run. -/
def Run.regs (r : Run) : List Nat := (upTo r.len).map (r.reg + ·)

/-- The v, a and scalar registers an instruction reads and writes. A v source carries its empty-read policy: true raises
EMPTY_READ, false blocks (R71). -/
structure Shape where
  vDst : List Run := []
  vSrc : List (Run × Bool) := []
  aDst : List Nat := []
  aSrc : List Nat := []
  sDst : List Nat := []
  sSrc : List Nat := []
  deriving DecidableEq, Repr

/-- The run length that a width code gives (R69). -/
def runLen (w : BitVec 2) : Nat := 2 ^ w.toNat

/-- A run from its first register and width code. -/
def mkRun (r : BitVec 7) (w : BitVec 2) : Run := ⟨r.toNat, runLen w⟩

/-- A single register. -/
def oneReg (r : BitVec 7) : Run := ⟨r.toNat, 1⟩

/-- A named pair (R69). -/
def pairReg (r : BitVec 7) : Run := ⟨r.toNat, 2⟩

/-- Two sources and a destination of format V. -/
def shapeV (f : VOps) : Shape :=
  { vDst := [mkRun f.vd f.w], vSrc := [(mkRun f.va f.w, f.ea), (mkRun f.vb f.w, f.eb)] }

/-- An accumulating form of format V also reads its destination, under the ea policy (R70, R71). -/
def shapeVAcc (f : VOps) : Shape :=
  { vDst := [mkRun f.vd f.w],
    vSrc := [(mkRun f.va f.w, f.ea), (mkRun f.vb f.w, f.eb), (mkRun f.vd f.w, f.ea)] }

/-- One source and a destination. -/
def shapeUn (f : UnOps) : Shape := { vDst := [mkRun f.vd f.w], vSrc := [(mkRun f.va f.w, f.ea)] }

/-- A conversion. -/
def shapeCvt (f : CvtOps) : Shape := { vDst := [mkRun f.vd f.w], vSrc := [(mkRun f.va f.w, f.ea)] }

/-- A block dot product: element and scale pairs (R152). -/
def shapeBx (f : BxOps) : Shape :=
  { vDst := [oneReg f.vd], vSrc := [(pairReg f.va, f.ea), (pairReg f.vb, f.eb), (oneReg f.vd, f.ea)] }

/-- A lane instruction reading one register and the scalar pair of its mask (R154). -/
def shapeLn (f : LnOps) : Shape :=
  { vDst := [oneReg f.vd], vSrc := [(oneReg f.va, false)], sSrc := [f.sm.toNat, f.sm.toNat + 1] }

/-- Whether a control register is 64 bits wide, for the numbers of R102. -/
def csrWide (n : Nat) : Option Bool :=
  if n ∈ [0x000, 0x001, 0x010, 0x030, 0x031, 0x032, 0x033, 0x034, 0x035, 0x040] then some false
  else if n ∈ [0x011, 0x012, 0x013, 0x014, 0x020, 0x041] then some true
  else none

/-- The v run of a control register on the compute strand (R103). -/
def csrRun (f : CsrOps) : Run := ⟨f.reg.toNat, if csrWide f.num.toNat = some true then 2 else 1⟩

/-- The registers an M, ATOM or LT word reads: base and, for a store from registers, t and its pair. -/
def pairT (t : BitVec 5) (size : BitVec 3) : List Nat :=
  if size = 4#3 then [t.toNat, t.toNat + 1] else [t.toNat]

/-- The registers that instruction `i` names when strand `st` issues it. -/
def shapeOf (st : Strand) : Instr → Shape
  | .iadd f | .isub f | .imul f | .imulh f | .imin f | .imax f | .umin f | .umax f | .land f | .lor f | .lxor f
  | .landn f | .shl f | .shr f | .sar f | .rot f | .imulhu f | .fadd f | .fsub f | .fmul f | .fmin f | .fmax f
  | .fsgnj f | .fabd f | .badd2 f | .bmul2 f | .bmax2 f | .hadd2 f | .hmul2 f | .hmax2 f => shapeV f
  | .imac f | .isad f | .idot4 f | .fmac f | .bmac2 f | .hmac2 f => shapeVAcc f
  | .inot f | .ineg f | .iabs f | .popc f | .clz f | .ctz f | .brev f | .fneg f | .fabs f | .ffloor f | .fceil f
  | .ftrunc f | .frint f | .frcp f | .frsq f | .fsqrt f | .fexp2 f | .flog2 f | .ftanh f | .fsin f | .fcos f
  | .mov f => shapeUn f
  | .icmp f | .ucmp f | .fcmp f => { vSrc := [(oneReg f.va, f.ea), (oneReg f.vb, f.eb)] }
  | .fclass f => { vSrc := [(oneReg f.va, f.ea)] }
  | .cvtf f | .cvth f | .bxpack f | .bxunpack f => shapeCvt f
  | .bxdot2 f | .bxdot4 f | .bxdot7 f => shapeBx f
  | .f4dot f =>
    { vDst := [oneReg f.vd], vSrc := [(oneReg f.va, f.ea), (oneReg f.vb, f.eb), (oneReg f.vd, f.ea)] }
  | .shfl f => { shapeLn f with vSrc := [(pairReg f.va, false)] }
  | .vote f | .redux f | .scan f => shapeLn f
  | .iadds f | .fadds f | .fmuls f =>
    { vDst := [mkRun f.vd f.w], vSrc := [(mkRun f.va f.w, f.ea)], sSrc := [f.sb.toNat] }
  | .movs f => { vDst := [mkRun f.vd f.w], sSrc := [f.sb.toNat] }
  | .iaddi f | .andi f | .ori f | .xori f => { vDst := [oneReg f.vd], vSrc := [(oneReg f.va, f.ea)] }
  | .shli f | .shri f | .sari f => { vDst := [oneReg f.vd], vSrc := [(oneReg f.va, f.ea)] }
  | .li f => { vDst := [oneReg f.vd] }
  | .sel f => { vDst := [mkRun f.vd f.w], vSrc := [(mkRun f.va f.w, false), (mkRun f.vb f.w, false)] }
  | .xsend f => { vSrc := [(mkRun f.va f.w, f.ea)] }
  | .xrecv f => { vDst := [mkRun f.vd f.w] }
  | .pop f | .peek f =>
    if st = .comp then { vDst := [mkRun f.reg f.w] } else { aDst := [f.reg.toNat] }
  | .push f =>
    if st = .comp then { vSrc := [(mkRun f.reg f.w, false)] } else { aSrc := [f.reg.toNat] }
  | .qlen f => if st = .comp then { vDst := [oneReg f.reg] } else { aDst := [f.reg.toNat] }
  | .sadd f | .ssub f | .smul f | .sand f | .sor f | .sxor f | .sshl f | .sshr f | .smin f | .smax f =>
    { sDst := [f.sd.toNat], sSrc := [f.sa.toNat, f.sb.toNat] }
  | .saddi f => { sDst := [f.sd.toNat], sSrc := [f.sa.toNat] }
  | .sli f => { sDst := [f.sd.toNat] }
  | .smov f | .sclz f | .spopc f => { sDst := [f.sd.toNat], sSrc := [f.sa.toNat] }
  | .v2s f => { sDst := [f.sd.toNat], vSrc := [(oneReg f.va, false)] }
  | .aadd f | .asub f | .amul f | .aand f | .aor f | .axor f | .ashl f | .ashr f | .asar f | .amin f | .amax f =>
    { aDst := [f.ad.toNat], aSrc := [f.aa.toNat, f.ab.toNat] }
  | .alea f => { aDst := [f.ad.toNat], aSrc := [f.aa.toNat, f.ab.toNat] }
  | .acmp f => { aSrc := [f.aa.toNat, f.ab.toNat] }
  | .amov f => { aDst := [f.ad.toNat], aSrc := [f.aa.toNat] }
  | .a2s f => { sDst := [f.sd.toNat], aSrc := [f.aa.toNat] }
  | .s2a f => { aDst := [f.ad.toNat], sSrc := [f.sb.toNat] }
  | .aaddi f | .alui f | .aandi f | .aori f => { aDst := [f.ad.toNat], aSrc := [f.aa.toNat] }
  | .ali f => { aDst := [f.ad.toNat] }
  | .ashli f | .ashri f => { aDst := [f.ad.toNat], aSrc := [f.aa.toNat] }
  | .acmpi f => { aSrc := [f.aa.toNat] }
  | .ldq f => { aSrc := [f.base.toNat] }
  | .lda f => { aDst := [f.t.toNat], aSrc := [f.base.toNat] }
  | .st f => { aSrc := if f.t = 0#5 then [f.base.toNat] else f.base.toNat :: pairT f.t f.size }
  | .atomAdd f | .atomAnd f | .atomOr f | .atomXor f | .atomXchg f | .atomCas f => { aSrc := [f.base.toNat] }
  | .atomMin f | .atomMax f => { aSrc := [f.base.toNat] }
  | .ldl f => { aDst := pairT f.t f.size, aSrc := [f.base.toNat] }
  | .stl f => { aSrc := f.base.toNat :: pairT f.t f.size }
  | .ldt f | .stt f => { aSrc := [f.base.toNat, f.t.toNat] }
  | .jmps f => { sSrc := [f.sn.toNat] }
  | .cpl f => { aSrc := [f.aa.toNat, f.ab.toNat, f.bar.toNat] }
  | .cpk f => { aSrc := [f.aa.toNat] }
  | .pft f => { aSrc := [f.aa.toNat, f.ab.toNat] }
  | .tload f => { aSrc := [f.aa.toNat, f.ab.toNat] }
  | .mma f | .mdist f | .mtopk f | .mattn f | .spawn f | .vwsync f | .segdet f | .segdrop f | .segseal f
  | .xlfree f | .xlseal f | .evclr f | .tbarvLanes f => { aSrc := [f.aa.toNat] }
  | .macrd f => { vDst := [mkRun f.vd f.w], aSrc := [f.aa.toNat] }
  | .vwstat f => { aDst := [f.ad.toNat] }
  | .segmk f => { aDst := [f.ad.toNat], aSrc := [f.aa.toNat, f.ab.toNat] }
  | .segatt f => { aDst := [f.ad.toNat], aSrc := [f.aa.toNat] }
  | .ctload f => { aSrc := [f.aa.toNat] }
  | .xlmapNew f | .xlfork f => { aDst := [f.ad.toNat], aSrc := [f.aa.toNat] }
  | .xlmapRd f | .xlmapWr f | .xlpfx f =>
    { aDst := [f.ad.toNat], aSrc := [f.aa.toNat, f.ab.toNat, f.hh.toNat] }
  | .xlfreeAccept f | .tbinit f | .tbexp f | .tbexpArv f => { aSrc := [f.aa.toNat, f.ab.toNat] }
  | .evwait f | .evset f => { aSrc := [f.aa.toNat] }
  | .evtest f => { aDst := [f.ad.toNat], aSrc := [f.aa.toNat] }
  | .tbarv f => { aSrc := [f.aa.toNat] }
  | .tbwait f => { aDst := [f.ad.toNat], aSrc := [f.aa.toNat, f.ab.toNat] }
  | .csrr f => if st = .comp then { vDst := [csrRun f] } else { aDst := [f.reg.toNat] }
  | .csrw f => if st = .comp then { vSrc := [(csrRun f, false)] } else { aSrc := [f.reg.toNat] }
  | _ => {}

/-! ### Reasons of R67 -/

/-- Reason `r` where `b` holds. -/
def reasonIf (b : Bool) (r : Nat) : List Nat := if b then [r] else []

/-- The major class of an instruction's word (R76). -/
def majorOf (i : Instr) : Nat :=
  match encode i with
  | none => 32
  | some w => (w.extractLsb' 27 5).toNat

/-- Reason 4: the classes a strand may issue, and the queues it may use in each direction (R75). -/
def strandReasons (st : Strand) (i : Instr) : List Nat :=
  let m := majorOf i
  let byClass := match st with
    | .comp => reasonIf (!(m ≤ 0x14 || m = 0x1C || m = 0x1F)) 4
    | .addr => reasonIf (!(0x12 ≤ m)) 4
  let byOp := match st, i with
    | .comp, .pop f | .comp, .peek f => reasonIf (1#2 < f.queue) 4
    | .comp, .push f => reasonIf (f.queue < 2#2) 4
    | .addr, .pop f | .addr, .peek f => reasonIf (f.queue != 2#2) 4
    | .addr, .push f => reasonIf (f.queue != 1#2) 4
    | .addr, .v2s _ => [4]
    | _, _ => []
  byClass ++ byOp

/-- Reason 2 of an order and scope of a load, store or atomic (R74). -/
def orderReasons (order : BitVec 2) (scope : BitVec 3) (bad : List (BitVec 2)) : List Nat :=
  reasonIf (scope = 7#3) 2 ++ reasonIf (scope = 0#3 && order != 0#2) 2 ++ reasonIf (bad.contains order) 2

/-- Reason 2 of an atomic: it must give a scope (R74). -/
def atomReasons (scope : BitVec 3) : List Nat := reasonIf (scope = 0#3 || scope = 7#3) 2

/-- Reasons 1, 2 and 3 of a conversion selector (R79, R150). -/
def cvtReasons (block toNarrow : Bool) (f : CvtOps) : List Nat :=
  let c := f.fmt.toNat
  reasonIf (if block then !(8 ≤ c && c ≤ 10) else !((1 ≤ c && c ≤ 7) || c = 11)) 1
  ++ reasonIf (block && 8 ≤ c && c ≤ 10 && runLen f.w != 2 ^ (11 - c)) 2
  ++ reasonIf (!toNarrow && f.pol != 0#2) 3
  ++ reasonIf (!toNarrow && f.t && !(c = 11 && !block)) 3

/-- The reasons an instruction's own fields give, in any order (R68, R74, R76 to R83). `width` is the group width. -/
def fieldReasons (st : Strand) (width : Nat) : Instr → List Nat
  | .icmp f | .ucmp f => reasonIf (5#4 < f.cond) 1
  | .fcmp f => reasonIf (7#4 < f.cond) 1
  | .fclass f => reasonIf (13#4 < f.cond) 1
  | .acmp f => reasonIf (9#4 < f.cond) 1
  | .cvtf f => cvtReasons false true f
  | .cvth f => cvtReasons false false f
  | .bxpack f => cvtReasons true true f
  | .bxunpack f => cvtReasons true false f
  | .shfl f => reasonIf (3#3 < f.mode) 1 ++ reasonIf (f.sm.getLsbD 0 || 158#8 < f.sm) 5
  | .vote f => reasonIf (4#3 < f.mode) 1 ++ reasonIf (f.sm.getLsbD 0 || 158#8 < f.sm) 5
  | .redux f | .scan f => reasonIf (f.sm.getLsbD 0 || 158#8 < f.sm) 5
  | .xsend f => reasonIf (31#7 < f.slot) 5
  | .xrecv f => reasonIf (31#7 < f.slot) 5
  | .pop f | .push f | .peek f =>
    if st = .addr then reasonIf (f.w != 0#2) 2 ++ reasonIf (31#7 < f.reg) 5 else []
  | .qlen f => reasonIf (f.w != 0#2) 2 ++ reasonIf (st = .addr && 31#7 < f.reg) 5
  | .v2s f => reasonIf (63#8 < f.lane || width ≤ f.lane.toNat) 5
  | .ldq f => reasonIf (4#3 < f.size) 2 ++ orderReasons f.order f.scope [2#2]
  | .lda f => reasonIf (3#3 < f.size) 2 ++ orderReasons f.order f.scope [2#2]
  | .st f => reasonIf (4#3 < f.size) 2 ++ orderReasons f.order f.scope [1#2]
      ++ reasonIf (f.size = 4#3 && f.t != 0#5 && f.t.getLsbD 0) 6
  | .atomAdd f | .atomAnd f | .atomOr f | .atomXor f | .atomXchg f | .atomCas f => atomReasons f.scope
  | .atomMin f | .atomMax f => atomReasons f.scope
  | .ldl f | .stl f => reasonIf (4#3 < f.size) 2 ++ reasonIf (f.size = 4#3 && f.t.getLsbD 0) 6
  | .ldt f => reasonIf (f.size != 2#3 && f.size != 3#3) 2
  | .stt f => reasonIf (f.size != 2#3) 2
  | .cpl f => reasonIf (f.size = 3#2) 2 ++ reasonIf (f.arv && f.bar = 0#5) 3
  | .cpk f => reasonIf (f.n = 0#6) 5
  | .pft f => reasonIf (f.comp = 3#2) 2 ++ reasonIf (f.comp = 2#2 && f.ab != 0#5) 3
  | .tload f => reasonIf (64 < f.slot.toNat + f.count.toNat + 1) 5
  | .tsclaim f | .tsrel f => reasonIf (64 < f.slot.toNat + f.count.toNat + 1) 5
  | .macrd f => reasonIf (2#5 < f.mode) 1 ++ reasonIf (f.mode = 2#5 && f.w = 0#2) 2
  | .evwait f | .evset f => reasonIf (f.scope = 7#3) 2
  | .evtest f => reasonIf (f.scope = 7#3) 2
  | .tbarv f => reasonIf (f.k = 0#6) 5
  | .cwait f => reasonIf (5#3 < f.cls) 1 ++ reasonIf (f.scope = 0#3 || f.scope = 7#3) 2
  | .fence f => reasonIf (f.scope = 0#3 || f.scope = 7#3) 2 ++ reasonIf (f.order = 0#3 || 4#3 < f.order) 2
  | .csrr f | .csrw f => reasonIf (csrWide f.num.toNat = none) 5 ++ reasonIf (st = .addr && 31#7 < f.reg) 5
  | .rgrow f | .rshrink f => reasonIf (f.k = 0#5 || 16#5 < f.k) 5
  | .lsmode f => reasonIf (23#5 < f.bank) 5
  | _ => []

/-- Reason 6: a run must start at a multiple of its length (R69). -/
def alignReasons (s : Shape) : List Nat :=
  reasonIf ((s.vDst ++ s.vSrc.map (·.1)).any fun r => r.reg % r.len != 0) 6

/-- Whether two runs overlap without being identical (R70). -/
def Run.partly (a b : Run) : Bool :=
  a.reg < b.reg + b.len && b.reg < a.reg + a.len && !(a.reg = b.reg && a.len = b.len)

/-- Reason 7: a destination run and a source run are identical or disjoint (R70). -/
def overlapReasons (s : Shape) : List Nat :=
  reasonIf (s.vDst.any fun d => s.vSrc.any fun x => d.partly x.1) 7

/-- Reasons 5 and 8 of the scalars (R72). -/
def scalarReasons (st : Strand) (s : Shape) : List Nat :=
  reasonIf ((s.sDst ++ s.sSrc).any fun k => 160 ≤ k) 5
  ++ reasonIf (s.sDst.any fun k => match st with | .addr => 80 ≤ k && k < 160 | .comp => k < 80) 8

/-- Every reason the instruction gives on strand `st` of a group of width `width`; empty when it is legal there. -/
def breaches (st : Strand) (width : Nat) (i : Instr) : List Nat :=
  strandReasons st i ++ fieldReasons st width i ++ alignReasons (shapeOf st i) ++ overlapReasons (shapeOf st i)
    ++ scalarReasons st (shapeOf st i)

/-- The reasons of the word's bits that the instruction does not carry: the width field of CMP and the unsigned bit of an
atomic are combinations that R124, R146 and R268 forbid (reason 2), every other one is a field that must be zero
(reason 3). -/
def wordReasons (i : Instr) (w : Word) : List Nat :=
  match encode i with
  | none => []
  | some v =>
    let m := majorOf i
    let skip : Word := if m = 0x0A then 0x01800000#32 else if m = 0x1A then 0x00010000#32 else 0#32
    reasonIf ((v ^^^ w) &&& skip != 0#32) 2 ++ reasonIf ((v ^^^ w) &&& (~~~skip) != 0#32) 3

/-! ### Hint sequences -/

/-- Whether a word is a hint word, and its kind: 24 h.imm to 29 h.pred (R83, R84). -/
def hintKind (w : Word) : Option Nat :=
  if w.extractLsb' 27 5 = 0x1F#5 && 24 ≤ (w.extractLsb' 22 5).toNat && (w.extractLsb' 22 5).toNat ≤ 29 then
    some (w.extractLsb' 22 5).toNat
  else none

/-- The payload of a hint word (R83). -/
def hintPayload (w : Word) : BitVec 22 := w.extractLsb' 0 22

/-- The payload of the first hint of a kind in a sequence. -/
def findHint (hs : List Word) (kind : Nat) : Option (BitVec 22) :=
  match hs with
  | [] => none
  | h :: rest => if hintKind h = some kind then some (hintPayload h) else findHint rest kind

/-- The forms that h.imm may precede (R87). -/
def takesImm : Instr → Bool
  | .iaddi _ | .andi _ | .ori _ | .xori _ | .li _ | .saddi _ | .sli _ | .aaddi _ | .ali _ | .alui _ | .aandi _ | .aori _
  | .acmpi _ | .ldq _ | .lda _ | .st _ | .atomAdd _ | .atomMin _ | .atomMax _ | .atomAnd _ | .atomOr _ | .atomXor _
  | .atomXchg _ | .atomCas _ | .ldl _ | .stl _ | .ldt _ | .stt _ | .br _ | .brt _ | .brf _ | .call _ => true
  | _ => false

/-- The forms that h.imx may precede (R87). -/
def takesImx : Instr → Bool
  | .aaddi _ | .ali _ | .aandi _ | .aori _ | .acmpi _ => true
  | _ => false

/-- The forms that an h.mod rounding field may precede (R90). -/
def takesRounding : Instr → Bool
  | .fneg _ | .fabs _ | .ffloor _ | .fceil _ | .ftrunc _ | .frint _ | .frcp _ | .frsq _ | .fsqrt _ | .fexp2 _ | .flog2 _
  | .ftanh _ | .fsin _ | .fcos _ | .fadd _ | .fsub _ | .fmul _ | .fmac _ | .fabd _ | .badd2 _ | .bmul2 _ | .bmac2 _
  | .hadd2 _ | .hmul2 _ | .hmac2 _ | .fadds _ | .fmuls _ => true
  | .cvtf f | .cvth f | .bxpack f | .bxunpack f => !f.t
  | .redux f | .scan f => f.mode = 7#3
  | _ => false

/-- The forms that an h.mod flush field may precede (R90). -/
def takesFlush (i : Instr) : Bool :=
  match i with
  | .fneg _ | .fabs _ | .ffloor _ | .fceil _ | .ftrunc _ | .frint _ | .frcp _ | .frsq _ | .fsqrt _ | .fexp2 _ | .flog2 _
  | .ftanh _ | .fsin _ | .fcos _ | .fadds _ | .fmuls _ => true
  | .redux f | .scan f => f.mode = 7#3
  | _ => 6 ≤ majorOf i && majorOf i ≤ 0x0C

/-- The forms that an h.mod saturation field may precede (R90, R118). -/
def takesSaturation : Instr → Bool
  | .iadd _ | .isub _ | .imul _ | .imac _ | .iaddi _ | .iadds _ => true
  | _ => false

/-- The reasons of an h.kill payload (R87, R88). -/
def killReasons (st : Strand) (p : BitVec 22) : List Nat :=
  let one (valid : Bool) (reg : BitVec 7) (w : BitVec 2) : List Nat :=
    if valid then
      match st with
      | .comp => reasonIf (reg.toNat % runLen w != 0) 6
      | .addr => reasonIf (31#7 < reg) 5 ++ reasonIf (w != 0#2) 6
    else reasonIf (reg != 0#7 || w != 0#2) 3
  reasonIf (p.extractLsb' 20 2 != 0#2) 3
  ++ reasonIf (!p.getLsbD 9 && !p.getLsbD 19) 9
  ++ one (p.getLsbD 9) (p.extractLsb' 0 7) (p.extractLsb' 7 2)
  ++ one (p.getLsbD 19) (p.extractLsb' 10 7) (p.extractLsb' 17 2)

/-- The reasons one hint of a sequence gives before target `i` (R84, R87, R90). `imx` tells whether the sequence also
holds h.imx (R73); before a target that takes no h.imx only the h.imx itself breaches, and not the upper bits of an h.imm beside it (DESIGN
CHOICE, log entry 54). -/
def hintReasons (st : Strand) (i : Instr) (imx : Bool) (h : Word) : List Nat :=
  let p := hintPayload h
  match hintKind h with
  | some 24 => reasonIf (!takesImm i) 9 ++ reasonIf (imx && takesImx i && p.extractLsb' 18 4 != 0#4) 9
  | some 25 => reasonIf (!takesImx i) 9
  | some 26 => killReasons st p
  | some 27 => reasonIf (p.extractLsb' 3 19 != 0#19) 3
  | some 28 =>
    let r := p.extractLsb' 0 3
    let fl := p.extractLsb' 3 2
    let sa := p.extractLsb' 5 2
    reasonIf (p.extractLsb' 7 15 != 0#15) 3
    ++ reasonIf (r = 1#3 || r = 2#3 || r = 3#3 || fl = 3#2 || sa = 3#2) 9
    ++ reasonIf (r != 0#3 && !takesRounding i) 9
    ++ reasonIf (fl != 0#2 && !takesFlush i) 9
    ++ reasonIf (sa != 0#2 && !takesSaturation i) 9
  | some 29 => reasonIf (p.extractLsb' 4 18 != 0#18) 3 ++ reasonIf (!(majorOf i ≤ 0x1B && majorOf i != 0x0D)) 9
  | _ => []

/-- The reasons of each hint word of a sequence, in order; a repeated kind gives reason 9 at its second word (R84). -/
def sequenceReasons (st : Strand) (i : Instr) (imx : Bool) (seen : List Nat) : List Word → List (Nat × Word)
  | [] => []
  | h :: rest =>
    let k := (hintKind h).getD 0
    (reasonIf (seen.contains k) 9 ++ hintReasons st i imx h).map (·, h)
      ++ sequenceReasons st i imx (k :: seen) rest

/-- The least reason of a list, with the first word that gives it. -/
def leastReason (l : List (Nat × Word)) : Option (Nat × Word) :=
  match l with
  | [] => none
  | x :: xs => match leastReason xs with
    | none => some x
    | some y => if x.1 ≤ y.1 then some x else some y

/-- Why the sequence `hs` followed by the word `w` is illegal on strand `st` of a group of width `width`: the least reason
and the word it was found in (R67, R84); none when it is legal. -/
def illegal (st : Strand) (width : Nat) (hs : List Word) (w : Word) : Option (Nat × Word) :=
  match decodeOp w with
  | none => some (1, w)
  | some i =>
    leastReason (sequenceReasons st i (findHint hs 25).isSome [] hs
      ++ (breaches st width i ++ wordReasons i w).map (·, w))

end Sys2Proof.Machine
end

