-- ==== Sys2Proof/Machine/Ops.lean ====
section
/-! DEFINITION. The named operations over registers, forwarding windows, frontiers and traps that every meaning goes through:
register access (R101, R108, R109), joining and blocking of entries (R24, R27, R37), taking an exception and returning from
one (R162, R164, R169, R172), the end of a context (R166), and the issue of a word (R67, R71, R72, R84, R91, R116). -/

namespace Sys2Proof.Machine

open Sys2Proof

/-! ### Register codes -/

/-- The code of v register `r` of lane `l`. -/
def vCode (r l : Nat) : Nat := r * 64 + l

/-- The code of a register `r` of lane `l`. -/
def aCode (r l : Nat) : Nat := 0x4000 + r * 64 + l

/-- The code of scalar `k`. -/
def sCode (k : Nat) : Nat := 0x6000 + k

/-- The code of predicate `i` of a strand in lane `l`. -/
def pCode (st : Strand) (i l : Nat) : Nat :=
  (match st with
    | .comp => 0x7000
    | .addr => 0x7400) + i * 64 + l

/-- What an instruction that names a register reads: its architectural value; of a register killed or stored through the
aperture in front of a window result, that value or its bank bytes (R88, R109). `free` is the count of the issue. -/
def Group.read (g : Group) (free code : Nat) : DWord :=
  if SMap.get false g.loose code && Config.freeBit free code then SMap.get 0#64 g.bank code
  else SMap.get 0#64 g.regs code

/-- The aperture stores not yet seen but those to register `code`, which is written after them: a stored value stands until the next
write to the register (R109). -/
def Group.unseenBut (g : Group) (code : Nat) : List Unseen := g.stores.filter fun r => r.code != code

/-- An instruction's write of a register (R72: writes to a0 are discarded). -/
def Group.write (g : Group) (code : Nat) (x : DWord) : Group :=
  if 0x4000 ≤ code && code < 0x4040 then g
  else { g with regs := SMap.put 0#64 g.regs code x, loose := SMap.put false g.loose code false, stores := g.unseenBut code }

/-- Write registers in turn. -/
def Group.writeAll (g : Group) (ws : List (Nat × DWord)) : Group := ws.foldl (fun g w => g.write w.1 w.2) g

/-- A late producer's write: the banks and the architectural value at once, and the register full (R108, R110). -/
def Group.deliver (g : Group) (code : Nat) (x : DWord) : Group :=
  let g := { g with empty := SMap.put false g.empty code false }
  if 0x4000 ≤ code && code < 0x4040 then g
  else { g with regs := SMap.put 0#64 g.regs code x, bank := SMap.put 0#64 g.bank code x,
                loose := SMap.put false g.loose code false, stores := g.unseenBut code }

/-- Whether a register is full. -/
def Group.isFull (g : Group) (code : Nat) : Bool := !SMap.get false g.empty code

/-- The forwarding window of a strand (R108). -/
def Group.window (g : Group) : Strand → List (List Nat)
  | .comp => g.winC
  | .addr => g.winA

/-- A group with another forwarding window of a strand. -/
def Group.setWindow (g : Group) (st : Strand) (w : List (List Nat)) : Group :=
  match st with
  | .comp => { g with winC := w }
  | .addr => { g with winA := w }

/-- Write results back to their banks (R108). -/
def Group.writeBack (g : Group) (codes : List Nat) : Group :=
  codes.foldl (fun g c =>
    { g with bank := SMap.put 0#64 g.bank c (SMap.get 0#64 g.regs c), loose := SMap.put false g.loose c false,
             stores := g.unseenBut c }) g

/-- The instructions that a strand has issued (R108). -/
def Group.sent (g : Group) : Strand → Nat
  | .comp => g.sentC
  | .addr => g.sentA

/-- One more instruction of a strand has issued. -/
def Group.countSent (g : Group) (st : Strand) : Group :=
  match st with
  | .comp => { g with sentC := g.sentC + 1 }
  | .addr => { g with sentA := g.sentA + 1 }

/-- A strand issues an instruction, which has the results `codes` so far: they enter the window, and the result of the eighth earlier
instruction leaves it, written back where no later instruction in the window has written the register (R108). -/
def Group.pushWindow (g : Group) (st : Strand) (codes : List Nat) : Group :=
  let w := codes :: g.window st
  let keep := w.take 8
  let gone := (w.drop 8).flatMap fun e => e.filter fun c => !keep.any fun k => k.contains c
  ((g.writeBack gone).setWindow st keep).countSent st

/-- An instruction that issued as the `n`-th of its strand completes with the results `codes`: they enter the window at its place or,
where that has left the window, go to the banks but for registers that a later instruction in the window has written (R108). -/
def Group.enterWindow (g : Group) (st : Strand) (n : Nat) (codes : List Nat) : Group :=
  let w := g.window st
  let d := g.sent st - n
  if d < w.length then g.setWindow st (listModify w d (· ++ codes))
  else g.writeBack (codes.filter fun c => !w.any fun k => k.contains c)

/-- Empty a strand's window into the banks (R108). -/
def Group.flushWindow (g : Group) (st : Strand) : Group :=
  (g.writeBack ((g.window st).flatMap id)).setWindow st []

/-- Mark registers dead: a result still in the window is not written to the banks, and a later read returns either value
(R88). -/
def Group.kill (g : Group) (st : Strand) (codes : List Nat) : Group :=
  let held := codes.filter fun c => (g.window st).any fun e => e.contains c
  let g := g.setWindow st ((g.window st).map fun e => e.filter fun c => !codes.contains c)
  { g with loose := held.foldl (fun m c => SMap.put false m c true) g.loose }

/-- The architectural value of a register (R101). -/
def Group.arch (g : Group) (code : Nat) : DWord := SMap.get 0#64 g.regs code

/-! ### Threads -/

/-- A thread of a group. -/
def Group.thread (g : Group) (l : Nat) : Thread := g.threads.getD l {}

/-- Change a thread. -/
def Group.setThread (g : Group) (l : Nat) (f : Thread → Thread) : Group :=
  { g with threads := listModify g.threads l f }

/-- The trap registers and the rest of one strand of a thread. -/
def Thread.strand (t : Thread) : Strand → StrandRegs
  | .comp => t.comp
  | .addr => t.addr

/-- Change one strand of a thread. -/
def Thread.setStrand (t : Thread) (st : Strand) (f : StrandRegs → StrandRegs) : Thread :=
  match st with
  | .comp => { t with comp := f t.comp }
  | .addr => { t with addr := f t.addr }

/-- Change one strand of a lane. -/
def Group.setStrand (g : Group) (st : Strand) (l : Nat) (f : StrandRegs → StrandRegs) : Group :=
  g.setThread l fun t => t.setStrand st f

/-! ### Frontiers -/

/-- The frontier of a strand. -/
def Group.frontier (g : Group) : Strand → Frontier
  | .comp => g.frC
  | .addr => g.frA

/-- Change the frontier of a strand. -/
def Group.setFrontier (g : Group) (st : Strand) (f : Frontier → Frontier) : Group :=
  match st with
  | .comp => { g with frC := f g.frC }
  | .addr => { g with frA := f g.frA }

/-- Every entry of a frontier, the spilled ones last. -/
def Frontier.entries (f : Frontier) : List Entry := f.hw ++ f.spill

/-- Add an entry: to the hardware frontier while it holds fewer than eight, else at the tail of the spill list (R27). -/
def Frontier.add (f : Frontier) (e : Entry) : Frontier :=
  if f.hw.length < 8 then { f with hw := f.hw ++ [e] } else { f with spill := f.spill ++ [e] }

/-- Heads of the spill list return while the hardware frontier holds fewer than eight entries (R27). -/
def Frontier.refill (f : Frontier) : Frontier :=
  { f with hw := f.hw ++ f.spill.take (8 - f.hw.length), spill := f.spill.drop (8 - f.hw.length) }

/-- Change every entry. -/
def Frontier.map (f : Frontier) (h : Entry → Entry) : Frontier := { f with hw := f.hw.map h, spill := f.spill.map h }

/-- Keep the entries that meet a test. -/
def Frontier.keep (f : Frontier) (p : Entry → Bool) : Frontier :=
  { f with hw := f.hw.filter p, spill := f.spill.filter p }

/-- The PC of the first word of an entry's sequence: hints it has issued come before its PC (R85, R86). -/
def Entry.seqPc (e : Entry) : VAddr := e.pc - BitVec.ofNat 56 (4 * e.hints.length)

/-- Whether threads may join an entry at `pc`: it is open and holds no hints (R24, R86). -/
def Entry.joinable (e : Entry) (pc : VAddr) : Bool := e.block == .ready && e.hints.isEmpty && e.pc == pc

/-- Lanes join the open entry at `pc`, or form a new one that carries `hints` (R24, R86). -/
def Group.join (g : Group) (st : Strand) (pc : VAddr) (hints : List Word) (lanes : List Nat) : Group :=
  if lanes.isEmpty then g
  else
    let f := g.frontier st
    match (if hints.isEmpty then f.entries.find? (·.joinable pc) else none) with
    | some e =>
      g.setFrontier st fun f => f.map fun x => if x.id = e.id then { x with members := unionLanes x.members lanes } else x
    | none =>
      { g.setFrontier st fun f => f.add { id := g.nextId, pc := pc, hints := hints, members := lanes }
        with nextId := g.nextId + 1 }

/-- Take lanes out of every entry of a strand (R24). -/
def Group.takeLanes (g : Group) (st : Strand) (lanes : List Nat) : Group :=
  g.setFrontier st fun f =>
    ((f.map fun e => { e with members := diffLanes e.members lanes }).keep fun e => !e.members.isEmpty).refill

/-- The entry of a strand with an id. -/
def Group.entry? (g : Group) (st : Strand) (id : Nat) : Option Entry := (g.frontier st).entries.find? fun e => e.id = id

/-- The entry of a strand that holds a lane. -/
def Group.entryOf (g : Group) (st : Strand) (l : Nat) : Option Entry :=
  (g.frontier st).entries.find? fun e => e.members.contains l

/-- An entry leaves the frontier. -/
def Group.dropEntry (g : Group) (st : Strand) (id : Nat) : Group :=
  g.setFrontier st fun f => (f.keep fun e => e.id != id).refill

/-- A closed entry opens at `pc`, with `hints` issued, and merges with an open entry there, whose wait age the merged entry keeps
(R24; DESIGN CHOICE, log entry 51). -/
def Group.reopen (g : Group) (st : Strand) (e : Entry) (pc : VAddr) (hints : List Word) : Group :=
  let merged := if hints.isEmpty then
    (g.frontier st).entries.find? fun x => x.id != e.id && x.joinable pc else none
  match merged with
  | some x =>
    (g.dropEntry st e.id).setFrontier st fun f => f.map fun y =>
      if y.id = x.id then { y with members := unionLanes y.members e.members } else y
  | none =>
    g.setFrontier st fun f => f.map fun y =>
      if y.id = e.id then { y with pc := pc, hints := hints, block := .ready } else y

/-- A blocked instruction is undone: its entry opens at the instruction again (R24, R175). -/
def Group.undo (g : Group) (st : Strand) (e : Entry) : Group := g.reopen st e e.pc e.hints

/-- A blocked instruction completes: its entry opens at the next word (R24). -/
def Group.release (g : Group) (st : Strand) (e : Entry) : Group := g.reopen st e (e.pc + 4#56) []

/-- Change the block of an entry. -/
def Group.setBlock (g : Group) (st : Strand) (id : Nat) (b : Block) : Group :=
  g.setFrontier st fun f => f.map fun x => if x.id = id then { x with block := b } else x

/-! ### The end of a context -/

/-- The causes that end a context (R161). -/
def fatalCode (c : Nat) : Bool := [0x046, 0x047, 0x1C2, 0x1C3, 0x1C4].contains c

/-- Where a fatal cause arose, for its error record (R166, R337). -/
structure FatalSite where
  core   : Nat := 0xFFFF
  gid    : Nat := 0xFFFFFFFF
  lane   : Nat := 0
  strand : Nat := 0
  tpc    : Nat := 0
  noVec  : Bool := false
  deriving DecidableEq, Repr

/-- Whether a team lies on a core pair (R18). -/
def pairOf (s : State) (g : Group) : Bool :=
  match s.team? g.team with
  | some t => t.pair
  | none => false

/-- The level at which an access of a group is performed. -/
def Group.levelOf (g : Group) (pair : Bool) (a : Access) : Nat := a.level pair (g.thread a.lane).wide

/-- Perform what is left of an access in flight, without its delivery (R179). -/
def settleAccess (s : State) (g : Group) (a : Access) : State :=
  if a.performed then s
  else a.left.foldl (fun s k => (performData s g.core (g.levelOf (pairOf s g) a) (pairOf s g) (a.piece k)).1) s

/-- The value of a prefetch's token word: 1 pending, 2 complete, 3 cancelled, with the partial bit (R301). -/
def tokenBytes (state : Nat) (part : Bool) : List Byte := bytesOfNat (state + (if part then 256 else 0)) 8

/-- Write a prefetch's token word, in a bank or in memory, where it can be reached (R182, R301). -/
def writeToken (s : State) (g : Group) (va state : Nat) (part : Bool) : State :=
  if windowBase ≤ va then
    match placeOf s g.core g.team va with
    | .bank core addr _ => if bankMode (s.core core) (addr / 65536) = 1 then lsWrite s core addr (tokenBytes state part) else s
    | _ => s
  else match reachVirtual s g.ctx va 5 with
    | .ok pa => writeLine s (some g.ctx) pa (tokenBytes state part)
    | _ => s

/-- Cancel the prefetches of a group that name token words (R182). -/
def cancelTokens (s : State) (g : Group) : State :=
  g.ops.foldl (fun s o => match o.kind with
    | .pft _ _ 0 ab part => if o.ended then s else writeToken s g ab 3 part
    | _ => s) s

/-- The keys of the groups of a context. -/
def groupsOf (s : State) (c : Nat) : List (Nat × Group) := s.groups.filter fun p => p.2.ctx = c

/-- Remove the groups, teams, trees, spawns and waiters of a context. -/
def removeGroups (s : State) (c : Nat) : State :=
  let teams := (groupsOf s c).map (·.2.team)
  { s with
    groups := s.groups.filter fun p => p.2.ctx != c,
    teams := s.teams.filter fun p => !teams.contains p.1,
    trees := s.trees.filter fun p => p.2.ctx != c,
    spawnQ := (s.spawnQ.map fun p => (p.1, p.2.filter fun e => e.ctx != c)).filter fun p => !p.2.isEmpty,
    events := s.events.map fun e => if e.ctx = c then { e with waiters := [] } else e,
    ctxs := SMap.modify s.ctxs c fun x => { x with overflow := [] } }

/-- The work in flight of a context is finished as far as it has been translated: its accesses are performed, its prefetches
cancelled (R166, R179, R182). -/
def settleFlights (s : State) (c : Nat) : State :=
  let gs := groupsOf s c
  let s := gs.foldl (fun s p => p.2.accs.foldl (fun s a => settleAccess s p.2 a) s) s
  gs.foldl (fun s p => cancelTokens s p.2) s

/-- The work in flight of a context is finished, and its L1 written back (R166). -/
def settleContext (s : State) (c : Nat) : State :=
  let s := settleFlights s c
  s.cores.foldl (fun s p => if p.2.ctx = some c then l1Invalidate s p.1 else s) s

/-- A fatal cause ends a context: its groups stop, one error record is written, its queues latch the cause and halt
(R166, R335). The context holds its number until it is destroyed (R383). (DEDUCED, log entry 21.) -/
def contextFatal (s0 : State) (c : Nat) (cause : Cause) (site : FatalSite) : State :=
  let s := settleContext s0 c
  let s := ringEmit s c 3 (mkRec 0x30 0 site.core
    [cause.code % 512 + (if site.noVec then 2 ^ 32 else 0), site.gid, site.lane, site.strand, site.tpc, cause.val,
      cause.info])
  let s := (queuesOf s c).foldl (fun s q => latchError s q ⟨cause.code, cause.val, cause.info, (s.queue q).ridx⟩) s
  ((removeGroups s c).endCommand c).setCtx c fun x => { x with status := .ended }

/-! ### Traps -/

/-- The number of a strand in records (R424). -/
def strandNum : Strand → Nat
  | .comp => 0
  | .addr => 1

/-- One thread takes a handled cause (R162, R164, R169): the trap registers are written, the handler mark set, the block
priority saved and raised to 15, and the thread joins the entry at its handler. An error is the fatal cause it turns into and
whether the thread has no vector. The lane must stand in no entry of the strand. -/
def Group.trap (g : Group) (st : Strand) (l : Nat) (c : Cause) (tpc : VAddr) : Except (Cause × Bool) Group :=
  let r := (g.thread l).strand st
  if r.th then .error (⟨0x1C2, c.code, c.val⟩, false)
  else if r.tvec = 0#64 then .error (c, true)
  else
    let r' : StrandRegs :=
      { r with tcause := BitVec.ofNat 32 (c.code % 512), tpc := tpc.zeroExtend 64, tval := BitVec.ofNat 64 c.val,
               tinfo := BitVec.ofNat 64 c.info, th := true, sprio := r.bprio, bprio := 15#4 }
    .ok ((g.setStrand st l fun _ => r').join st (r.tvec.truncate 56) [] [l])

/-- Threads of a group take causes, in the order given (R162). A fatal cause ends the context (R166). The lanes must stand in no
entry of the strand. -/
def trapLanes (s : State) (gk : Nat) (st : Strand) (tpc : VAddr) : List (Nat × Cause) → State
  | [] => s
  | (l, c) :: rest =>
    match s.group? gk with
    | none => s
    | some g =>
      let site : FatalSite := { core := g.core, gid := g.gid, lane := l, strand := strandNum st, tpc := tpc.toNat }
      if fatalCode c.code then contextFatal s g.ctx c site
      else match g.trap st l c tpc with
        | .error (e, noVec) => contextFatal s g.ctx e { site with noVec := noVec }
        | .ok g' => trapLanes (s.setGroup gk fun _ => g') gk st tpc rest

/-- Registers become empty (R110). -/
def Group.setEmpty (g : Group) (codes : List Nat) : Group :=
  { g with empty := codes.foldl (fun e c => SMap.put false e c true) g.empty }

/-- Registers that an undone producer held empty are full again, unchanged (R111, R158). -/
def Group.setFull (g : Group) (codes : List Nat) : Group :=
  { g with empty := codes.foldl (fun e c => SMap.put false e c false) g.empty }

/-- The registers of some lanes that entries of a strand hold empty while they wait for answers (R111). -/
def Group.heldEmpty (g : Group) (st : Strand) (lanes : List Nat) : List Nat :=
  (g.frontier st).entries.flatMap fun e => match e.block with
    | .faults _ (some codes) => codes.filter fun c => lanes.contains (c % 64)
    | _ => []

/-- A cause raised into threads that wait or have gone on: they leave their entries, where an instruction blocked is undone, and take it,
with tpc the instruction named (R23, R41, R164). -/
def trapAsync (s : State) (gk : Nat) (st : Strand) (tpc : VAddr) (causes : List (Nat × Cause)) : State :=
  let lanes := causes.map (·.1)
  trapLanes (s.setGroup gk fun g => (g.setFull (g.heldEmpty st lanes)).takeLanes st lanes) gk st tpc causes

/-- The return of one thread from its handler: the handler mark falls, the block priority comes back (R172). -/
def StrandRegs.return (r : StrandRegs) : StrandRegs := { r with th := false, bprio := r.sprio }

/-- Where tret sends a thread: tpc with bits [1:0] taken as zero (R172). -/
def StrandRegs.returnPc (r : StrandRegs) : VAddr := (r.tpc.truncate 56) &&& ~~~(3#56)

/-! ### What becomes of the members of an issue -/

/-- Where a member goes when its instruction has been issued. -/
inductive Fate where
  /-- It goes on at `pc`. -/
  | goto (pc : VAddr)
  /-- It stays at the instruction, which issues again for it as a new entry (R264). -/
  | stay
  /-- It is blocked in the instruction (R37). -/
  | block (b : Block)
  /-- It takes a cause (R162). -/
  | trap (c : Cause)
  /-- Its strand has ended (R21). -/
  | ended
  deriving DecidableEq, Repr

/-- The lanes of the fates that meet a test. -/
def lanesWith (fs : List (Nat × Fate)) (p : Fate → Bool) : List Nat := (fs.filter fun f => p f.2).map (·.1)

/-- Whether an entry with this block has issued the instruction that it is blocked in: one that waits for its operands, for a queue or
for the answer to a fault issues it later (R24, R25, R37). -/
def Block.issued : Block → Bool
  | .ready | .regs _ | .pop .. | .push .. | .faults .. => false
  | _ => true

/-- The place, among its strand's instructions, of the one that an entry issues or is blocked in (R108). -/
def Group.placeOf (g : Group) (st : Strand) (e : Entry) : Nat := if e.block.issued then e.at_ else g.sent st

/-- The blocked members form the closed entry, with the entry's id and age (R24). -/
def Group.closeEntry (g : Group) (st : Strand) (e : Entry) (fs : List (Nat × Fate)) : Group :=
  match fs.findSome? fun f => match f.2 with
    | .block b => some b
    | _ => none with
  | none => g
  | some b =>
    g.setFrontier st fun f => f.add
      { e with block := b, at_ := g.placeOf st e, members := lanesWith fs fun x => match x with
          | .block _ => true
          | _ => false }

/-- The members that go on join the entries of their PCs, in rising order of lanes (R24). -/
def Group.joinAll (g : Group) (st : Strand) : List (Nat × Fate) → Group
  | [] => g
  | (l, .goto pc) :: rest => (g.join st pc [] [l]).joinAll st rest
  | _ :: rest => g.joinAll st rest

/-- The issue ends: each member of the issuing entry meets its fate (R24, R162). A handler's tpc is the first word of the
sequence (R85). -/
def finish (s : State) (iss : Issue) (fs : List (Nat × Fate)) : State :=
  let s := { s with cur := none }
  let s := s.setGroup iss.group fun g =>
    let g := g.closeEntry iss.strand iss.entry fs
    let g := g.joinAll iss.strand fs
    let g := g.join iss.strand iss.entry.pc iss.entry.hints (lanesWith fs (· == .stay))
    g.setFrontier iss.strand Frontier.refill
  trapLanes s iss.group iss.strand iss.entry.seqPc (fs.filterMap fun f => match f.2 with
    | .trap c => some (f.1, c)
    | _ => none)

/-! ### The issue of a word -/

/-- What a meaning acts on: the machine, the issue, the issuing group, and the members that act (R91). -/
structure Act where
  s     : State
  iss   : Issue
  g     : Group
  lanes : List Nat
  deriving DecidableEq, Repr

/-- Whether the sequence that issues has the stream hint (R89). -/
def State.streams (s : State) : Bool :=
  match s.cur.bind fun iss => findHint iss.entry.hints 27 with
  | some p => p.getLsbD 1
  | none => false

/-- The strand that issues. -/
abbrev Act.st (a : Act) : Strand := a.iss.strand

/-- The key of the issuing group. -/
abbrev Act.gk (a : Act) : Nat := a.iss.group

/-- The address of the word. -/
abbrev Act.pc (a : Act) : VAddr := a.iss.entry.pc

/-- The v register `r` of lane `l`. -/
def Act.v (a : Act) (r l : Nat) : Word := (a.g.read a.s.free (vCode r l)).truncate 32

/-- The a register `r` of lane `l`; a0 reads zero (R72). -/
def Act.a (a : Act) (r l : Nat) : DWord := if r = 0 then 0#64 else a.g.read a.s.free (aCode r l)

/-- Scalar `k`. -/
def Act.sc (a : Act) (k : Nat) : Word := (a.g.read a.s.free (sCode k)).truncate 32

/-- Predicate `i` of the issuing strand in lane `l`. -/
def Act.p (a : Act) (i l : Nat) : Bool := (a.g.read a.s.free (pCode a.st i l)).getLsbD 0

/-- The lowest-numbered member, from which an instruction that executes once takes its operands (R277, R285). -/
def Act.lead (a : Act) : Nat := a.lanes.headD 0

/-- The members of an issue, threads of the group in rising order (R18). -/
def Issue.lanes (iss : Issue) (g : Group) : List Nat :=
  (upTo (min 64 g.threads.length)).filter fun l => iss.entry.members.contains l

/-- The members that h.pred leaves (R91). -/
def selected (g : Group) (free : Nat) (iss : Issue) : List Nat :=
  match findHint iss.entry.hints 29 with
  | none => iss.lanes g
  | some p => (iss.lanes g).filter fun l =>
      (g.read free (pCode iss.strand (p.extractLsb' 0 3).toNat l)).getLsbD 0 != p.getLsbD 3

/-- The codes of an h.kill hint for the members that act (R87, R88). -/
def killCodes (st : Strand) (hs : List Word) (lanes : List Nat) : List Nat :=
  match findHint hs 26 with
  | none => []
  | some p =>
    let one : Bool → Nat → Nat → List Nat := fun valid r w =>
      if valid then (upTo (2 ^ w)).flatMap fun k => lanes.map fun l =>
        match st with
        | .comp => vCode (r + k) l
        | .addr => aCode (r + k) l
      else []
    one (p.getLsbD 9) (p.extractLsb' 0 7).toNat (p.extractLsb' 7 2).toNat
      ++ one (p.getLsbD 19) (p.extractLsb' 10 7).toNat (p.extractLsb' 17 2).toNat

/-- The least register named above the group's allocation: v registers first, then scalars (R72, R116). (DEDUCED, log entry 8.) -/
def notAllocated (g : Group) (sh : Shape) : Option Nat :=
  let vs := (sh.vDst ++ sh.vSrc.map (·.1)).flatMap Run.regs
  match leastOf (vs.filter fun r => g.vAlloc ≤ r) with
  | some r => some r
  | none => leastOf ((sh.sDst ++ sh.sSrc).filter fun k => if k < 80 then g.sAlloc ≤ k else 80 + g.sAlloc ≤ k)

/-- A v source that must be full: register, lane, and whether an empty one raises EMPTY_READ (R71). -/
structure VSource where
  reg   : Nat
  lane  : Nat
  raise : Bool
  deriving DecidableEq, Repr

/-- The lanes of the subblocks that hold the lanes `ls`, for `k` containers a register (R52). -/
def subblockLanes (k : Nat) (ls : List Nat) : List Nat :=
  (upTo 64).filter fun l => ls.any fun m => l / (16 / k) = m / (16 / k)

/-- The leader lanes of those subblocks (R52). -/
def leaderLanes (k : Nat) (ls : List Nat) : List Nat := (subblockLanes k ls).filter fun l => l % (16 / k) = 0

/-- A run in lanes as sources. -/
def runSources (lanes : List Nat) (r : Run × Bool) : List VSource :=
  r.1.regs.flatMap fun k => lanes.map fun l => ⟨k, l, r.2⟩

/-- The v sources of an instruction: its source runs in the members, but the named lane for v2s (R127), every lane of a
subblock for bxpack (R150), and the leader lanes' scale registers for bxunpack and the block dot products (R151, R152). A lane
instruction waits for its sources at completion only (R154). -/
def vSources (i : Instr) (sh : Shape) (lanes : List Nat) : List VSource :=
  let plain := sh.vSrc.flatMap (runSources lanes)
  let leaders := fun (k : Nat) (r : BitVec 7) (raise : Bool) =>
    (leaderLanes k lanes).map fun l => VSource.mk (r.toNat + 1) l raise
  let bx := fun (k : Nat) (f : BxOps) => plain ++ leaders k f.va f.ea ++ leaders k f.vb f.eb
  match i with
  | .v2s f => [⟨f.va.toNat, f.lane.toNat, false⟩]
  | .shfl _ | .vote _ | .redux _ | .scan _ => []
  | .bxpack f => sh.vSrc.flatMap (runSources (subblockLanes (2 ^ f.w.toNat) lanes))
  | .bxunpack f => plain ++ leaders (2 ^ f.w.toNat) f.va f.ea
  | .bxdot2 f => bx 8 f
  | .bxdot4 f => bx 4 f
  | .bxdot7 f => bx 2 f
  | _ => plain

/-- The lowest empty source register under the raising policy (R71). -/
def emptyRead (g : Group) (src : List VSource) : Option Nat :=
  leastOf ((src.filter fun x => x.raise && !g.isFull (vCode x.reg x.lane)).map (·.reg))

/-- Whether an instruction is of the LANE class, which waits for its registers at completion (R154). -/
def isLane : Instr → Bool
  | .shfl _ | .vote _ | .redux _ | .scan _ => true
  | _ => false

/-- The empty registers that the instruction waits for: sources that block and destinations, in every member, a2s's source too (R71,
R128; DESIGN CHOICE, log entry 51). -/
def emptyCodes (g : Group) (i : Instr) (sh : Shape) (src : List VSource) (lanes : List Nat) : List Nat :=
  (src.map (fun x => vCode x.reg x.lane)
    ++ (if isLane i then [] else sh.vDst).flatMap (fun r => r.regs.flatMap fun k => lanes.map (vCode k))
    ++ (sh.aDst ++ sh.aSrc).flatMap fun r => lanes.map (aCode r)).filter fun c => !g.isFull c

/-- The members of an entry for which its instruction acts (R91). (DEDUCED, log entry 7.) -/
def Entry.acting (g : Group) (st : Strand) (e : Entry) : List Nat :=
  match findHint e.hints 29 with
  | none => e.members
  | some p => e.members.filter fun l => (g.arch (pCode st (p.extractLsb' 0 3).toNat l)).getLsbD 0 != p.getLsbD 3

/-- The results of an entry's instruction enter its strand's window: at the place of an instruction that has waited, else as the newest
(R108). -/
def Group.intoWindow (g : Group) (st : Strand) (e : Entry) (codes : List Nat) : Group :=
  if e.block.issued then g.enterWindow st e.at_ codes else g.pushWindow st codes

/-- A blocked instruction completes with register results: the kills of its hints, its results, and its entry goes on at the
next word (R24, R88, R108). -/
def Group.completeEntry (g : Group) (st : Strand) (e : Entry) (ws : List (Nat × DWord)) : Group :=
  (((g.kill st (killCodes st e.hints (e.acting g st))).writeAll ws).intoWindow st e (ws.map (·.1))).release st e

/-- Where an acting member stays at the instruction or blocks in it. -/
def Fate.held : Fate → Bool
  | .stay | .block _ => true
  | _ => false

/-- The fates of an issue whose acting members go to `f`. Its other members go on at the next word, but while an acting member
stays at the instruction they stay with it, for an entry blocks as a whole (R24, R37, R91, R162). -/
def fates (iss : Issue) (all acting : List Nat) (f : Nat → Fate) : List (Nat × Fate) :=
  let rest := ((acting.map f).find? Fate.held).getD (.goto (iss.entry.pc + 4#56))
  all.map fun l => (l, if acting.contains l then f l else rest)

/-- Every acting member goes on at the next word. -/
def Act.advance (a : Act) (s : State) : State := finish s a.iss (fates a.iss (a.iss.lanes a.g) a.lanes fun _ => .goto (a.pc + 4#56))

/-- Every acting member meets the same fate. -/
def Act.settle (a : Act) (s : State) (f : Nat → Fate) : State := finish s a.iss (fates a.iss (a.iss.lanes a.g) a.lanes f)

/-- Every acting member takes a cause, and nothing else happens (R162). -/
def Act.raise (a : Act) (c : Cause) : State := a.settle a.s fun _ => .trap c

/-- The machine after the issue of an instruction that does not complete with it: the strand's window has room for its results
(R108). -/
def Act.aged (a : Act) (s : State) : State :=
  if a.iss.entry.block.issued then s else s.setGroup a.gk fun g => g.pushWindow a.st []

/-- The entry blocks in the instruction, or before it where the block says so (R25, R37). -/
def Act.wait (a : Act) (s : State) (b : Block) : State := a.settle (if b.issued then a.aged s else s) fun _ => .block b

/-- The kills of the hints of an issue (R88). -/
def Act.kills (a : Act) (s : State) : State := s.setGroup a.gk fun g => g.kill a.st (killCodes a.st a.iss.entry.hints a.lanes)

/-- The registers an instruction writes: the kills of its hints, then the results, which enter the strand's window
(R88, R108). -/
def Act.retire (a : Act) (s : State) (ws : List (Nat × DWord)) : State :=
  s.setGroup a.gk fun g =>
    ((g.kill a.st (killCodes a.st a.iss.entry.hints a.lanes)).writeAll ws).intoWindow a.st a.iss.entry (ws.map (·.1))

/-- A register instruction completes: its results are written and every member goes on. -/
def Act.complete (a : Act) (ws : List (Nat × DWord)) : State := a.advance (a.retire a.s ws)

/-- Why the instruction that an issue executes is illegal: the least reason and the word that gives it (R67, R84). -/
def illegalInstr (g : Group) (iss : Issue) (i : Instr) : Option (Nat × Word) :=
  let hs := iss.entry.hints
  leastReason (sequenceReasons iss.strand i (findHint hs 25).isSome [] hs
    ++ (breaches iss.strand g.width i ++ wordReasons i iss.word).map (·, iss.word))

/-- Any issue resets the deadlock counts of the entry's threads and the time for which the group has not issued (R23, R35). -/
def resetDeadlock (s : State) (iss : Issue) : State :=
  s.setGroup iss.group fun g => iss.entry.members.foldl (fun g l => g.setThread l fun t => { t with deadlock := 0 })
    { g with idle := 0, idleDue := false }

/-- The issue of a word that holds instruction `i`: an illegal sequence traps every member (R67); with no member selected it has
no effect (R91); a register above the allocation traps (R72); an empty source raises or blocks (R71); else `body` acts. -/
def issueWord (i : Instr) (s0 : State) (iss : Issue) (g0 : Group) (body : Act → State) : State :=
  let s := resetDeadlock { s0 with free := s0.free + 1 } iss
  let g := (s.group? iss.group).getD g0
  match illegalInstr g iss i with
  | some (r, w) => finish s iss ((iss.lanes g).map fun l => (l, .trap ⟨0x000, w.toNat, r⟩))
  | none =>
    let lanes := selected g s.free iss
    let a : Act := ⟨s, iss, g, lanes⟩
    let sh := shapeOf iss.strand i
    if lanes.isEmpty then a.complete []
    else match notAllocated g sh with
      | some r => a.raise ⟨0x040, iss.word.toNat, r⟩
      | none =>
        let src := vSources i sh lanes
        match emptyRead g src with
        | some r => a.raise ⟨0x020, iss.word.toNat, r⟩
        | none =>
          let cs := emptyCodes g i sh src lanes
          if cs.isEmpty then body a else a.wait s (.regs cs)

/-- Execute the word of the current issue as instruction `i` with effect `body`. -/
def runWord (i : Instr) (s : State) (body : Act → State) : Host.Outcome State Fault Refusal :=
  match s.cur with
  | none => .fault .noIssue
  | some iss =>
    match s.group? iss.group with
    | none => .next { s with cur := none }
    | some g => .next (issueWord i s iss g body)

end Sys2Proof.Machine
end

