-- ==== Sys2Proof/Machine/Operands.lean ====
section
/-! DEFINITION. Operand forms: immediates with their hints (R73), the results of vector forms over runs (R69, R116), scalar and
address results, and comparison conditions (R78). -/

namespace Sys2Proof.Machine

open Sys2Proof

/-- The value of an immediate field, with the upper bits of an h.imm hint (R73). -/
def immInt {n : Nat} (hs : List Word) (field : BitVec n) : Int :=
  match findHint hs 24 with
  | none => field.toInt
  | some h => (h ++ field).toInt

/-- A 32-bit immediate. -/
def imm32 {n : Nat} (hs : List Word) (field : BitVec n) : Word := BitVec.ofInt 32 (immInt hs field)

/-- A 64-bit immediate of an AI form, which h.imx may extend (R73). -/
def imm64 (hs : List Word) (field : BitVec 14) : DWord :=
  match findHint hs 25 with
  | none => BitVec.ofInt 64 (immInt hs field)
  | some x => (x ++ ((findHint hs 24).getD 0#22 ++ field).extractLsb' 0 32).signExtend 64

/-- A value in each register of a v run and each member lane (R116). -/
def Act.runOf (a : Act) (vd : BitVec 7) (w : BitVec 2) (f : Nat → Nat → Word) : List (Nat × DWord) :=
  (upTo (runLen w)).flatMap fun k => a.lanes.map fun l => (vCode (vd.toNat + k) l, (f k l).zeroExtend 64)

/-- The results of a two-source vector form (R117). -/
def Act.vv (a : Act) (f : VOps) (op : Word → Word → Word) : List (Nat × DWord) :=
  a.runOf f.vd f.w fun k l => op (a.v (f.va.toNat + k) l) (a.v (f.vb.toNat + k) l)

/-- The results of an accumulating vector form: `op d x y` (R119). -/
def Act.vvd (a : Act) (f : VOps) (op : Word → Word → Word → Word) : List (Nat × DWord) :=
  a.runOf f.vd f.w fun k l => op (a.v (f.vd.toNat + k) l) (a.v (f.va.toNat + k) l) (a.v (f.vb.toNat + k) l)

/-- The results of a one-source vector form (R120). -/
def Act.vu (a : Act) (f : UnOps) (op : Word → Word) : List (Nat × DWord) :=
  a.runOf f.vd f.w fun k l => op (a.v (f.va.toNat + k) l)

/-- The result of a form that writes one v register. -/
def Act.v1 (a : Act) (vd : BitVec 7) (f : Nat → Word) : List (Nat × DWord) := a.runOf vd 0#2 fun _ l => f l

/-- The result of a form that writes one a register of every member (R128). -/
def Act.a1 (a : Act) (ad : BitVec 5) (f : Nat → DWord) : List (Nat × DWord) :=
  a.lanes.map fun l => (aCode ad.toNat l, f l)

/-- The result of a form that writes a scalar once per issue (R125). -/
def Act.s1 (_a : Act) (sd : BitVec 8) (x : Word) : List (Nat × DWord) := [(sCode sd.toNat, x.zeroExtend 64)]

/-- The result of a form that writes a predicate of the issuing strand in every member. -/
def Act.p1 (a : Act) (pd : Nat) (f : Nat → Bool) : List (Nat × DWord) :=
  a.lanes.map fun l => (pCode a.st pd l, if f l then 1#64 else 0#64)

/-- The results of a two-source address form (R128). -/
def Act.aa (a : Act) (f : A3Ops) (op : DWord → DWord → DWord) : List (Nat × DWord) :=
  a.a1 f.ad fun l => op (a.a f.aa.toNat l) (a.a f.ab.toNat l)

/-- The results of an address form with an immediate (R129). -/
def Act.ai (a : Act) (f : AiOps) (op : DWord → DWord → DWord) : List (Nat × DWord) :=
  a.a1 f.ad fun l => op (a.a f.aa.toNat l) (imm64 a.iss.entry.hints f.imm)

/-- The results of a two-source scalar form (R126). -/
def Act.ss (a : Act) (f : S3Ops) (op : Word → Word → Word) : List (Nat × DWord) :=
  a.s1 f.sd (op (a.sc f.sa.toNat) (a.sc f.sb.toNat))

/-- A signed comparison under a condition: 0 eq, 1 ne, 2 lt, 3 le, 4 gt, 5 ge (R78). -/
def intCond (cond : Nat) (x y : Int) : Bool :=
  match cond with
  | 0 => x = y
  | 1 => x != y
  | 2 => x < y
  | 3 => x ≤ y
  | 4 => y < x
  | _ => y ≤ x

/-- acmp's condition: 0 to 5 signed, 6 to 9 ltu, leu, gtu, geu (R78). -/
def addrCond (cond : Nat) (x y : DWord) : Bool :=
  if cond ≤ 5 then intCond cond x.toInt y.toInt else intCond (cond - 4) x.toNat y.toNat

/-- acmpi's condition: 0 eq, 1 ne, 2 lt, 3 ge (R78). -/
def immCond (cond : Nat) (x y : Int) : Bool := intCond (if cond = 3 then 5 else cond) x y

/-- A shift left that gives zero for amounts of the width or more (R117, R126, R128). -/
def shiftLeft {w : Nat} (x y : BitVec w) : BitVec w := if w ≤ y.toNat then 0#w else x <<< y.toNat

/-- A logical shift right that gives zero for amounts of the width or more (R117, R126, R128). -/
def shiftRight {w : Nat} (x y : BitVec w) : BitVec w := if w ≤ y.toNat then 0#w else x >>> y.toNat

/-- An arithmetic shift right by at most the width less one (R117, R128). -/
def shiftArith {w : Nat} (x y : BitVec w) : BitVec w := x.sshiftRight (min y.toNat (w - 1))

/-- The saturation field of an h.mod hint: 0 wraps, 1 signed, 2 unsigned (R90). -/
def satMode (hs : List Word) : BitVec 2 :=
  match findHint hs 28 with
  | none => 0#2
  | some p => p.extractLsb' 5 2

/-- A register operand as saturation reads it (R118). -/
def satRead (sat : BitVec 2) (x : Word) : Int := if sat = 2#2 then x.toNat else x.toInt

/-- An exact integer result wrapped or clamped (R118). -/
def satWrite (sat : BitVec 2) (x : Int) : Word :=
  if sat = 1#2 then BitVec.ofInt 32 (clampInt (-(2 ^ 31)) (2 ^ 31 - 1) x)
  else if sat = 2#2 then BitVec.ofInt 32 (clampInt 0 (2 ^ 32 - 1) x)
  else BitVec.ofInt 32 x

/-- The saturation in force for an issue. -/
def Act.sat (a : Act) : BitVec 2 := satMode a.iss.entry.hints

end Sys2Proof.Machine
end

