-- ==== Sys2Proof/Machine/Flags.lean ====
section
/-! DEFINITION. The controls and flags of floating-point instructions (R54, R55, R140). -/

namespace Sys2Proof.Machine

open Sys2Proof

/-- The floating-point controls of a thread under an instruction's hints: h.mod's rounding and flush fields, else fmode
(R55, R90, R140). -/
def ctlOf (fmode : Word) (hs : List Word) : FCtl :=
  let m := (findHint hs 28).getD 0#22
  let r := m.extractLsb' 0 3
  let fl := m.extractLsb' 3 2
  { mode := RMode.ofBits (if r.getLsbD 2 then r.extractLsb' 0 2 else fmode.extractLsb' 0 2),
    fin := if fl = 0#2 then fmode.getLsbD 3 else fl = 2#2,
    fout := if fl = 0#2 then fmode.getLsbD 2 else fl = 2#2 }

/-- The controls of a lane. -/
def Act.ctl (a : Act) (l : Nat) : FCtl := ctlOf (a.g.thread l).fmode a.iss.entry.hints

/-- Set sticky flags of a thread (R54). -/
def Group.setFlags (g : Group) (l : Nat) (fl : Word) : Group :=
  if fl = 0#32 then g else g.setThread l fun t => { t with fmode := t.fmode ||| (fl &&& 0xFC00#32) }

/-- Set flags in lanes of a group. -/
def setFlagsAll (s : State) (gk : Nat) (fs : List (Nat × Word)) : State :=
  s.setGroup gk fun g => fs.foldl (fun g f => g.setFlags f.1 f.2) g

/-- A floating-point instruction completes: flags, results, and every member goes on. -/
def Act.completeF (a : Act) (ws : List (Nat × DWord)) (fs : List (Nat × Word)) : State :=
  a.advance (a.retire (setFlagsAll a.s a.gk fs) ws)

/-- A floating-point form over a run: `op k l` is the result of register k in lane l (R140). -/
def Act.runF (a : Act) (vd : BitVec 7) (w : BitVec 2) (op : Nat → Nat → FRes) : State :=
  a.completeF (a.runOf vd w fun k l => BitVec.ofNat 32 (op k l).bits)
    ((upTo (runLen w)).flatMap fun k => a.lanes.map fun l => (l, (op k l).flags))

/-- A two-source floating-point form. -/
def Act.ff (a : Act) (f : VOps) (op : FCtl → Nat → Nat → FRes) : State :=
  a.runF f.vd f.w fun k l => op (a.ctl l) (a.v (f.va.toNat + k) l).toNat (a.v (f.vb.toNat + k) l).toNat

/-- A floating-point form that also reads its destination. -/
def Act.ffd (a : Act) (f : VOps) (op : FCtl → Nat → Nat → Nat → FRes) : State :=
  a.runF f.vd f.w fun k l =>
    op (a.ctl l) (a.v (f.va.toNat + k) l).toNat (a.v (f.vb.toNat + k) l).toNat (a.v (f.vd.toNat + k) l).toNat

/-- A one-source floating-point form. -/
def Act.fu (a : Act) (f : UnOps) (op : FCtl → Nat → FRes) : State :=
  a.runF f.vd f.w fun k l => op (a.ctl l) (a.v (f.va.toNat + k) l).toNat

/-- Two halfword elements computed independently, their flags joined (R145). -/
def pairF (op : Nat → Nat → Nat → FRes) (x y d : Nat) : FRes :=
  let lo := op (x % 65536) (y % 65536) (d % 65536)
  let hi := op (x / 65536) (y / 65536) (d / 65536)
  ⟨lo.bits % 65536 + hi.bits % 65536 * 65536, lo.flags ||| hi.flags⟩

end Sys2Proof.Machine
end

