-- ==== Sys2Proof/Machine/Schedule.lean ====
section
/-! DEFINITION. Strand queues (R319 to R322), the fetch of a word (R130, R343), the readiness of entries and the choice among them and
among groups (R25, R28, R37), and the register chunks of a core (R105, R107, R113). -/

namespace Sys2Proof.Machine

open Sys2Proof

/-! ### Strand queues -/

/-- Entries held in queue `q` of a thread: 0 qld, 1 qac, 2 qca, 3 qsd (R322). -/
def Thread.queueLen (t : Thread) (q : Nat) : Nat :=
  match q with
  | 0 => t.qld.length
  | 1 => t.qac.length
  | 2 => t.qca.length
  | _ => t.qsd.length

/-- The capacity of a queue (R318). -/
def queueCap (q : Nat) : Nat := if q = 0 || q = 3 then 16 else 4

/-- The strand that fills a queue (R318). -/
def fillerOf (q : Nat) : Strand := if q = 0 || q = 1 then .addr else .comp

/-- The strand that empties a queue. -/
def emptierOf (q : Nat) : Strand := if q = 0 || q = 1 then .comp else .addr

/-- The words an access still owes to qld (R266). -/
def Access.owed (a : Access) : Nat :=
  match a.kind with
  | .loadQ => max 1 (a.size / 4)
  | .atomic _ _ true _ _ => a.size / 4
  | _ => 0

/-- The words an ldt still owes to qld of lane `l` (R272). -/
def Op.owed (o : Op) (width l : Nat) : Nat :=
  match o.kind with
  | .ldt d _ scales members words =>
    if o.ended || !members.contains l then 0
    else match words with
      | some ws => ((ws.find? fun w => w.1 = l).map fun w => w.2.length).getD 0
      | none => max 1 (256 / (fmtK d.fmt * width)) * (if scales then 2 else 1)
  | _ => 0

/-- Whether a delivery to qld of lane `l` is outstanding (R21, R22). -/
def Group.owes (g : Group) (l : Nat) : Bool :=
  (g.accs.any fun a => a.lane = l && a.owed != 0) || g.ops.any fun o => o.owed g.width l != 0

/-- Whether a lane's pop of queue `q` can never complete: the queue holds too little, the strand that fills it has ended, and no
delivery is outstanding (R22). A queue that holds some of the entries that a run needs counts as empty, and a peek as a pop (DESIGN
CHOICE, log entry 51). -/
def Group.popDead (g : Group) (q n l : Nat) : Bool :=
  decide ((g.thread l).queueLen q < n) && ((g.thread l).strand (fillerOf q)).ended && !(q = 0 && g.owes l)

/-- Whether a lane's push of queue `q` can never complete (R22). -/
def Group.pushDead (g : Group) (q n l : Nat) : Bool :=
  decide (queueCap q < (g.thread l).queueLen q + n) && ((g.thread l).strand (emptierOf q)).ended

/-- The words owed to qld of a lane by accesses and ldts (R266). -/
def Group.owedWords (g : Group) (l : Nat) : Nat :=
  (g.accs.foldl (fun n a => if a.lane = l then n + a.owed else n) 0)
    + g.ops.foldl (fun n o => n + o.owed g.width l) 0

/-! ### Readiness and choice -/

/-- The counter of an engine class: operations not yet retired (R258, R360). -/
def Group.count (g : Group) (cls : Nat) : Nat :=
  let mine := g.ops.filter fun o => o.cls = cls
  match mine.find? fun o => !o.ended with
  | none => 0
  | some o => (mine.filter fun x => o.seq ≤ x.seq).length

/-- Whether an operation of a group has retired: it and every older one of its class have ended (R258). -/
def Group.retired (g : Group) (o : Op) : Bool := g.ops.all fun x => x.cls != o.cls || o.seq < x.seq || x.ended

/-- The filled slots of a FIFO bank (R323). -/
def fifoOf (s : State) (core bank : Nat) : Fifo := SMap.get {} (s.core core).fifos bank

/-- The segment of a context by name, with its directory place. -/
def segByName (s : State) (c name : Nat) : Option (Nat × Segment) :=
  match s.ctx? c with
  | none => none
  | some x => x.segments.find? fun p => p.2.name = name

/-- Whether a context is out or being resumed: no core serves it, and nothing of it lies in a core (R384). -/
def ctxAway (s : State) (c : Nat) : Bool :=
  match s.ctx? c with
  | some x => x.status = .out || x.status = .resuming
  | none => false

/-- Whether a matrix operation has begun, and not ended, on a core (R316). -/
def matBegun (s : State) (core : Nat) : Bool :=
  s.groups.any fun p => !ctxAway s p.2.ctx && p.2.ops.any fun o => o.core = core && o.cls = 2 && !o.ended && o.stall = .passed

/-- Whether a segment occupies a bank, where it lies or where it moves to (R229). -/
def Segment.holds (x : Segment) (core bank : Nat) : Bool :=
  (x.state != 2 && x.core = core && x.first ≤ bank && bank < x.first + x.banks)
  || (x.state = 3 && x.target = core && x.targetFirst ≤ bank && bank < x.targetFirst + x.banks)

/-- Whether team scratchpad, or a segment that `but` does not let off, occupies a bank (R194, R226). -/
def occupiedBut (s : State) (but : Segment → Bool) (core bank : Nat) : Bool :=
  (s.teams.any fun t => t.2.banks.contains (core, bank)
    && !t.2.groups.any fun k => match s.group? k with
      | some g => ctxAway s g.ctx
      | none => false)
  || s.ctxs.any fun c => c.2.segments.any fun p => p.2.holds core bank && !but p.2

/-- Whether a starter segment or team scratchpad occupies a bank (R194). -/
def bankOccupied (s : State) (core bank : Nat) : Bool := occupiedBut s (fun _ => false) core bank

/-- The SCR banks of a core that nothing occupies, but for segments let off. -/
def freeBanks (s : State) (but : Segment → Bool) (core : Nat) : List Nat :=
  (upTo 24).filter fun b => bankMode (s.core core) b = 1 && !occupiedBut s but core b
    && (match (s.core core).switch with
      | some (x, _) => x != b
      | none => true)

/-- The lowest run of `n` consecutive free SCR banks of a core (R226). -/
def scrRun (s : State) (but : Segment → Bool) (core n : Nat) : Option Nat :=
  let free := freeBanks s but core
  (upTo (25 - n)).find? fun b => (upTo n).all fun i => free.contains (b + i)

/-- Whether the scheduler may evict a segment from a core (R233). -/
def Segment.evictable (x : Segment) (core : Nat) : Bool :=
  x.core = core && x.state = 0 && x.cls != 2 && x.attachments = 0

/-- Whether a segment leaves a core by itself or may be evicted from it. -/
def Segment.leaves (core : Nat) (x : Segment) : Bool := x.evictable core || (x.core = core && x.state = 1)

/-- The places of a group's pending rgrow and rshrink requests (R137). -/
def Group.requests (g : Group) : List Nat :=
  (g.frC.entries ++ g.frA.entries).filterMap fun e => match e.block with
    | .grow _ stamp _ => some stamp
    | _ => none

/-- Whether a group is a register waiter: blocked in rgrow (R113). -/
def Group.growWaits (g : Group) : Bool :=
  (g.frC.entries ++ g.frA.entries).any fun e => match e.block with
    | .grow _ _ shrink => !shrink
    | _ => false

/-- The registers that a group's rshrink by `k` discards and that a late producer still owes (R112). -/
def Group.owedAbove (g : Group) (k : Nat) : List Nat :=
  ((upTo (8 * k)).flatMap fun i => (upTo g.width).map fun l => vCode (g.vAlloc - 8 * k + i) l).filter fun c => !g.isFull c

/-! ### What an open entry waits for -/

/-- What a fetch brings (R130). -/
inductive Fetched where
  | word (w : Word)
  /-- A cause that every member takes: FETCH_RANGE with tpc at the word, another with tpc at the first word of its sequence (R85, R130). -/
  | cause (c : Cause)
  /-- A replayable cause. -/
  | replay (code : Nat)
  deriving DecidableEq, Repr

/-- Fetch the word at `pc` for a group (R130, R189, R201, R343). Words are read at their home. -/
def fetchWord (s : State) (g : Group) (pc : VAddr) : State × Fetched :=
  let va := pc.toNat
  let range : Fetched := .cause ⟨0x001, va, 0⟩
  if 2 ^ 56 - 2 ^ 32 ≤ va then (s, range)
  else match translate s g.ctx g.core va 0 with
    | .error code => (s, .replay code)
    | .ok (pa, _, s) =>
      let tdi := match s.ctx? g.ctx with
        | some x => x.tdi
        | none => 0
      if tierOf pa = .host then (s, range)
      else match reachCause s g.ctx (partOfCore s g.core) tdi pa with
        | some 0x1C4 => (s, .cause ⟨0x1C4, va, 0⟩)
        | some _ => (s, range)
        | none =>
          match poisonAt s pa with
          | some k => (s, .cause ⟨0x0A2, va, k⟩)
          | none =>
            let r := readHome s pa 4
            (r.2, .word (BitVec.ofNat 32 (natOfBytes r.1)))

/-- Whether a lane's qld has room for `n` more words after every word owed (R266). -/
def Group.hasRoom (g : Group) (n l : Nat) : Bool := decide ((g.thread l).qld.length + g.owedWords l + n ≤ 16)

/-- The number of words that a delivery of `size` bytes has. -/
def wordsOf (size : Nat) : Nat := max 1 (size / 4)

/-- Entries of queue `q` that a run of `n` registers takes (R319). -/
def takeCount (q n : Nat) : Nat := if q = 0 || q = 3 then n else max 1 (n / 2)

/-- A pop of `n` entries of queue `q` that the queues of the lanes hold up; a lane whose pop can never complete holds nothing up
(R22, R25). -/
def Group.popBlock (g : Group) (q n : Nat) (lanes : List Nat) : Option Block :=
  if n = 0 || lanes.any (g.popDead q n) || lanes.all fun l => decide (n ≤ (g.thread l).queueLen q) then none else some (.pop q n)

/-- A push of `n` entries to queue `q` that the queues of the lanes hold up. -/
def Group.pushBlock (g : Group) (q n : Nat) (lanes : List Nat) : Option Block :=
  if lanes.any (g.pushDead q n) || lanes.all fun l => decide ((g.thread l).queueLen q + n ≤ queueCap q) then none
  else some (.push q n)

/-- A delivery of `n` words to qld for which some lane has no room (R266); it waits though the strand that pops qld may have ended (DESIGN
CHOICE, log entry 53). -/
def Group.roomBlock (g : Group) (n : Nat) (lanes : List Nat) : Option Block :=
  if lanes.all (g.hasRoom n) then none else some (.push 0 n)

/-- What the queues hold up of an instruction (R25, R266 to R268, R320). -/
def Group.queueBlock (g : Group) (i : Instr) (lanes : List Nat) : Option Block :=
  let atom := fun (op : Nat) (sz64 ret : Bool) =>
    let w := if sz64 then 2 else 1
    (g.popBlock 3 (if op = 7 then 2 * w else w) lanes).or (if ret then g.roomBlock w lanes else none)
  match i with
  | .pop f | .peek f => g.popBlock f.queue.toNat (takeCount f.queue.toNat (runLen f.w)) lanes
  | .push f => g.pushBlock f.queue.toNat (takeCount f.queue.toNat (runLen f.w)) lanes
  | .ldq f => g.roomBlock (wordsOf (2 ^ f.size.toNat)) lanes
  | .st f => if f.t = 0#5 then g.popBlock 3 (wordsOf (2 ^ f.size.toNat)) lanes else none
  | .atomAdd f | .atomAnd f | .atomOr f | .atomXor f | .atomXchg f => atom 0 f.sz64 f.ret
  | .atomMin f | .atomMax f => atom 0 f.sz64 f.ret
  | .atomCas f => atom 7 f.sz64 f.ret
  | _ => none

/-- What keeps the next instruction of an entry from beginning: an operand that blocks on empty, or a queue. An instruction that would
raise a cause, or has no selected member, can begin (R25, R67, R71, R72, R91). -/
def nextBlock (s : State) (g : Group) (st : Strand) (e : Entry) : Option Block :=
  match (fetchWord s g e.pc).2 with
  | .word w => match decodeOp w with
    | none => none
    | some i =>
      let sh := shapeOf st i
      let lanes := e.acting g st
      let src := vSources i sh lanes
      if (illegalInstr g ⟨0, st, e, w⟩ i).isSome || lanes.isEmpty || (notAllocated g sh).isSome || (emptyRead g src).isSome then none
      else match emptyCodes g i sh src lanes with
        | [] => g.queueBlock i lanes
        | cs => some (.regs cs)
  | _ => none

/-- The lowest-numbered core of a cluster in the logical core map (R241). -/
def viewCore (s : State) (cluster : Nat) : Nat :=
  cluster * 16 + (((upTo 16).find? fun i => !(s.core (cluster * 16 + i)).removed).getD 0)

/-- Whether an operation of a group of `width` threads asks for the register-file port or the encode path of its core (R15). One that waits
for an answer to a fault, or for a view refresh (R242), and an stt that still pops its values do not. (DESIGN CHOICE, log entry 53.) -/
def Op.asksPort (width : Nat) (o : Op) : Bool :=
  !o.ended && o.faultIds.isEmpty
  && (match o.stall with
    | .waiting .. => false
    | _ => true)
  && match o.kind with
    | .ldt _ _ _ _ none => true
    | .stt .. => decide (256 ≤ width * o.next)
    | .copyTile x _ image => (bitOf x 371 && image.isNone) || bitOf x 372
    | _ => false

/-- Whether a request of a group, of a packet or of a view refresh goes before a prefix split that came to the register-file port and the
encode path of its core as arrival `came`, number and cycle: an older one, and of those of its cycle any but a refresh (R15). -/
def portBusy (s : State) (core : Nat) (came : Nat × Nat) : Bool :=
  let first := fun (width : Nat) (o : Op) => o.core = core && o.asksPort width && (o.cyc = came.2 || o.stamp < came.1)
  s.groups.any (fun p => !ctxAway s p.2.ctx && p.2.ops.any (first p.2.width))
  || s.queues.any (fun p => match p.2.stage with
    | .copying ops => ops.any (first 0)
    | _ => false)
  || s.refreshing.any fun p => viewCore s p.1 = core && p.2.faultIds.isEmpty && p.2.cause.isNone && (p.2.values.isNone || p.2.cleared)
    && p.2.cyc != came.2 && p.2.stamp < came.1

/-- Whether an entry's instruction can begin, or, where it has issued and waits, act again (R25, R37). Blocks that end by an event of
their own are not ready until it has opened the entry. (DEDUCED, log entry 17.) -/
def entryReady (s : State) (g : Group) (st : Strand) (e : Entry) : Bool :=
  match e.block with
  | .ready | .regs _ | .pop .. | .push .. => (nextBlock s g st e).isNone
  | .rsync codes => codes.all g.isFull
  | .engine 5 => decide (g.count 5 < 63) && decide ((SMap.get [] s.spawnQ (clusterOf g.core)).length < 256)
  | .engine cls => decide (g.count cls < 63)
  | .accesses ids => ids.all fun i => g.accs.all fun a => a.id != i || a.performed
  | .opsEnd ids => (ids.all fun i => g.ops.all fun o => o.id != i || o.ended) && !matBegun s g.core
  | .fifo core bank n => decide (n ≤ (fifoOf s core bank).filled) || bankMode (s.core core) bank != 3
  | .segment name => match segByName s g.ctx name with
    | some (_, x) => x.state = 0 || x.state = 2 || x.state = 4
    | none => true
  | .banks n make => (scrRun s (fun _ => false) g.core n).isSome || (make && (scrRun s (Segment.leaves g.core) g.core n).isNone)
  | .switching => (s.core g.core).switch.isNone
  | .tile op => g.ops.all fun o => o.id != op || o.ended || match o.kind with
    | .ldt _ _ _ _ words => words.isSome
    | _ => false
  | .port stamp cyc => !portBusy s g.core (stamp, cyc)
  | .counter cls n => decide (g.count cls ≤ n)
  | .grow k stamp true => decide (leastOf g.requests = some stamp) && (g.owedAbove k).isEmpty
  | _ => false

/-- Whether an entry is still before its instruction: open, or waiting for operands or a queue (R25). -/
def Block.before : Block → Bool
  | .ready | .regs _ | .pop .. | .push .. => true
  | _ => false

/-- An entry that waits for its operands or for a queue is closed, with what it waits for and the wait age that it has (R24, R25, R37). -/
def closeWaiting (s : State) (g : Group) (st : Strand) : Group :=
  let close := fun (e : Entry) =>
    if !e.block.before then e
    else match nextBlock s g st e with
      | some b => { e with block := b }
      | none => e
  g.setFrontier st fun f => { f with hw := f.hw.map close }

/-- Both strands of a group. -/
def closeBoth (s : State) (g : Group) : Group := closeWaiting s (closeWaiting s g .comp) .addr

/-- The priority of an entry: the highest of its members' (R24). -/
def entryPrio (g : Group) (st : Strand) (e : Entry) : Nat :=
  e.members.foldl (fun m l => max m ((g.thread l).strand st).bprio.toNat) 0

/-- Whether an entry may be chosen: it is ready and no entry it yielded to is still ready and unissued (R136). -/
def mayChoose (s : State) (g : Group) (st : Strand) (e : Entry) : Bool :=
  entryReady s g st e && !e.yieldFor.any fun i => match g.entry? st i with
    | some x => (g.frontier st).hw.any (fun y => y.id = i) && entryReady s g st x
    | none => false

/-- The entry among a list that is best under `better`. -/
def bestEntry (better : Entry → Entry → Bool) : List Entry → Option Entry
  | [] => none
  | e :: rest => match bestEntry better rest with
    | none => some e
    | some f => if better f e then some f else some e

/-- Whether an entry waits in rsync, which later instructions of its strand wait for (R138). -/
def Entry.syncs (e : Entry) : Bool :=
  match e.block with
  | .rsync _ => true
  | _ => false

/-- The entries among which a strand of a group chooses: those of an rsync alone while one waits (R138). Spilled entries are not ready
(R27). -/
def candidates (s : State) (g : Group) (st : Strand) : List Entry :=
  let f := g.frontier st
  (f.hw.filter fun e => e.syncs || !f.entries.any Entry.syncs).filter (mayChoose s g st)

/-- The entry that a strand of a group issues: past the turn timer the oldest, else the highest priority; the lowest PC among
equals (R25). -/
def chooseEntry (s : State) (g : Group) (st : Strand) : Option Entry :=
  let cs := candidates s g st
  let turn := 2 ^ (8 + g.kernel.turn)
  if cs.any fun e => turn < e.age then
    bestEntry (fun a b => b.age < a.age || (a.age = b.age && a.pc.toNat < b.pc.toNat)) cs
  else
    bestEntry (fun a b =>
      let p := entryPrio g st a
      let q := entryPrio g st b
      q < p || (p = q && a.pc.toNat < b.pc.toNat)) cs

/-! ### Issue slots -/

/-- The issue slots of a core for a kind of strand (R26). -/
def slotsOf : Strand → Nat
  | .comp => 4
  | .addr => 2

/-- Whether a group may issue at all: it is RESIDENT, its context runs, and its arguments have been read. -/
def mayIssue (s : State) (g : Group) : Bool :=
  g.status = .resident && g.argFaults.isEmpty && match s.ctx? g.ctx with
    | some x => decide (x.status = .running)
    | none => false

/-- The claim of a group on a free slot of its core, the least first: an oldest ready entry that has waited longer than the turn timer,
the longest first; else the kernel's priority class, then the longest time since it issued on the strand (R28). Groups that have never
issued on it stand in the order of their admission (DESIGN CHOICE, log entry 51). -/
def Group.claim (g : Group) (st : Strand) (cs : List Entry) : List Nat :=
  let oldest := cs.foldl (fun m e => max m e.age) 0
  let last := (g.frontier st).last
  if 2 ^ (8 + g.kernel.turn) < oldest then [0, 2 ^ 64 - oldest, last, g.order] else [1, 7 - g.kernel.prio, last, g.order]

/-- The lexicographic order of keys. -/
def keyLess : List Nat → List Nat → Bool
  | x :: xs, y :: ys => decide (x < y) || (x = y && keyLess xs ys)
  | _, _ => false

/-- The group that the next free slot of a core goes to, while a slot is free (R26, R28). -/
def nextIssuer (s : State) (core : Nat) (st : Strand) : Option Nat :=
  let here := s.groups.filter fun p => p.2.core = core
  if slotsOf st ≤ (here.filter fun p => (p.2.frontier st).beats != 0).length then none
  else
    let want := here.filterMap fun p =>
      if !mayIssue s p.2 || (p.2.frontier st).beats != 0 then none
      else match candidates s p.2 st with
        | [] => none
        | cs => some (p.1, p.2.claim st cs)
    (want.foldl (fun best p => match best with
      | none => some p
      | some b => if keyLess p.2 b.2 then some p else some b) (none : Option (Nat × List Nat))).map (·.1)

/-- The tree number of a group. -/
def treeNumber (s : State) (g : Group) : Nat :=
  match SMap.find? s.trees g.tree with
  | some t => t.number
  | none => 0

/-- Where a group meets a fault: its tree's LAUNCH queue, core, gid, tree and lane (R424). -/
def groupSite (s : State) (g : Group) (lane strand : Nat) : FaultSite :=
  let t := SMap.find? s.trees g.tree
  { queue := (t.map (·.queue)).getD 0, core := g.core, gid := g.gid, tree := (t.map (·.number)).getD 0, lane := lane,
    strand := strand }

/-! ### Register chunks -/

/-- The chunks of a window (R105). -/
def chunksFor (v w n : Nat) : Nat := ceilDiv (4 * v * w + 256 * w + 8 * n + 128) 4096

/-- The chunks of a group's window. -/
def Group.chunks (g : Group) : Nat := chunksFor g.vAlloc g.width g.sAlloc

/-- The register capacity of a core (R107). -/
def regCapacity (c : Core) : Nat := 16 * (c.modes.filter (· = 0)).length

/-- The groups that hold places on a core (R30). -/
def holdersOn (s : State) (core : Nat) : List (Nat × Group) :=
  s.groups.filter fun p => p.2.core = core && (p.2.status = .resident || p.2.status = .draining) && !ctxAway s p.2.ctx

/-- The chunks of the REG bank that a pending mode change takes from a core (R194). -/
def Core.leavingChunks (c : Core) : Nat :=
  match c.switch with
  | some (b, _) => if bankMode c b = 0 then 16 else 0
  | none => 0

/-- The chunks free on a core (R107): the bank that a pending mode change takes counts as room no more (R194). -/
def freeChunks (s : State) (core : Nat) : Nat :=
  regCapacity (s.core core) - (s.core core).leavingChunks - (holdersOn s core).foldl (fun n p => n + p.2.chunks) 0

end Sys2Proof.Machine
end

