-- ==== Sys2Proof/Machine/LaneOps.lean ====
section
/-! DEFINITION. The cross-lane instructions (R40 to R42, R154 to R157) and the rendezvous of xsend and xrecv
(R110, R115, R158). -/

namespace Sys2Proof.Machine

open Sys2Proof

/-! ### What a completed cross-lane instruction writes -/

/-- The combination of two integer values in a mode of redux and scan (R80, R157). -/
def laneCombine (mode : Nat) (x y : Word) : Word :=
  match mode with
  | 0 => x + y
  | 1 => if x.toInt ≤ y.toInt then x else y
  | 2 => if x.toInt ≤ y.toInt then y else x
  | 3 => if x.toNat ≤ y.toNat then x else y
  | 4 => if x.toNat ≤ y.toNat then y else x
  | 5 => x &&& y
  | _ => x ||| y

/-- The first value of an fadd combination: read under FIN, a NaN canonical (R44, R157). -/
def laneFirst (c : FCtl) (x : Nat) : FRes :=
  match decodeF fmt32 x with
  | .nan s => ⟨fmt32.nanBits, flagIf s flagNV⟩
  | _ => ⟨flushIn fmt32 c.fin x, 0#32⟩

/-- A further value of an fadd combination, added with one rounding (R157). -/
def laneAdd (c : FCtl) (acc x : Nat) : FRes :=
  let r := addV c.mode (decodeF fmt32 acc) (decodeF fmt32 (flushIn fmt32 c.fin x))
  packF fmt32 c r.1 r.2

/-- The running combinations of values in ascending lane order, and the flags (R157). -/
def laneScan (mode : Nat) (c : FCtl) (acc : Option Word) (fl : Word) : List Word → List Word × Word
  | [] => ([], fl)
  | x :: rest =>
    let r : FRes := match acc with
      | none => if mode = 7 then laneFirst c x.toNat else ⟨x.toNat, 0#32⟩
      | some y => if mode = 7 then laneAdd c y.toNat x.toNat else ⟨(laneCombine mode y x).toNat, 0#32⟩
    let z := BitVec.ofNat 32 r.bits
    let t := laneScan mode c (some z) (fl ||| r.flags) rest
    (z :: t.1, t.2)

/-- Results of an fadd combination with the first, which no addition has rounded, through FOUT (R59, R141; DEDUCED, log entry 46). -/
def firstOut (c : FCtl) (r : List Word × Word) : List Word × Word :=
  match r.1 with
  | [] => r
  | x :: rest =>
    let y := packF fmt32 c (decodeF fmt32 x.toNat) 0#32
    (BitVec.ofNat 32 y.bits :: rest, r.2 ||| y.flags)

/-- The combinations that scan writes to its members in lane order, and the flags; for redux the last of them is the result (R157). -/
def laneValues (mode : Nat) (c : FCtl) (scan : Bool) (xs : List Word) : List Word × Word :=
  let r := laneScan mode c none 0#32 xs
  if mode = 7 && (scan || xs.length = 1) then firstOut c r else r

/-- The value of vote for lane `l`, where `hits` are the members with a non-zero source (R156). -/
def voteValue (mode : Nat) (members hits : List Nat) (l : Nat) : Word :=
  match mode with
  | 0 => if hits.isEmpty then 0#32 else 1#32
  | 1 => if hits.length = members.length then 1#32 else 0#32
  | 2 => (maskOfLanes hits).extractLsb' (32 * (l / 32)) 32
  | 3 => if leastOf hits = some l then 1#32 else 0#32
  | _ => BitVec.ofNat 32 hits.length

/-- The lane that shfl reads for lane `l` under selector `b` (R155). -/
def shflSource (mode l : Nat) (b : Word) : Option Nat :=
  match mode with
  | 0 => some b.toNat
  | 1 => if b.toNat ≤ l then some (l - b.toNat) else none
  | 2 => some (l + b.toNat)
  | _ => some (l ^^^ b.toNat)

/-- The destination values by lane, and the flags of every member (R155 to R157). `x r l` reads v register `r` of lane `l`. -/
def laneResults (i : Instr) (c : FCtl) (members : List Nat) (x : Nat → Nat → Word) : Option (Nat × List Word × Word) :=
  match i with
  | .shfl f =>
    let va := f.va.toNat
    some (f.vd.toNat, members.map (fun l =>
      match shflSource f.mode.toNat l (x (va + 1) l) with
      | some src => if members.contains src then x va src else x va l
      | none => x va l), 0#32)
  | .vote f =>
    let hits := members.filter fun l => x f.va.toNat l != 0#32
    some (f.vd.toNat, members.map (voteValue f.mode.toNat members hits), 0#32)
  | .redux f =>
    let r := laneValues f.mode.toNat c false (members.map (x f.va.toNat))
    some (f.vd.toNat, members.map (fun _ => r.1.getLastD 0#32), r.2)
  | .scan f =>
    let r := laneValues f.mode.toNat c true (members.map (x f.va.toNat))
    some (f.vd.toNat, r.1, r.2)
  | _ => none

/-! ### Arrivals -/

/-- A pending cross-lane arrival: its entry, mask, word and fmode (R40). -/
structure Arrival where
  entry : Entry
  mask  : DWord
  word  : Word
  fmode : Word
  deriving DecidableEq, Repr

/-- The pending arrivals of a group. -/
def Group.arrivals (g : Group) : List Arrival :=
  g.frC.entries.filterMap fun e => match e.block with
    | .lanes m w f => some ⟨e, m, w, f⟩
    | _ => none

/-- The arrival of a lane. -/
def arrivalOf (as : List Arrival) (l : Nat) : Option Arrival := as.find? fun a => a.entry.members.contains l

/-- What the members of one arrival meet (R40, R41). -/
inductive Meeting where
  /-- A member of the mask is still to arrive. -/
  | waiting
  /-- Every member has arrived, and this lane's PC or mask differs. -/
  | mismatch (lane : Nat)
  /-- Every member has arrived at the same PC with the same mask. -/
  | together
  deriving DecidableEq, Repr

/-- Judge an arrival (R41). -/
def judgeArrival (as : List Arrival) (a : Arrival) : Meeting :=
  let ms := lanesOfMask a.mask
  if !ms.all fun l => (arrivalOf as l).isSome then .waiting
  else
    let place := fun l => (arrivalOf as l).map fun b => (b.entry.pc, b.mask)
    match ms.find? fun l => place l != place (ms.headD 0) with
    | some l => .mismatch l
    | none => .together

/-- The registers that a cross-lane instruction needs full in every member at completion (R154). -/
def laneCodes (i : Instr) (members : List Nat) : List Nat :=
  let regs := match i with
    | .shfl f => [f.va.toNat, f.va.toNat + 1, f.vd.toNat]
    | .vote f | .redux f | .scan f => [f.va.toNat, f.vd.toNat]
    | _ => []
  regs.flatMap fun r => members.map (vCode r)

/-- The members of one mask complete together (R40, R154): results, flags, kills, each entry's results at its place in the window, and
each entry goes on at the next word. -/
def completeLanes (s0 : State) (gk : Nat) (a : Arrival) : State :=
  match s0.group? gk with
  | none => s0
  | some g0 =>
    let s := { s0 with free := s0.free + 1 }
    let members := lanesOfMask a.mask
    let es := g0.arrivals.filter fun b => b.mask = a.mask && b.entry.pc = a.entry.pc
    match laneResults ((decodeOp a.word).getD .nop) (ctlOf a.fmode a.entry.hints) members
        (fun r l => (g0.read s.free (vCode r l)).truncate 32) with
    | none => s
    | some (vd, xs, fl) =>
      let ws := members.zipWith (fun l x => (vCode vd l, BitVec.zeroExtend 64 x)) xs
      s.setGroup gk fun g =>
        let g := members.foldl (fun g l => g.setFlags l fl) g
        let g := es.foldl (fun g b => g.kill .comp (killCodes .comp b.entry.hints b.entry.members)) g
        let mine := fun (b : Arrival) => (ws.map (·.1)).filter fun c => b.entry.members.contains (c % 64)
        es.foldl (fun g b => (g.intoWindow .comp b.entry (mine b)).release .comp b.entry) (g.writeAll ws)

/-- Settle the arrivals of a group: mismatched members take their causes; members that stand together, with their registers
full, complete (R40, R41). Each round settles one instruction at least. -/
def settleLanes (s : State) (gk : Nat) : Nat → State
  | 0 => s
  | fuel + 1 =>
    match s.group? gk with
    | none => s
    | some g =>
      let as := g.arrivals
      let bad := as.filterMap fun a => match judgeArrival as a with
        | .mismatch l => some (a, l)
        | _ => none
      if !bad.isEmpty then
        settleLanes (bad.foldl (fun s b =>
          trapAsync s gk .comp b.1.entry.seqPc (b.1.entry.members.map fun l => (l, ⟨0x063, b.2, 0⟩))) s) gk fuel
      else
        let ready := fun (a : Arrival) => decide (judgeArrival as a = .together)
          && a.entry.members.contains ((lanesOfMask a.mask).headD 0)
          && (laneCodes ((decodeOp a.word).getD .nop) (lanesOfMask a.mask)).all g.isFull
        match as.find? ready with
        | some a => settleLanes (completeLanes s gk a) gk fuel
        | none => s

/-- The arrival of the issuing members at a cross-lane instruction, each checked as R41 lays down. -/
def Act.arrive (a : Act) (f : LnOps) : State :=
  let mask : DWord := a.sc (f.sm.toNat + 1) ++ a.sc f.sm.toNat
  let named := lanesOfMask mask
  let gone := named.filter fun l => l < a.g.width && (a.g.thread l).comp.ended
  let fate := fun (l : Nat) =>
    if named.any (a.g.width ≤ ·) || !mask.getLsbD l then
      Fate.trap ⟨0x021, (mask.extractLsb' 0 32).toNat, (mask.extractLsb' 32 32).toNat⟩
    else match leastOf gone with
      | some x => .trap ⟨0x062, x, 0⟩
      | none => .block (.lanes mask a.iss.word (a.g.thread (leastOf (a.lanes.filter mask.getLsbD) |>.getD 0)).fmode)
  settleLanes (a.settle (if (a.lanes.map fate).any Fate.held then a.aged a.s else a.s) fate) a.gk 64

/-- SHFL (R155). -/
def execShfl (f : LnOps) (s : State) : Host.Outcome State Fault Refusal := runWord (.shfl f) s fun a => a.arrive f

/-- VOTE (R156). -/
def execVote (f : LnOps) (s : State) : Host.Outcome State Fault Refusal := runWord (.vote f) s fun a => a.arrive f

/-- REDUX (R157). -/
def execRedux (f : LnOps) (s : State) : Host.Outcome State Fault Refusal := runWord (.redux f) s fun a => a.arrive f

/-- SCAN (R157). -/
def execScan (f : LnOps) (s : State) : Host.Outcome State Fault Refusal := runWord (.scan f) s fun a => a.arrive f

/-- A member's compute strand ends while others wait on a mask that names it: each of them takes LANE_MEMBER_EXITED (R41). -/
def laneExited (s : State) (gk l : Nat) : State :=
  match s.group? gk with
  | none => s
  | some g =>
    (g.arrivals.filter fun a => a.mask.getLsbD l).foldl (fun s a =>
      trapAsync s gk .comp a.entry.seqPc (a.entry.members.map fun m => (m, ⟨0x062, l, 0⟩))) s

/-! ### Rendezvous -/

/-- A waiting xsend or xrecv of a team: its group, entry, direction, slot, arrival order, run and the members that act (R91, R115). -/
structure Meet where
  gk    : Nat
  entry : Entry
  send  : Bool
  slot  : Nat
  stamp : Nat
  reg   : Nat
  w     : Nat
  lanes : List Nat
  deriving DecidableEq, Repr

/-- The waiting sides of a team. -/
def teamMeets (s : State) (team : Nat) : List Meet :=
  s.groups.flatMap fun p =>
    if p.2.team = team then
      p.2.frC.entries.filterMap fun e => match e.block with
        | .rendezvous send slot stamp reg w lanes => some ⟨p.1, e, send, slot, stamp, reg, w, lanes⟩
        | _ => none
    else []

/-- The earliest of one kind at a slot (R115). -/
def firstMeet (ms : List Meet) (send : Bool) (slot : Nat) : Option Meet :=
  (ms.filter fun m => m.send == send && m.slot = slot).foldl (fun best m => match best with
    | none => some m
    | some b => if m.stamp < b.stamp then some m else some b) none

/-- The codes of a run in lanes. -/
def meetCodes (m : Meet) (lanes : List Nat) : List Nat :=
  (upTo (2 ^ m.w)).flatMap fun j => lanes.map (vCode (m.reg + j))

/-- A matched pair whose runs differ in length: the members that act take the cause, and the others go on (R91, R158). -/
def meetMismatch (s : State) (snd rcv : Meet) : State :=
  let s := s.setGroup rcv.gk fun g => g.setFull (meetCodes rcv rcv.lanes)
  let raise := fun (s : State) (m o : Meet) =>
    (trapAsync s m.gk .comp m.entry.seqPc (m.lanes.map fun l => (l, ⟨0x064, m.slot, m.w + 4 * o.w⟩))).setGroup m.gk fun g =>
      match g.entry? .comp m.entry.id with
      | some e => if e.block = m.entry.block then g.release .comp e else g
      | none => g
  raise (raise s snd rcv) rcv snd

/-- A matched pair transfers: the receiver's covered lanes take the sender's values, every register of its run is full, and both
entries go on (R158). -/
def meetTransfer (s0 : State) (snd rcv : Meet) : State :=
  match s0.group? snd.gk with
  | none => s0
  | some gs =>
    let s := { s0 with free := s0.free + 1 }
    let both := rcv.lanes.filter snd.lanes.contains
    let ws := (upTo (2 ^ snd.w)).flatMap fun j => both.map fun l =>
      (vCode (rcv.reg + j) l, gs.read s.free (vCode (snd.reg + j) l))
    let s := s.setGroup snd.gk fun g => g.completeEntry .comp snd.entry []
    s.setGroup rcv.gk fun g =>
      let g := ws.foldl (fun g w => g.deliver w.1 w.2) g
      (g.setFull (meetCodes rcv rcv.lanes)).completeEntry .comp rcv.entry []

/-- Match what waits at the slots of a team (R115, R158). A matched sender whose covered registers are still empty waits for
them. -/
def settleMeets (s : State) (team : Nat) : Nat → State
  | 0 => s
  | fuel + 1 =>
    let ms := teamMeets s team
    let pairs := (upTo 32).filterMap fun slot =>
      match firstMeet ms true slot, firstMeet ms false slot with
      | some a, some b =>
        let full := match s.group? a.gk with
          | some g => (meetCodes a (b.lanes.filter a.lanes.contains)).all g.isFull
          | none => false
        if a.w != b.w || full then some (a, b) else none
      | _, _ => none
    match pairs with
    | [] => s
    | (a, b) :: _ => settleMeets (if a.w != b.w then meetMismatch s a b else meetTransfer s a b) team fuel

/-- What waits for registers of a group alone is looked at again: cross-lane arrivals and rendezvous (R154, R158). -/
def settleGroup (s : State) (gk : Nat) : State :=
  match s.group? gk with
  | none => s
  | some g => settleMeets (settleLanes s gk 64) g.team 64

/-- XSEND (R158). -/
def execXsend (f : SendOps) (s : State) : Host.Outcome State Fault Refusal :=
  runWord (.xsend f) s fun a =>
    let s := a.wait { a.s with stamp := a.s.stamp + 1 }
      (.rendezvous true f.slot.toNat a.s.stamp f.va.toNat f.w.toNat a.lanes)
    settleMeets s a.g.team 64

/-- XRECV (R158): its run is empty from issue to the match (R110). -/
def execXrecv (f : RecvOps) (s : State) : Host.Outcome State Fault Refusal :=
  runWord (.xrecv f) s fun a =>
    let codes := (upTo (runLen f.w)).flatMap fun j => a.lanes.map (vCode (f.vd.toNat + j))
    let s := { a.s with stamp := a.s.stamp + 1 }.setGroup a.gk fun g =>
      { g with empty := codes.foldl (fun e c => SMap.put false e c true) g.empty }
    let s := a.wait s (.rendezvous false f.slot.toNat a.s.stamp f.vd.toNat f.w.toNat a.lanes)
    settleMeets s a.g.team 64

/-- A late producer delivers registers of a group, and what waited for them alone goes on (R108, R110). -/
def deliverAll (s : State) (gk : Nat) (ws : List (Nat × DWord)) : State :=
  settleGroup (s.setGroup gk fun g => ws.foldl (fun g w => g.deliver w.1 w.2) g) gk

end Sys2Proof.Machine
end

