-- ==== Sys2Proof/Machine/Monitors.lean ====
section
/-! DEFINITION. Monitors: samples, capture state and snapshots (R373 to R376). -/

namespace Sys2Proof.Machine

open Sys2Proof

/-- A field of a monitor's configuration (R373). -/
def Monitor.field (m : Monitor) (hi lo : Nat) : Nat := bitsOf m.config.toNat hi lo

/-- A monitor: cluster × 32 + number. -/
def State.monitor (s : State) (k : Nat) : Monitor := SMap.get {} s.monitors k

/-- Change a monitor. -/
def State.setMonitor (s : State) (k : Nat) (f : Monitor → Monitor) : State :=
  { s with monitors := SMap.put {} s.monitors k (f (s.monitor k)) }

/-- A capture state reset, under the same configuration (R375). -/
def Monitor.clear (m : Monitor) : Monitor := { config := m.config, due := m.due }

/-- The histogram bin of a value (R375). -/
def binOf (shift x : Nat) : Nat := if x = 0 then 0 else min 31 (Nat.log2 x - shift)

/-- The three records of a snapshot (R376). -/
def snapshotRecs (cluster mon : Nat) (m : Monitor) (number : Nat) : List Rec :=
  let pair := fun i => m.bins.getD i 0 + m.bins.getD (i + 1) 0 * 2 ^ 32
  let w1 := fun part => mon + cluster * 2 ^ 8 + part * 2 ^ 16 + m.field 7 0 * 2 ^ 24 + number * 2 ^ 32
  [mkRec 0x21 0 0xFFFF [w1 0, m.count, m.minimum + m.maximum * 2 ^ 32, pair 0, pair 2, pair 4, pair 6],
   mkRec 0x21 0 0xFFFF [w1 1, pair 8, pair 10, pair 12, pair 14, pair 16, pair 18],
   mkRec 0x21 0 0xFFFF [w1 2, pair 20, pair 22, pair 24, pair 26, pair 28, pair 30]]

/-- The context a monitor samples (R373). -/
def monitorCtx (s : State) (cluster : Nat) (m : Monitor) : Nat :=
  SMap.get 0 s.clusterPart cluster * 64 + m.field 55 40

/-- Whether the ring of a monitor's context still holds its previous snapshot (R375). -/
def snapshotHeld (s : State) (cluster mon : Nat) (m : Monitor) : Bool :=
  match s.ctx? (monitorCtx s cluster m) with
  | none => false
  | some x => (x.ring 2).held.any fun r =>
      r.getD 0 0 = 0x21 && bitsOf (r.getD 3 0) 4 0 = mon && bitsOf (r.getD 3 0) 11 8 = cluster

/-- One sample of value `x0` at one monitor (R375): a snapshot carries the number as it stands before it rises, and a reset clears the
number too. -/
def takeSample (s : State) (cluster mon x0 : Nat) : State :=
  let k := cluster * 32 + mon
  let m := s.monitor k
  let x := min x0 (2 ^ 32 - 1)
  let m1 := { m with minimum := min m.minimum x, maximum := max m.maximum x, count := (m.count + 1) % 2 ^ 64,
                     bins := listModify m.bins (binOf (m.field 20 16) x) fun b => min (b + 1) (2 ^ 32 - 1) }
  let snap := m.field 39 32
  if snap != 0 && m1.count % 2 ^ snap = 0 then
    let due := if snapshotHeld s cluster mon m then m.due else m.due ++ snapshotRecs cluster mon m1 m.number
    let m2 := { m1 with number := (m.number + 1) % 2 ^ 32, due := due }
    s.setMonitor k fun _ => if m.field 56 56 = 1 then m2.clear else m2
  else s.setMonitor k fun _ => m1

/-- A sample of a source on a core for a context's thread, at every monitor that selects it (R373, R374). -/
def sample (s : State) (core ctx source x : Nat) : State :=
  (upTo 32).foldl (fun s mon =>
    let cl := clusterOf core
    let m := s.monitor (cl * 32 + mon)
    if m.field 63 63 = 1 && m.field 7 0 = source && (m.field 31 24 = core % 16 || m.field 31 24 = 0xFF)
      && monitorCtx s cl m = ctx then takeSample s cl mon x else s) s

/-- An item of the capture state, for a thread of context `ctx` (R102, R375). -/
def monitorItem (s : State) (core ctx : Nat) (pmsel : Word) : DWord :=
  let cl := clusterOf core
  let m := s.monitor (cl * 32 + (pmsel.extractLsb' 0 5).toNat)
  let item := (pmsel.extractLsb' 5 6).toNat
  if monitorCtx s cl m != ctx then 0#64
  else BitVec.ofNat 64 (match item with
    | 0 => m.minimum
    | 1 => m.maximum
    | n + 2 => if n < 32 then m.bins.getD n 0 else if n = 32 then m.count else 0)

end Sys2Proof.Machine
end

