-- ==== Sys2Proof/Machine/System.lean ====
section
/-! DEFINITION. The SYS instructions that act on a strand itself: hints (R84 to R86), trap, brk and tret (R171, R172), control
registers (R102, R103, R173), and the waiting and allocation controls (R112, R134 to R138). -/

namespace Sys2Proof.Machine

open Sys2Proof

/-! ### Hint words -/

/-- A hint word issues: its members keep an entry of their own at the next word that carries it (R84, R86). -/
def issueHint (s0 : State) (iss : Issue) : State :=
  (resetDeadlock { s0 with cur := none } iss).setGroup iss.group fun g =>
    (g.join iss.strand (iss.entry.pc + 4#56) (iss.entry.hints ++ [iss.word]) iss.entry.members).setFrontier iss.strand
      Frontier.refill

/-- Execute the word of the current issue as a hint word. -/
def runHint (s : State) : Host.Outcome State Fault Refusal :=
  match s.cur with
  | none => .fault .noIssue
  | some iss => .next (issueHint s iss)

/-- H_IMM (R73, R84). -/
def execHImm (_f : HintOps) (s : State) : Host.Outcome State Fault Refusal := runHint s

/-- H_IMX (R73, R84). -/
def execHImx (_f : HintOps) (s : State) : Host.Outcome State Fault Refusal := runHint s

/-- H_KILL (R84, R88). -/
def execHKill (_f : HintOps) (s : State) : Host.Outcome State Fault Refusal := runHint s

/-- H_SCHED (R84, R89). -/
def execHSched (_f : HintOps) (s : State) : Host.Outcome State Fault Refusal := runHint s

/-- H_MOD (R84, R90). -/
def execHMod (_f : HintOps) (s : State) : Host.Outcome State Fault Refusal := runHint s

/-- H_PRED (R84, R91). -/
def execHPred (_f : HintOps) (s : State) : Host.Outcome State Fault Refusal := runHint s

/-! ### Traps -/

/-- The words of an issue's sequence, hints included (R171). -/
def Act.length (a : Act) : Nat := a.iss.entry.hints.length + 1

/-- TRAP (R171). -/
def execTrap (f : TrapOps) (s : State) : Host.Outcome State Fault Refusal :=
  runWord (.trap f) s fun a => a.raise ⟨0x1E0 + f.n.toNat, f.n.toNat, a.length⟩

/-- BRK (R171). -/
def execBrk (f : BrkOps) (s : State) : Host.Outcome State Fault Refusal :=
  runWord (.brk f) s fun a => a.raise ⟨0x1C0, f.code.toNat, a.length⟩

/-- TRET (R172). -/
def execTret (s : State) : Host.Outcome State Fault Refusal :=
  runWord .tret s fun a =>
    let r := fun l => (a.g.thread l).strand a.st
    if a.lanes.any fun l => !(r l).th then a.raise ⟨0x1C1, 0, 0⟩
    else
      let s := (a.kills a.s).setGroup a.gk fun g => a.lanes.foldl (fun g l => g.setStrand a.st l StrandRegs.return) g
      a.settle s fun l => .goto (r l).returnPc

/-! ### Control registers -/

/-- The value of a control register for a lane (R102). -/
def csrValue (s : State) (g : Group) (st : Strand) (l n : Nat) : DWord :=
  let t := g.thread l
  let r := t.strand st
  match n with
  | 0x000 => t.fmode.zeroExtend 64
  | 0x001 => t.f4x.zeroExtend 64
  | 0x010 => r.tcause.zeroExtend 64
  | 0x011 => r.tpc
  | 0x012 => r.tval
  | 0x013 => r.tinfo
  | 0x014 => r.tvec
  | 0x020 => (s.core g.core).cyc
  | 0x030 => BitVec.ofNat 64 ((g.gid * 64 + l) % 2 ^ 32)
  | 0x031 => BitVec.ofNat 64 (g.gid % 2 ^ 32)
  | 0x032 => BitVec.ofNat 64 (match s.team? g.team with
    | some x => x.gid % 2 ^ 32
    | none => 0)
  | 0x033 => BitVec.ofNat 64 (match SMap.find? s.trees g.tree with
    | some x => x.number % 2 ^ 32
    | none => 0)
  | 0x034 => BitVec.ofNat 64 l
  | 0x035 => BitVec.ofNat 64 g.core
  | 0x040 => t.pmsel.zeroExtend 64
  | _ => monitorItem s g.core g.ctx t.pmsel

/-- Whether a control register is read-only (R102). -/
def csrReadOnly (n : Nat) : Bool := [0x020, 0x030, 0x031, 0x032, 0x033, 0x034, 0x035, 0x041].contains n

/-- A thread after a csrw: reserved bits and bits [1:0] of tpc and tvec are ignored and read zero (R54, R102, R173). -/
def Thread.csrWrite (t : Thread) (st : Strand) (n : Nat) (x : DWord) : Thread :=
  let w : Word := x.truncate 32
  match n with
  | 0x000 => { t with fmode := w &&& 0xFC0F#32 }
  | 0x001 => { t with f4x := w }
  | 0x010 => t.setStrand st fun r => { r with tcause := w &&& 0x1FF#32 }
  | 0x011 => t.setStrand st fun r => { r with tpc := x &&& 0x00FFFFFFFFFFFFFC#64 }
  | 0x012 => t.setStrand st fun r => { r with tval := x }
  | 0x013 => t.setStrand st fun r => { r with tinfo := x }
  | 0x014 => t.setStrand st fun r => { r with tvec := x &&& 0x00FFFFFFFFFFFFFC#64 }
  | 0x040 => { t with pmsel := w &&& 0x7FF#32 }
  | _ => t

/-- The register writes of a csrr of value `x` in a lane (R103). -/
def csrResult (st : Strand) (f : CsrOps) (l : Nat) (x : DWord) : List (Nat × DWord) :=
  match st with
  | .addr => [(aCode f.reg.toNat l, x)]
  | .comp =>
    (vCode f.reg.toNat l, (x.extractLsb' 0 32).zeroExtend 64)
      :: (if csrWide f.num.toNat = some true then [(vCode (f.reg.toNat + 1) l, (x.extractLsb' 32 32).zeroExtend 64)] else [])

/-- A csrr of pmval, the slow register: its destination is empty until the monitor block replies (R103, R110). -/
def Act.readSlow (a : Act) (f : CsrOps) : State :=
  let codes := (a.lanes.flatMap fun l => (csrResult a.st f l 0#64).map (·.1)).filter fun c => !(0x4000 ≤ c && c < 0x4040)
  a.advance ((a.retire a.s []).setGroup a.gk fun g =>
    { g with empty := codes.foldl (fun e c => SMap.put false e c true) g.empty,
             slow := g.slow ++ a.lanes.map fun l => ⟨a.st, l, f.reg.toNat, (g.thread l).pmsel⟩ })

/-- CSRR (R103, R173). -/
def execCsrr (f : CsrOps) (s : State) : Host.Outcome State Fault Refusal :=
  runWord (.csrr f) s fun a =>
    if f.num = 0x041#12 then a.readSlow f
    else a.complete (a.lanes.flatMap fun l => csrResult a.st f l (csrValue a.s a.g a.st l f.num.toNat))

/-- CSRW (R103, R173). -/
def execCsrw (f : CsrOps) (s : State) : Host.Outcome State Fault Refusal :=
  runWord (.csrw f) s fun a =>
    if csrReadOnly f.num.toNat then a.raise ⟨0x022, f.num.toNat, 0⟩
    else
      let x := fun (l : Nat) => match a.st with
        | .addr => a.a f.reg.toNat l
        | .comp => (if csrWide f.num.toNat = some true then a.v (f.reg.toNat + 1) l else 0#32) ++ a.v f.reg.toNat l
      a.advance ((a.retire a.s []).setGroup a.gk fun g =>
        a.lanes.foldl (fun g l => g.setThread l fun t => t.csrWrite a.st f.num.toNat (x l)) g)

/-- PMVAL_REPLY (R110): the monitor block returns the value of a lane's oldest outstanding csrr of pmval. -/
def execPmvalReply (gk : Nat) (st : Strand) (l : Nat) (s : State) : Host.Outcome State Fault Refusal :=
  .next (match s.group? gk with
    | none => s
    | some g =>
      match g.slow.find? fun r => r.strand = st && r.lane = l with
      | none => s
      | some r =>
        let s := s.setGroup gk fun g => { g with slow := g.slow.erase r }
        deliverAll s gk (csrResult st ⟨BitVec.ofNat 7 r.reg, 0x041#12⟩ l (monitorItem s g.core g.ctx r.pmsel)))

/-! ### Waiting and scheduling -/

/-- SLEEP (R135). -/
def execSleep (f : SleepOps) (s : State) : Host.Outcome State Fault Refusal :=
  runWord (.sleep f) s fun a => if f.n = 0#22 then a.complete [] else a.wait a.s (.sleep f.n.toNat)

/-- NOP (R134). -/
def execNop (s : State) : Host.Outcome State Fault Refusal := runWord .nop s fun a => a.complete []

/-- The ready entries of a strand (R136). -/
def readyIds (s : State) (g : Group) (st : Strand) : List Nat :=
  ((g.frontier st).hw.filter (entryReady s g st)).map (·.id)

/-- YIELD (R136): the entry that then holds the members waits until every other ready entry of the strand has issued. -/
def execYield (s : State) : Host.Outcome State Fault Refusal :=
  runWord .yield s fun a =>
    let ids := readyIds a.s a.g a.st
    (a.complete []).setGroup a.gk fun g => g.setFrontier a.st fun f => f.map fun e =>
      if e.members.contains a.lead then { e with yieldFor := ids.filter (· != e.id) } else e

/-! ### Register allocation -/

/-- Whether an older group of the core waits for registers (R113). -/
def olderWaiter (s : State) (g : Group) : Bool :=
  (holdersOn s g.core).any fun p => decide (p.2.order < g.order) && p.2.growWaits

/-- The chunks that a group needs beyond those it holds, to have `v` registers. -/
def Group.extraChunks (g : Group) (v : Nat) : Nat := chunksFor g.vAlloc g.width g.sAlloc |> (chunksFor v g.width g.sAlloc - ·)

/-- The place of an issuing request among those of its group: the place it has waited at, or its cycle with the address strand's
first (R137). -/
def Act.request (a : Act) : Nat :=
  match a.iss.entry.block with
  | .grow _ stamp _ => stamp
  | _ => 2 * (a.s.core a.g.core).cyc.toNat + match a.st with
    | .addr => 0
    | .comp => 1

/-- Whether no request of the group comes before the issuing one (R137). -/
def Act.firstRequest (a : Act) : Bool := a.g.requests.all (a.request < ·)

/-- A group without its v registers from `v` up: their values, their window results and their marks are discarded (R112). -/
def Group.discardAbove (g : Group) (v : Nat) : Group :=
  let keep := fun (c : Nat) => !(64 * v ≤ c && c < 0x4000)
  { g with vAlloc := v,
           regs := g.regs.filter (fun p => keep p.1), bank := g.bank.filter (fun p => keep p.1),
           empty := g.empty.filter (fun p => keep p.1), loose := g.loose.filter (fun p => keep p.1),
           stores := g.stores.filter (fun r => keep r.code),
           winC := g.winC.map (·.filter keep), winA := g.winA.map (·.filter keep) }

/-- A group whose allocation has grown to `v`: the new registers read zero and are full (R112). -/
def Group.growTo (g : Group) (v : Nat) : Group := { g.discardAbove g.vAlloc with vAlloc := v }

/-- RGROW (R112, R113, R137). -/
def execRgrow (f : GrowOps) (s : State) : Host.Outcome State Fault Refusal :=
  runWord (.rgrow f) s fun a =>
    let v := a.g.vAlloc + 8 * f.k.toNat
    let chunks := chunksFor v a.g.width a.g.sAlloc
    if 128 < v || regCapacity (a.s.core a.g.core) < chunks then a.raise ⟨0x041, f.k.toNat, chunks⟩
    else if a.firstRequest && (a.g.extraChunks v = 0
        || (!olderWaiter a.s a.g && decide (a.g.extraChunks v ≤ freeChunks a.s a.g.core))) then
      a.advance ((a.retire a.s []).setGroup a.gk fun g => g.growTo v)
    else a.wait a.s (.grow f.k.toNat a.request false)

/-- RSHRINK (R112, R137). -/
def execRshrink (f : GrowOps) (s : State) : Host.Outcome State Fault Refusal :=
  runWord (.rshrink f) s fun a =>
    let k := f.k.toNat
    if a.g.vAlloc < 8 * k + 8 then a.raise ⟨0x042, k, a.g.vAlloc⟩
    else if a.firstRequest && (a.g.owedAbove k).isEmpty then
      a.advance ((a.retire a.s []).setGroup a.gk fun g => g.discardAbove (g.vAlloc - 8 * k))
    else a.wait a.s (.grow k a.request true)

/-- The empty registers of a strand's own kind, in every lane (R138). -/
def Group.emptyOwned (g : Group) (st : Strand) : List Nat :=
  (g.empty.filter fun p => match st with
    | .comp => p.1 < 0x4000
    | .addr => 0x4000 ≤ p.1 && p.1 < 0x6000).map (·.1)

/-- RSYNC (R138). -/
def execRsync (s : State) : Host.Outcome State Fault Refusal :=
  runWord .rsync s fun a =>
    let codes := a.g.emptyOwned a.st
    if codes.isEmpty then
      a.advance ((a.retire a.s []).setGroup a.gk fun g => g.flushWindow a.st)
    else a.wait a.s (.rsync codes)

/-- SLEEP_EXPIRY (R135): a sleep whose count has run out ends. -/
def execSleepExpiry (gk : Nat) (st : Strand) (id : Nat) (s : State) : Host.Outcome State Fault Refusal :=
  .next (match s.group? gk with
    | none => s
    | some g =>
      match g.entry? st id with
      | some e => if e.block = .sleep 0 then s.setGroup gk fun g => g.completeEntry st e [] else s
      | none => s)

/-- Grant the oldest request of a group: the registers read zero and are full, and its entry goes on; a request that has become
too large opens its entry to issue again (R112, R137). -/
def grantTo (s : State) (gk : Nat) (g : Group) : State :=
  let find := fun (st : Strand) => (g.frontier st).entries.findSome? fun e => match e.block with
    | .grow k stamp false => if leastOf g.requests = some stamp then some (st, e, k) else none
    | _ => none
  match (find .comp).or (find .addr) with
  | none => s
  | some (st, e, k) =>
    let v := g.vAlloc + 8 * k
    if 128 < v || regCapacity (s.core g.core) < chunksFor v g.width g.sAlloc then
      s.setGroup gk fun g => g.undo st e
    else if g.extraChunks v ≤ freeChunks s g.core then
      s.setGroup gk fun g => (g.completeEntry st e []).growTo v
    else s

/-- REG_GRANT (R113): free chunks go to the register waiter that entered RESIDENT first. -/
def execRegGrant (core : Nat) (s : State) : Host.Outcome State Fault Refusal :=
  let ws := (holdersOn s core).filter fun p => p.2.growWaits
  .next (match ws.foldl (fun best p => match best with
      | none => some p
      | some b => if p.2.order < b.2.order then some p else some b) (none : Option (Nat × Group)) with
    | none => s
    | some p => grantTo s p.1 p.2)

end Sys2Proof.Machine
end

