-- ==== Sys2Proof/Machine/Clock.lean ====
section
/-! DEFINITION. The cycles of a core's clock and what counts them (R23, R25, R27, R34, R35, R135, R165, R356, R372). -/

namespace Sys2Proof.Machine

open Sys2Proof

/-- The queue that a blocked strand of a thread waits on, where only the other strand can unblock it (R23). The thread's own queue must
hold it up, not that of another member of its entry. -/
def Group.queueWait (g : Group) (st : Strand) (l : Nat) : Option Nat :=
  match ((g.entryOf st l).filter fun e => (e.acting g st).contains l).map Entry.block with
  | some (.pop q n) => if fillerOf q = st || n ≤ (g.thread l).queueLen q then none else some q
  | some (.push q n) =>
    let room := if q = 0 then g.hasRoom n l else decide ((g.thread l).queueLen q + n ≤ queueCap q)
    if emptierOf q = st || room then none else some q
  | some (.stt _) => if (g.thread l).qsd.isEmpty then some 3 else none
  | _ => none

/-- The queues on which the two strands of a thread wait for each other (R23). -/
def Group.deadlocked (g : Group) (l : Nat) : Option (Nat × Nat) :=
  match g.queueWait .comp l, g.queueWait .addr l with
  | some c, some a => some (c, a)
  | _, _ => none

/-- One cycle of an entry: its wait age while it is ready or spilled, its sleep count, its count to the next poll
(R25, R27, R135, R356). -/
def ageEntry (ready : Bool) (e : Entry) : Entry :=
  { e with
    age := if ready then e.age + 1 else e.age
    block := match e.block with
      | .sleep n => .sleep (n - 1)
      | .event name scope (some p) => .event name scope (some (p - 1))
      | b => b }

/-- One cycle of a frontier of a group. The entries in which the chosen one goes on do not age while its instruction holds the issue slot;
every other ready one does (R25, R26). -/
def ageFrontier (s : State) (g : Group) (st : Strand) : Frontier :=
  let f := g.frontier st
  let other := fun (e : Entry) => f.beats = 0 || !f.held.contains e.id
  { f with
    hw := f.hw.map fun e => ageEntry (other e && entryReady s g st e) e,
    spill := f.spill.map fun e => ageEntry (other e) e,
    turn := if f.spill.isEmpty then 0 else f.turn + 1,
    beats := f.beats - 1 }

/-- One cycle of the deadlock counts: neither strand in its handler (R23, R165). -/
def Group.countDeadlock (g : Group) : Group :=
  (upTo g.width).foldl (fun g l =>
    let t := g.thread l
    if t.comp.th || t.addr.th || (g.deadlocked l).isNone then g
    else g.setThread l fun t => { t with deadlock := min (t.deadlock + 1) (2 ^ 20) }) g

/-- One cycle of a group on its core: RESIDENT groups age; waiting ones wait; the slots of a DRAINING group are held for the beats of its
last instructions (R25, R26, R34, R35). -/
def ageGroup (s : State) (g : Group) : Group :=
  match g.status with
  | .resident =>
    { g with frC := ageFrontier s g .comp, frA := ageFrontier s g .addr, resided := g.resided + 1,
             idle := g.idle + 1 }.countDeadlock
  | .pending => { g with waited := g.waited + 1 }
  | .parked => { g with waited := g.waited + 1, frA := g.frA.map (ageEntry false) }
  | .draining => { g with frC := { g.frC with beats := g.frC.beats - 1 }, frA := { g.frA with beats := g.frA.beats - 1 } }

/-- One cycle of a core (R372): its clock, and its groups where their context runs; entries that cannot begin close with what they wait
for, and keep their ages (R24, R25, R37). (DESIGN CHOICE, log entry 9.) -/
def coreTick (s : State) (core : Nat) : State :=
  let runs := fun (c : Nat) => match s.ctx? c with
    | some x => decide (x.status = .running)
    | none => false
  let s1 := s.setCore core fun c => { c with cyc := c.cyc + 1#64 }
  { s1 with groups := s1.groups.map fun p =>
      (p.1, if p.2.core = core && runs p.2.ctx then ageGroup s (closeBoth s p.2) else p.2) }

/-- CORE_CYCLE (R372). -/
def execCoreCycle (core : Nat) (s : State) : Host.Outcome State Fault Refusal := .next (coreTick s core)

/-- TURN_TIMER_EXPIRY (R25, R28): a ready entry has waited longer than the turn timer. The next issue slot of the core goes to the group
that R28 chooses: one whose entry has waited so, the longest first. -/
def execTurnTimerExpiry (gk : Nat) (st : Strand) (s : State) : Host.Outcome State Fault Refusal :=
  .next (match s.group? gk with
    | none => s
    | some g =>
      if (candidates s g st).any fun e => decide (2 ^ (8 + g.kernel.turn) < e.age) then
        match nextIssuer s g.core st with
        | some k => { s with agenda := .issue k st :: s.agenda }
        | none => s
      else s)

/-- The hardware entry of the lowest priority, and of equal priorities the highest PC (R27). -/
def lowestEntry (g : Group) (st : Strand) (es : List Entry) : Option Entry :=
  bestEntry (fun a b => entryPrio g st a < entryPrio g st b
    || (entryPrio g st a = entryPrio g st b && b.pc.toNat < a.pc.toNat)) es

/-- Whether a strand of a group is due for an exchange with its spill list (R27). -/
def Group.exchangeDue (g : Group) (st : Strand) : Bool :=
  let f := g.frontier st
  g.status = .resident && !f.spill.isEmpty && !f.hw.isEmpty && decide (2 ^ (8 + g.kernel.turn) ≤ f.turn)

/-- FRONTIER_SPILL_EXCHANGE (R27). -/
def execFrontierSpillExchange (gk : Nat) (st : Strand) (s : State) : Host.Outcome State Fault Refusal :=
  .next (s.setGroup gk fun g =>
    let f := g.frontier st
    match f.spill, lowestEntry g st f.hw with
    | h :: rest, some e =>
      if g.exchangeDue st then
        g.setFrontier st fun f =>
          { f with hw := (f.hw.filter fun x => x.id != e.id) ++ [h], spill := rest ++ [e], turn := 0 }
      else g
    | _, _ => g)

/-- DEADLOCK_COUNT (R23): a thread whose count has reached 2^20 takes STRAND_DEADLOCK in its compute strand. -/
def execDeadlockCount (gk l : Nat) (s : State) : Host.Outcome State Fault Refusal :=
  .next (match s.group? gk with
    | none => s
    | some g =>
      match g.deadlocked l, g.entryOf .comp l with
      | some (c, a), some e =>
        if (g.thread l).deadlock = 2 ^ 20 then
          trapAsync (s.setGroup gk fun g => g.setThread l fun t => { t with deadlock := 0 }) gk .comp e.seqPc
            [(l, ⟨0x061, c + 4 * a, 0⟩)]
        else s
      | _, _ => s)

/-- SWAP_THRESHOLD (R35): a group becomes eligible for parking under (b) when it has not issued, and under (c) when it has been
RESIDENT, for the swap threshold. -/
def execSwapThreshold (gk : Nat) (s : State) : Host.Outcome State Fault Refusal :=
  .next (s.setGroup gk fun g =>
    match s.ctx? g.ctx with
    | none => g
    | some x => { g with idleDue := decide (2 ^ x.swap ≤ g.idle), residedDue := decide (2 ^ x.swap ≤ g.resided) })

/-- ADMISSION_WAIT_LIMIT (R34): a group that has waited 2^20 cycles takes first place. -/
def execAdmissionWaitLimit (gk : Nat) (s : State) : Host.Outcome State Fault Refusal :=
  .next (s.setGroup gk fun g =>
    { g with waitDue := decide (2 ^ 20 ≤ g.waited) && (g.status = .pending || g.status = .parked) })

end Sys2Proof.Machine
end

