-- ==== Sys2Proof/Machine/Windows.lean ====
section
/-! DEFINITION. The windows of the top 4 GiB: which accesses are allowed there (R192, R227), the register aperture (R106, R109), and the
banks of FIFO mode (R323, R324). -/

namespace Sys2Proof.Machine

open Sys2Proof

/-! ### Who may reach what -/

/-- Who reaches for a window address: the columns of R192, and a plain read of a block in memory that an instruction makes, such as that of
a descriptor (R209, R218). -/
inductive Reacher where
  | load
  | plain
  | store
  | atomic
  | ldl
  | stl
  | copyFrom
  | copyTo
  deriving DecidableEq, Repr

/-- Whether R192 allows a bank of a mode to a reacher. A FIFO bank is read by ldq, lda and ldl alone (R324). -/
def modeAllows (mode : Nat) (cluster : Bool) (r : Reacher) : Bool :=
  match mode with
  | 1 => !cluster || r = .copyFrom || r = .copyTo
  | 3 => if cluster then r = .copyTo else r = .load || r = .ldl || r = .copyTo
  | _ => false

/-- The directory place of the segment of context `c` that holds a bank (R227). -/
def segmentAt (s : State) (c core bank : Nat) : Option Nat :=
  match s.ctx? c with
  | none => none
  | some x => (x.segments.find? fun p => p.2.holds core bank).map (·.1)

/-- Whether a context holds a core (R185). R192 refuses what another context holds; the banks of a core that none holds belong to no one
(R185) and are out of reach likewise, so that what a context leaves in a bank is never another's to read (R204; DEDUCED, log entry 46). -/
def holdsCore (s : State) (core c : Nat) : Bool := (s.core core).ctx = some c

/-- Why a group may not reach one byte of a bank: 0x0A1 WINDOW_UNBACKED or 0x105 SEGMENT_RANGE (R192, R227). -/
def bankCause (s : State) (c : Nat) (attach : List Nat) (r : Reacher) (core addr : Nat) (cluster : Bool) : Option Nat :=
  let bank := addr / 65536
  if !holdsCore s core c || !modeAllows (bankMode (s.core core) bank) cluster r then some 0x0A1
  else match segmentAt s c core bank with
    | some k => if attach.contains k then none else some 0x105
    | none => none

/-! ### The register aperture -/

/-- The bits of byte `off` of a group's window image, lowest first: register codes with bit numbers (R105). None where the byte
holds no allocated register. -/
def Group.imageBits (g : Group) (off : Nat) : Option (List (Nat × Nat)) :=
  let w := g.width
  let bits := fun (code byte : Nat) => some ((upTo 8).map fun i => (code, 8 * byte + i))
  if off < 0x8000 then
    let k := off / 4
    if k / w < g.vAlloc then bits (vCode (k / w) (k % w)) (off % 4) else none
  else if off < 0xC000 then
    let k := (off - 0x8000) / 8
    if k / w < 32 then bits (aCode (k / w) (k % w)) (off % 8) else none
  else if off < 0xC400 then
    let k := (off - 0xC000) / 4
    if k < g.sAlloc || (80 ≤ k && k < 80 + g.sAlloc) then bits (sCode k) (off % 4) else none
  else if off < 0xC480 then
    let k := (off - 0xC400) % 0x40 / 8
    let st : Strand := if off < 0xC440 then .comp else .addr
    let first := off % 8 * 8
    if first < w then some ((upTo 8).map fun i => (pCode st k (first + i), 0)) else none
  else none

/-- Byte `off` of the banks under a group's window. -/
def Group.imageByte (g : Group) (off : Nat) : Byte :=
  match g.imageBits off with
  | none => 0#8
  | some bs => BitVec.ofNat 8 ((upTo 8).foldl (fun n i =>
      let b := bs.getD i (0, 0)
      if (SMap.get 0#64 g.bank b.1).getLsbD b.2 then n + 2 ^ i else n) 0)

/-- A 64-bit word with one bit set to `b`. -/
def setBit (x : DWord) (n : Nat) (b : Bool) : DWord :=
  if b then x ||| (1#64 <<< n) else x &&& ~~~(1#64 <<< n)

/-- The strand that owns a register: compute for v, its predicates and scalars 80 up, else address (R101). -/
def ownerOf (code : Nat) : Strand :=
  if code < 0x4000 then .comp
  else if code < 0x6000 then .addr
  else if code < 0x7000 then (if code < sCode 80 then .addr else .comp)
  else if code < 0x7400 then .comp
  else .addr

/-- The entries that stand in the strand queues of a group. -/
def Group.queued (g : Group) : List (Nat × Nat × Nat) :=
  (upTo g.width).flatMap fun l => (upTo 4).map fun q => (l, q, (g.thread l).queueLen q)

/-- A store to byte `off` of the banks under a group's window: the bank bytes change at once, and an instruction sees the value only
after a pop of a value pushed after the store (R109). -/
def Group.setImageByte (g : Group) (off : Nat) (x : Byte) : Group :=
  match g.imageBits off with
  | none => g
  | some bs => (upTo 8).foldl (fun g i =>
      let b := bs.getD i (0, 0)
      let y := setBit (SMap.get 0#64 g.bank b.1) b.2 (x.getLsbD i)
      if 0x4000 ≤ b.1 && b.1 < 0x4040 then g
      else { g with bank := SMap.put 0#64 g.bank b.1 y,
                    stores := g.stores.filter (fun r => r.code != b.1 || r.ahead != g.queued) ++ [⟨b.1, y, g.queued⟩] }) g

/-- An aperture store comes into sight: its value is the register's architectural value or, where a result for the register stands in
its owner's window, a read may return either (R109). -/
def Group.sight (g : Group) (r : Unseen) : Group :=
  if (g.window (ownerOf r.code)).any (·.contains r.code) then { g with loose := SMap.put false g.loose r.code true }
  else { g with regs := SMap.put 0#64 g.regs r.code r.value, loose := SMap.put false g.loose r.code false }

/-- Lanes pop `n` entries of queue `q` each: the aperture stores after which an entry popped was pushed come into sight, and fewer
entries stand ahead of the others (R109). -/
def Group.handOver (g : Group) (q n : Nat) (lanes : List Nat) : Group :=
  let mine := fun (p : Nat × Nat × Nat) => lanes.contains p.1 && p.2.1 == q
  let due := fun (r : Unseen) => r.ahead.any fun p => mine p && decide (p.2.2 < n)
  let left := (g.stores.filter fun r => !due r).map fun r =>
    { r with ahead := r.ahead.map fun p => if mine p then (p.1, p.2.1, p.2.2 - n) else p }
  { (g.stores.filter due).foldl Group.sight g with stores := left }

/-- A load of bytes through the aperture. -/
def Group.imageRead (g : Group) (off n : Nat) : List Byte := (upTo n).map fun i => g.imageByte (off + i)

/-- A store of bytes through the aperture. -/
def Group.imageWrite (g : Group) (off : Nat) (bs : List Byte) : Group :=
  (upTo bs.length).foldl (fun g i => g.setImageByte (off + i) (bs.getD i 0#8)) g

/-! ### FIFO banks -/

/-- The relative slot of a byte offset of a FIFO bank's views (R324). -/
def fifoSlot (off : Nat) : Nat := off % 0x8000 / 32

/-- Whether an offset lies in the consume view (R324). -/
def fifoConsumes (off : Nat) : Bool := 0x8000 ≤ off

/-- Read bytes of a FIFO bank through a view (R324). -/
def fifoRead (s : State) (core bank off n : Nat) : List Byte :=
  let f := fifoOf s core bank
  (upTo n).flatMap fun i =>
    let o := off + i
    lsRead s core (bank * 65536 + (f.head + fifoSlot o) % 2048 * 32 + o % 32) 1

/-- Change the counters of a FIFO bank. -/
def setFifo (s : State) (core bank : Nat) (f : Fifo → Fifo) : State :=
  s.setCore core fun c => { c with fifos := SMap.put {} c.fifos bank (f (SMap.get {} c.fifos bank)) }

/-- A step at a FIFO bank consumes `n` slots (R324). -/
def fifoConsume (s : State) (core bank n : Nat) : State :=
  setFifo s core bank fun f => { f with head := (f.head + n) % 2048, filled := f.filled - n }

/-- Whether a FIFO bank has no free slot (R323). -/
def fifoFull (s : State) (core bank : Nat) : Bool := 2048 ≤ (fifoOf s core bank).filled

/-- An item of bytes at its offset within a sector enters the tail slot, the slot's other bytes zero (R323). -/
def fifoPush (s : State) (core bank off : Nat) (bs : List Byte) : State :=
  let f := fifoOf s core bank
  let slot := List.replicate (off % 32) 0#8 ++ bs ++ List.replicate (32 - off % 32 - bs.length) 0#8
  setFifo (lsWrite s core (bank * 65536 + f.tail * 32) slot) core bank fun f =>
    { f with tail := (f.tail + 1) % 2048, filled := f.filled + 1 }

end Sys2Proof.Machine
end

