-- ==== Sys2Proof/Machine/Barriers.lean ====
section
/-! DEFINITION. Transaction barriers: their layout, steps, waiters (R363 to R369) and the barrier instructions. -/

namespace Sys2Proof.Machine

open Sys2Proof

/-- A transaction barrier (R363). `low` is bits [7:0], `reserved` bits [63:56]. -/
structure Bar where
  tag      : Nat
  sectors  : Nat
  reserved : Nat
  reload   : Nat
  arrivals : Nat
  low      : Nat
  deriving DecidableEq, Repr

/-- The barrier that 16 bytes hold (R363). -/
def barOf (x : Nat) : Bar :=
  ⟨bitsOf x 127 96, bitsOf x 95 64, bitsOf x 63 56, bitsOf x 55 32, bitsOf x 31 8, bitsOf x 7 0⟩

/-- The 16 bytes of a barrier. -/
def Bar.value (b : Bar) : Nat :=
  b.tag * 2 ^ 96 + b.sectors * 2 ^ 64 + b.reserved * 2 ^ 56 + b.reload * 2 ^ 32 + b.arrivals * 2 ^ 8 + b.low

/-- The barrier at a byte of a core's banks. -/
def barAt (s : State) (core addr : Nat) : Bar := barOf (natOfBytes (lsRead s core addr 16))

/-- Write a barrier. -/
def putBar (s : State) (core addr : Nat) (b : Bar) : State := lsWrite s core addr (bytesOfNat b.value 16)

/-- The completed phases modulo 16. -/
def Bar.phase (b : Bar) : Nat := b.low % 16

/-- Set bit 4 fault-marked, or bit 5 cancelled-seen. -/
def Bar.mark (b : Bar) (bit : Nat) : Bar := if b.low.testBit bit then b else { b with low := b.low + 2 ^ bit }

/-- What a step does: expects sectors, then counts arrivals, then counts sectors down (R365). -/
structure BarStep where
  expect : Nat := 0
  arrive : Nat := 0
  down   : Nat := 0
  fault  : Bool := false
  cancel : Bool := false
  deriving DecidableEq, Repr

/-- Expect sectors; the second component is 2 where the count would pass 2^32 - 1 (R365). -/
def Bar.expect (b : Bar) (n : Nat) : Bar × Nat :=
  if 2 ^ 32 ≤ b.sectors + n then (b.mark 4, 2) else ({ b with sectors := b.sectors + n }, 0)

/-- Count arrivals; 1 where the count would fall below zero (R365). -/
def Bar.arrive (b : Bar) (n : Nat) : Bar × Nat :=
  if b.arrivals < n then ({ b with arrivals := 0 }.mark 4, 1) else ({ b with arrivals := b.arrivals - n }, 0)

/-- Count sectors down; 2 where the count would fall below zero (R365). -/
def Bar.down (b : Bar) (n : Nat) : Bar × Nat :=
  if b.sectors < n then ({ b with sectors := 0 }.mark 4, 2) else ({ b with sectors := b.sectors - n }, 0)

/-- The phase completes when nothing is pending (R365). -/
def Bar.check (b : Bar) : Bar :=
  if b.arrivals = 0 && b.sectors = 0 then
    { b with arrivals := b.reload, low := (b.low + 1) % 16 + bitsOf b.low 5 4 * 64 }
  else b

/-- A barrier after a step, and the tinfo of BARRIER_UNDERFLOW or 0 (R365). -/
def Bar.step (b : Bar) (st : BarStep) : Bar × Nat :=
  let b0 := if st.fault then b.mark 4 else b
  let b0 := if st.cancel then b0.mark 5 else b0
  let x := b0.expect st.expect
  let y := x.1.arrive st.arrive
  let z := y.1.down st.down
  (z.1.check, if x.2 != 0 then x.2 else if y.2 != 0 then y.2 else z.2)

/-- The waiting entries of a group at a barrier whose phase has left theirs (R365). -/
def Group.freed (g : Group) (core addr phase : Nat) : List (Entry × Nat) :=
  g.frA.entries.filterMap fun e => match e.block with
    | .barrier c a p d none => if c = core && a = addr && p != phase then some (e, d) else none
    | _ => none

/-- Release the waiters of one group: each continues with the barrier's low byte in its register, or, while the group is parked,
keeps the byte until readmission (R365, R367, R369). -/
def Group.freeWaiters (g : Group) (core addr : Nat) (b : Bar) : Group :=
  (g.freed core addr b.phase).foldl (fun g w =>
    if g.status = .parked then g.setBlock .addr w.1.id (.barrier core addr b.phase w.2 (some b.low))
    else g.completeEntry .addr w.1 (w.1.members.map fun l => (aCode w.2 l, BitVec.ofNat 64 b.low))) g

/-- An acquire at team scope drops the L1 of a team that spans a core pair (R252, R368). -/
def teamAcquire (s : State) (g : Group) : State :=
  if beyondCore 2 (pairOf s g) then l1Invalidate s g.core else s

/-- Release every waiter whose awaited phase differs; each acquires at team scope (R365, R368). -/
def releaseWaiters (s : State) (core addr : Nat) : State :=
  let b := barAt s core addr
  let free := s.groups.filter fun p => !(p.2.freed core addr b.phase).isEmpty
  free.foldl (fun s p => (teamAcquire s p.2).setGroup p.1 fun g => g.freeWaiters core addr b) s

/-- One step at a barrier: its bytes, its waiters, and the tinfo of BARRIER_UNDERFLOW or 0 (R365). -/
def barStep (s : State) (core addr : Nat) (st : BarStep) : State × Nat :=
  let r := (barAt s core addr).step st
  (releaseWaiters (putBar s core addr r.1) core addr, r.2)

/-! ### The barrier instructions -/

/-- The identity of a group's team. -/
def teamId (s : State) (g : Group) : Nat :=
  match s.team? g.team with
  | some t => t.gid
  | none => 0

/-- The bank byte of a barrier in an SCR bank that a window address reaches, or the cause that refuses it (R364). -/
def barrierPlace (s : State) (g : Group) (va : Nat) : Except Nat (Nat × Nat) :=
  match placeOf s g.core g.team va with
  | .bank core addr false =>
    match bankCause s g.ctx g.attach .atomic core addr false with
    | none => .ok (core, addr)
    | some 0x105 => .error 0x105
    | some _ => .error 0x182
  | _ => .error 0x182

/-- Check the barrier an instruction names (R364). -/
def Act.barrier (a : Act) (va : Nat) (owned : Bool) : Except Cause (Nat × Nat) :=
  if va % 16 != 0 then .error ⟨0x0A0, va, 16⟩
  else match barrierPlace a.s a.g va with
    | .error c => .error ⟨c, va, 0⟩
    | .ok (core, addr) =>
      let tag := (barAt a.s core addr).tag
      if owned && (tag = 0 || tag / 2 ^ 16 % 2 ^ 15 != treeNumber a.s a.g % 2 ^ 15) then .error ⟨0x181, va, tag⟩
      else .ok (core, addr)

/-- A barrier instruction: the check of its address, its wait for the accesses that order it behind them, those to the barrier's own bytes
among them, the check of the barrier's tag, then its act (R248, R249, R364, R368). -/
def Act.atBarrier (a : Act) (va : Nat) (owned release : Bool) (f : Act → Nat → Nat → State) : State :=
  match a.barrier va false with
  | .error c => a.raise c
  | .ok (core, addr) =>
    let touches := fun (x : Access) => x.pieces.any fun p =>
      decide (p.1 < bankPlace core addr + 16) && decide (bankPlace core addr < p.1 + p.2)
    let ids := waitsBefore a.g.accs a.lanes true release false
      ++ (a.g.accs.filter fun x => !x.performed && a.lanes.contains x.lane && touches x).map (·.id)
    if !ids.isEmpty then a.wait a.s (.accesses ids)
    else match a.barrier va owned with
      | .error c => a.raise c
      | .ok _ =>
        let s := if release then passOn a.s a.g.core (beyondCore 2 (pairOf a.s a.g)) else a.s
        f { a with s := s } core addr

/-- A step that an instruction takes: BARRIER_UNDERFLOW is raised in every member after it (R365, R367). -/
def Act.stepAt (a : Act) (va core addr : Nat) (st : BarStep) : State :=
  let r := barStep a.s core addr st
  if r.2 = 0 then a.advance (a.retire r.1 []) else a.settle r.1 fun _ => .trap ⟨0x180, va, r.2⟩

/-- TBINIT (R367). -/
def execTbinit (f : XabOps) (s : State) : Host.Outcome State Fault Refusal :=
  runWord (.tbinit f) s fun a =>
    let va := (a.a f.aa.toNat a.lead).toNat
    let reload := (a.a f.ab.toNat a.lead).toNat % 2 ^ 24
    a.atBarrier va false false fun a core addr =>
      let tag := 2 ^ 31 + treeNumber a.s a.g % 2 ^ 15 * 2 ^ 16 + teamId a.s a.g % 2 ^ 16
      a.advance (a.retire (releaseWaiters (putBar a.s core addr ⟨tag, 0, 0, reload, reload, 0⟩) core addr) [])

/-- TBARV (R367). -/
def execTbarv (f : TbarvOps) (s : State) : Host.Outcome State Fault Refusal :=
  runWord (.tbarv f) s fun a =>
    let va := (a.a f.aa.toNat a.lead).toNat
    a.atBarrier va true true fun a core addr => a.stepAt va core addr { arrive := f.k.toNat }

/-- TBARV_LANES (R367). -/
def execTbarvLanes (f : XaOps) (s : State) : Host.Outcome State Fault Refusal :=
  runWord (.tbarvLanes f) s fun a =>
    let va := (a.a f.aa.toNat a.lead).toNat
    a.atBarrier va true true fun a core addr => a.stepAt va core addr { arrive := a.lanes.length }

/-- TBEXP (R367). -/
def execTbexp (f : XabOps) (s : State) : Host.Outcome State Fault Refusal :=
  runWord (.tbexp f) s fun a =>
    let va := (a.a f.aa.toNat a.lead).toNat
    let n := (a.a f.ab.toNat a.lead).toNat % 2 ^ 32
    a.atBarrier va true false fun a core addr => a.stepAt va core addr { expect := n }

/-- TBEXP_ARV (R367). -/
def execTbexpArv (f : XabOps) (s : State) : Host.Outcome State Fault Refusal :=
  runWord (.tbexpArv f) s fun a =>
    let va := (a.a f.aa.toNat a.lead).toNat
    let n := (a.a f.ab.toNat a.lead).toNat % 2 ^ 32
    a.atBarrier va true true fun a core addr => a.stepAt va core addr { expect := n, arrive := 1 }

/-- TBWAIT (R367). -/
def execTbwait (f : XabdOps) (s : State) : Host.Outcome State Fault Refusal :=
  runWord (.tbwait f) s fun a =>
    let va := (a.a f.aa.toNat a.lead).toNat
    let p := (a.a f.ab.toNat a.lead).toNat % 16
    a.atBarrier va true false fun a core addr =>
      let b := barAt a.s core addr
      if b.phase != p then
        let s := teamAcquire a.s a.g
        a.advance (a.retire s (a.a1 f.ad fun _ => BitVec.ofNat 64 b.low))
      else a.wait a.s (.barrier core addr p f.ad.toNat none)

end Sys2Proof.Machine
end

