-- ==== Sys2Proof/Machine/Engines.lean ====
section
/-! DEFINITION. What the engines share: how an engine item reaches memory (R192, R257, R264, R433), the life of an engine operation
from acceptance to retirement (R167, R258, R286, R360), and cwait (R361, R362). -/

namespace Sys2Proof.Machine

open Sys2Proof

/-! ### Reach -/

/-- Whom an engine acts for: a group, or a packet of a context (R332), and whether for a stream operation (R89). -/
structure Who where
  ctx    : Nat
  core   : Nat
  team   : Nat
  attach : List Nat
  stream : Bool := false
  deriving DecidableEq, Repr

/-- A group as an engine acts for it. -/
def Group.who (g : Group) : Who := { ctx := g.ctx, core := g.core, team := g.team, attach := g.attach }

/-- After an access of an engine that found the machine at `s` (R89). -/
def Who.streamed (w : Who) (s t : State) : State := if w.stream then streamLines s t else t

/-- Why an engine item cannot be performed. -/
inductive Stop where
  | cause (c : Cause)
  /-- A translation fault: its code, address and access kind (R168). -/
  | replay (code va kind : Nat)
  deriving DecidableEq, Repr

/-- Where an engine item lands. -/
inductive Spot where
  | home (pa : Nat)
  | bank (core addr : Nat)
  | fifo (core bank : Nat)
  deriving DecidableEq, Repr

/-- The partition, TDI of a context. -/
def ctxOwner (s : State) (c : Nat) : Nat × Nat :=
  match s.ctx? c with
  | some x => (x.part, x.tdi)
  | none => (0, 0)

/-- Where an engine reaches one address that no page or bank boundary divides from the rest of its item (R186, R189, R190, R192,
R227). `kind` is 4 for a read and 5 for a write. -/
def engineSpot (s : State) (w : Who) (kind va : Nat) : Except Stop (Spot × State) :=
  if 2 ^ 56 ≤ va then .error (.cause ⟨0x0C3, va, kind⟩)
  else if windowBase ≤ va then
    match placeOf s w.core w.team va with
    | .bank core addr cluster =>
      match bankCause s w.ctx w.attach (if kind = 4 then .copyFrom else .copyTo) core addr cluster with
      | some c => .error (.cause ⟨c, va, 0⟩)
      | none => .ok (if bankMode (s.core core) (addr / 65536) = 3 then .fifo core (addr / 65536) else .bank core addr, s)
    | _ => .error (.cause ⟨0x0A1, va, 0⟩)
  else match translate s w.ctx w.core va kind with
    | .error code => .error (.replay code va kind)
    | .ok (pa, _, s) =>
      match reachCause s w.ctx (ctxOwner s w.ctx).1 (ctxOwner s w.ctx).2 pa with
      | some c => .error (.cause ⟨c, va, 0⟩)
      | none =>
        match poisonAt s pa with
        | some k => if kind = 4 || k != 0 then .error (.cause ⟨0x0A2, va, k⟩) else .ok (.home pa, s)
        | none => .ok (.home pa, s)

/-- The parts of a run of bytes that 32-byte boundaries divide: address and length. -/
def partsOf (va : Nat) (n : Nat) : Nat → List (Nat × Nat)
  | 0 => []
  | fuel + 1 =>
    if n = 0 then []
    else
      let k := min n (32 - va % 32)
      (va, k) :: partsOf (va + k) (n - k) fuel

/-- The spots of the parts of a run, none of them touched yet. -/
def engineSpots (s : State) (w : Who) (kind : Nat) : List (Nat × Nat) → Except Stop (List (Spot × Nat) × State)
  | [] => .ok ([], s)
  | (va, n) :: rest =>
    match engineSpot s w kind va with
    | .error e => .error e
    | .ok (p, s) => match engineSpots s w kind rest with
      | .error e => .error e
      | .ok (ps, s) => .ok ((p, n) :: ps, s)

/-- Resolve a run of bytes for an engine (R192). -/
def engineRun (s : State) (w : Who) (kind va n : Nat) : Except Stop (List (Spot × Nat) × State) :=
  engineSpots s w kind (partsOf va n (n / 32 + 2))

/-- Read the bytes at a spot, at the home slice or the bank (R246, R257). -/
def spotRead (s : State) (p : Spot × Nat) : List Byte × State :=
  match p.1 with
  | .home pa => readHome s pa p.2
  | .bank core addr => (lsRead s core addr p.2, s)
  | .fifo _ _ => (List.replicate p.2 0#8, s)

/-- An engine reads at resolved spots. -/
def spotsRead (s : State) (w : Who) (ps : List (Spot × Nat)) : List Byte × State :=
  let r := ps.foldl (fun (r : List Byte × State) p =>
    let x := spotRead r.2 p
    (r.1 ++ x.1, x.2)) ([], s)
  (r.1, w.streamed s r.2)

/-- An engine that acts for context `c` writes bytes at a spot. A FIFO takes whole items through `fifoPush`. -/
def spotWrite (s : State) (c : Nat) (p : Spot) (bs : List Byte) : State :=
  match p with
  | .home pa => writeFor s (some c) pa bs
  | .bank core addr => lsWrite s core addr bs
  | .fifo _ _ => s

/-- An engine reads a run of bytes. -/
def engineRead (s : State) (w : Who) (va n : Nat) : Except Stop (List Byte × State) :=
  match engineRun s w 4 va n with
  | .error e => .error e
  | .ok (ps, s) => .ok (spotsRead s w ps)

/-- The frames of spots that an engine has written for a context are the context's (R204). -/
def claimSpots (c : Nat) (ps : List Spot) (s : State) : State :=
  claimFrames s (some c) (ps.filterMap fun p => match p with
    | .home pa => some pa
    | _ => none)

/-- Write bytes at resolved spots. -/
def spotsWrite (s : State) (w : Who) (ps : List (Spot × Nat)) (bs : List Byte) : State :=
  claimSpots w.ctx (ps.map (·.1)) (w.streamed s
    (ps.foldl (fun (r : State × List Byte) p => (spotWrite r.1 w.ctx p.1 (r.2.take p.2), r.2.drop p.2)) (s, bs)).1)

/-- An engine writes a run of bytes. -/
def engineWrite (s : State) (w : Who) (va : Nat) (bs : List Byte) : Except Stop State :=
  match engineRun s w 5 va bs.length with
  | .error e => .error e
  | .ok (ps, s) => .ok (spotsWrite s w ps bs)

/-- A little-endian number of `n` bytes that an engine reads. -/
def engineNat (s : State) (w : Who) (va n : Nat) : Except Stop (Nat × State) :=
  (engineRead s w va n).map fun r => (natOfBytes r.1, r.2)

/-! ### Operations of a group -/

/-- The next operation of a group's class, with its place in issue order (R258, R286). -/
def Group.addOp (g : Group) (o : Op) : Group :=
  { g with ops := g.ops ++ [{ o with id := g.nextId, seq := g.seqs.getD o.cls 0 }],
           nextId := g.nextId + 1, seqs := listModify g.seqs o.cls (· + 1) }

/-- The earlier reads and window accesses of lanes that an engine's accesses are ordered after (R257). (DEDUCED, log entry 47.) -/
def Group.readsOf (g : Group) (lanes : List Nat) : List Nat :=
  (g.accs.filter fun x => !x.performed && (x.reads || x.pieces.any fun p => isBankPlace p.1) && lanes.contains x.lane).map (·.id)

/-- Accept an engine operation of class `cls` issued by `lanes`, of which the first is told of its failure (R167, R286). A request
arrives at its port or path now (R15; DESIGN CHOICE, log entry 53). -/
def acceptOp (s : State) (gk cls : Nat) (lanes : List Nat) (count barOff : Nat) (kind : OpKind) : State :=
  match s.group? gk with
  | none => s
  | some g =>
    let o : Op := { id := 0, cls := cls, seq := 0, stamp := s.stamp, lane := lanes.headD 0, core := g.core, kind := kind,
                    cyc := (s.core g.core).cyc.toNat, count := count, barOff := barOff, waits := g.readsOf lanes,
                    stream := s.streams }
    { s with stamp := s.stamp + 1 }.setGroup gk fun g => g.addOp o

/-- An operation of a group. -/
def Group.op? (g : Group) (id : Nat) : Option Op := g.ops.find? fun o => o.id = id

/-- Change an operation of a group. -/
def Group.setOp (g : Group) (id : Nat) (f : Op → Op) : Group :=
  { g with ops := g.ops.map fun o => if o.id = id then f o else o }

/-- Forget operations that have retired and whose failure, if any, has been reported, but for those to be recorded as completed
(R167, R258, R429). -/
def Group.forgetOps (g : Group) : Group :=
  { g with ops := g.ops.filter fun o => !(g.retired o && !o.kept && (o.failed.isNone || o.reported)) }

/-- Whether the context of a group is being brought to the boundary of its pre-emption (R175, R384). -/
def Group.leaving (s : State) (g : Group) : Bool :=
  match s.ctx? g.ctx with
  | some x => x.status = .preempting
  | none => false

/-- Whether the accesses of lane `l` that an operation is ordered after have been performed (R257). -/
def Group.laneSettled (g : Group) (o : Op) (l : Nat) : Bool :=
  o.waits.all fun i => g.accs.all fun a => a.id != i || a.lane != l || a.performed

/-- Whether an operation's next access may be made: nothing it is ordered after is still to be performed, and no fault of it is
unanswered (R168, R257). Each item of a cpl has its own issuing thread. -/
def Group.opMayAct (g : Group) (o : Op) : Bool :=
  !o.ended && o.accepted && o.faultIds.isEmpty && match o.kind with
    | .cpl .. => true
    | _ => o.waits.all fun i => g.accs.all fun a => a.id != i || a.performed

/-- The kind code of an operation in engine records (R180). -/
def OpKind.code : OpKind → Nat
  | .cpl .. => 0
  | .copy .. => 1
  | .copyTile .. => 1
  | .pft .. => 2
  | .tload .. => 3
  | .mat op .. => 4 + op
  | .macrd .. => 8
  | .stt .. => 9
  | .ldt .. => 10
  | .vwsync .. => 12
  | .spawn _ => 15

/-- Whether an stt is still popping its values (R175). -/
def Group.popping (g : Group) (id : Nat) : Bool := g.frA.entries.any fun e => e.block = .stt id

/-- The first unfinished item of an operation, and its items, as its engine record gives them: of a cpl the lowest lane left; of an stt the
pop steps while it pops, then its one tile; of a vwsync its view number for the items (R180). -/
def Op.recordItems (g : Group) (o : Op) : Nat × Nat :=
  match o.kind with
  | .vwsync view _ => (0, view)
  | .cpl items .. => (((items.head?).map (·.1)).getD o.count, o.count)
  | .stt .. => if g.popping o.id then (o.next, 256) else (0, 1)
  | _ => (o.next, o.count)

/-- The first six words of an operation's engine record (R180), with its fate and the address of its block image; the barrier is that which
it has bound. -/
def opRecord (g : Group) (o : Op) (fate block : Nat) : List Nat :=
  let code := (o.failed.map (·.code)).getD 0
  let items := o.recordItems g
  let cut := match o.kind with
    | .pft .. => o.ended && o.failed.isNone && decide (o.next < o.count)
    | _ => false
  let w0 := o.kind.code + fate * 2 ^ 4 + (if cut then 2 ^ 6 else 0) + o.cls * 2 ^ 8 + o.lane * 2 ^ 16 + o.core * 2 ^ 24 + g.gid % 2 ^ 32 * 2 ^ 32
  let w1 := o.seq % 2 ^ 32 + code % 512 * 2 ^ 32
  [w0, w1, items.2 + items.1 * 2 ^ 32, block, if o.bars.isEmpty then 0 else o.barOff, o.faultVa]

/-- A failure that no cwait can report any more goes to the error ring (R167, R337). -/
def reportUnread (s : State) (g : Group) (o : Op) : State :=
  ringEmit s g.ctx 3 (mkRec 0x31 0 o.core (opRecord g o 2 0 ++ [0]))

/-- The failures of ended threads are written to the error ring, once each (R167). -/
def reportOrphans (s : State) (gk : Nat) : State :=
  match s.group? gk with
  | none => s
  | some g =>
    let lost := g.ops.filter fun o => o.ended && o.failed.isSome && !o.reported && (g.thread o.lane).ended
    (lost.foldl (fun s o => (reportUnread s g o).setGroup gk fun g =>
      g.setOp o.id fun o => { o with reported := true }) s).setGroup gk Group.forgetOps

/-- An operation ends, in success or with the cause it failed with (R167, R258). The fault address that its records show is that of an
item whose translation faulted; an item that fails with another cause counts as no faulted item and shows 0 (R180; DESIGN CHOICE, log
entry 54). -/
def endOp (s : State) (gk id : Nat) (failed : Option Cause) : State :=
  reportOrphans (s.setGroup gk fun g => g.setOp id fun o =>
    { o with ended := true, failed := failed, faultIds := [], faultVa := if failed.isSome then o.faultVa else 0, kept := g.leaving s }) gk

/-- A fatal cause met by an operation ends its context (R161, R203). -/
def opFatal (s : State) (g : Group) (o : Op) (c : Cause) : State :=
  contextFatal s g.ctx c { core := o.core, gid := g.gid, lane := o.lane, strand := 1 }

/-- A translation fault of an operation is reported and the operation waits for the answer (R168). -/
def opFault (s : State) (gk : Nat) (g : Group) (o : Op) (code va kind : Nat) : State :=
  let r := reportFault s g.ctx code va kind
    { groupSite s g o.lane 1 with core := o.core }
  r.1.setGroup gk fun g => g.setOp o.id fun o => { o with faultIds := [r.2], faultVa := va }

/-! ### cwait -/

/-- The oldest unreported failure that a cwait of class `cls` with bound `n` may report (R362). -/
def Group.failure (g : Group) (cls n : Nat) : Option Op :=
  g.ops.find? fun o => o.cls = cls && o.ended && o.failed.isSome && !o.reported && o.seq + n < g.seqs.getD cls 0

/-- CWAIT (R362). In the thread that takes a cause the instruction has no effect, its hints' kills included (R88, R163). -/
def execCwait (f : CwaitOps) (s : State) : Host.Outcome State Fault Refusal :=
  runWord (.cwait f) s fun a =>
    let cls := f.cls.toNat
    let n := f.n.toNat
    if n < a.g.count cls then a.wait a.s (.counter cls n)
    else
      let hit := (a.g.failure cls n).filter fun o => a.lanes.contains o.lane
      let s := match hit with
        | some o => a.s.setGroup a.gk fun g => (g.setOp o.id fun o => { o with reported := true }).forgetOps
        | none => a.s
      let others := a.lanes.filter fun l => hit.all fun o => o.lane != l
      let s := if !others.isEmpty && 3 ≤ f.scope.toNat then l1Invalidate s a.g.core else s
      let s := if others.isEmpty then s else { a with lanes := others }.retire s []
      a.settle s fun l => match hit with
        | some o => if o.lane = l then .trap (o.failed.getD ⟨0, 0, 0⟩) else .goto (a.pc + 4#56)
        | none => .goto (a.pc + 4#56)

end Sys2Proof.Machine
end

