-- ==== Sys2Proof/Machine/Control.lean ====
section
/-! DEFINITION. Branches (R130 to R132) and the end of a strand (R21, R22, R41). -/

namespace Sys2Proof.Machine

open Sys2Proof

/-- A branch: taken members go to `target` with the new block priority, the others to the next word (R130). -/
def Act.branch (a : Act) (prio : BitVec 4) (taken : Nat → Bool) (target : Nat → VAddr) : State :=
  let s := (a.retire a.s []).setGroup a.gk fun g =>
    (a.lanes.filter taken).foldl (fun g l => g.setStrand a.st l fun r => { r with bprio := prio }) g
  a.settle s fun l => .goto (if taken l then target l else a.pc + 4#56)

/-- The target of a displacement in words, which h.imm may extend (R73, R130). -/
def Act.target (a : Act) (disp : BitVec 17) : VAddr :=
  a.pc + BitVec.ofInt 56 (4 * immInt a.iss.entry.hints disp)

/-- BR (R130). -/
def execBr (f : BrOps) (s : State) : Host.Outcome State Fault Refusal :=
  runWord (.br f) s fun a => a.branch f.prio (fun _ => true) fun _ => a.target f.disp

/-- BRT (R130). -/
def execBrt (f : BrpOps) (s : State) : Host.Outcome State Fault Refusal :=
  runWord (.brt f) s fun a => a.branch f.prio (fun l => a.p f.p.toNat l) fun _ => a.target f.disp

/-- BRF (R130). -/
def execBrf (f : BrpOps) (s : State) : Host.Outcome State Fault Refusal :=
  runWord (.brf f) s fun a => a.branch f.prio (fun l => !a.p f.p.toNat l) fun _ => a.target f.disp

/-- The return stack of a lane in the issuing strand. -/
def Act.stack (a : Act) (l : Nat) : List VAddr := ((a.g.thread l).strand a.st).stack

/-- A state in which each acting lane's return stack has changed. -/
def Act.withStacks (a : Act) (f : List VAddr → List VAddr) : Act :=
  { a with s := a.s.setGroup a.gk fun g =>
      a.lanes.foldl (fun g l => g.setStrand a.st l fun r => { r with stack := f r.stack }) g }

/-- CALL (R132). The last element of a stack is its top. -/
def execCall (f : BrOps) (s : State) : Host.Outcome State Fault Refusal :=
  runWord (.call f) s fun a =>
    match a.lanes.find? fun l => 8 ≤ (a.stack l).length with
    | some l => a.raise ⟨0x044, l, 8⟩
    | none => (a.withStacks fun st => st ++ [a.pc + 4#56]).branch f.prio (fun _ => true) fun _ => a.target f.disp

/-- RET (R132). -/
def execRet (f : RetOps) (s : State) : Host.Outcome State Fault Refusal :=
  runWord (.ret f) s fun a =>
    match a.lanes.find? fun l => (a.stack l).isEmpty with
    | some l => a.raise ⟨0x045, l, 0⟩
    | none => (a.withStacks List.dropLast).branch f.prio (fun _ => true) fun l => (a.stack l).getLastD 0#56

/-- JMPS (R130). -/
def execJmps (f : JmpsOps) (s : State) : Host.Outcome State Fault Refusal :=
  runWord (.jmps f) s fun a =>
    a.branch f.prio (fun _ => true) fun _ => a.pc + BitVec.ofInt 56 (4 * (a.sc f.sn.toNat).toInt)

/-! ### exit -/

/-- The other strand. -/
def otherStrand : Strand → Strand
  | .comp => .addr
  | .addr => .comp

/-- Which queues of a thread hold entries (R21). -/
def queueMask (t : Thread) : Nat :=
  (upTo 4).foldl (fun m q => if t.queueLen q = 0 then m else m + 2 ^ q) 0

/-- Whether an exit ends the lane's strand: it is the thread's first, or the queues are empty and nothing is owed to qld (R21). -/
def Act.mayExit (a : Act) (l : Nat) : Bool :=
  !((a.g.thread l).strand (otherStrand a.st)).ended || (queueMask (a.g.thread l) = 0 && !a.g.owes l)

/-- A strand of a lane ends; a thread whose second strand ends, ends; its return stack is discarded (R21, R132). -/
def Group.endStrand (g : Group) (st : Strand) (l : Nat) : Group :=
  let g := g.setStrand st l fun r => { r with ended := true, stack := [] }
  g.setThread l fun t => { t with ended := t.comp.ended && t.addr.ended }

/-- A group whose last thread has ended is DRAINING (R30). -/
def Group.drain (g : Group) : Group :=
  if g.threads.all (·.ended) then { g with status := .draining } else g

/-- EXIT (R21): each member ends its strand or takes QUEUE_NONEMPTY_AT_EXIT; a waiter whose mask names an ended lane takes
LANE_MEMBER_EXITED, of several ended lanes with the lowest (R41; DESIGN CHOICE, log entry 51), and the unreported failures of ended
threads go to the error ring (R167). -/
def execExit (s : State) : Host.Outcome State Fault Refusal :=
  runWord .exit s fun a =>
    let out := a.lanes.filter a.mayExit
    let s := (if out.isEmpty then a.s else { a with lanes := out }.retire a.s []).setGroup a.gk fun g =>
      (out.foldl (fun g l => g.endStrand a.st l) g).drain
    let s := a.settle s fun l => if a.mayExit l then .ended else .trap ⟨0x060, queueMask (a.g.thread l), 0⟩
    reportOrphans (if a.st = .comp then out.foldl (fun s l => laneExited s a.gk l) s else s) a.gk

end Sys2Proof.Machine
end

