-- ==== Sys2Proof/Machine/Reach.lean ====
section
/-! DEFINITION. How a thread's access reaches memory: the checks of R264 over the members of an instruction, the faults of R168,
and the plain reads that an instruction makes on its lowest-numbered member (R209, R218, R246). -/

namespace Sys2Proof.Machine

open Sys2Proof

/-- Where one piece of a thread's access lands. -/
inductive Land where
  /-- Memory; `nl1` where the page keeps its lines out of L1 (R341). -/
  | home (pa n : Nat) (nl1 : Bool)
  | bank (core addr n : Nat)
  | fifo (core bank off n : Nat)
  | image (off n : Nat)
  | page (off n : Nat)
  deriving DecidableEq, Repr

/-- What the checks of R264 find for an access: where it lands, a handled cause, translation faults as (code, page), or a fatal
cause. -/
inductive Check where
  | ok (ls : List Land)
  | cause (c : Cause)
  | fault (fs : List (Nat × Nat))
  | fatal (c : Cause)
  deriving DecidableEq, Repr

/-- A thread's access as R264 checks it: who reaches, access kind, whether it must be naturally aligned, and whether host memory
takes it (R269). -/
structure Reach264 where
  by_   : Reacher
  kind  : Nat
  align : Bool := false
  host  : Bool := true
  deriving DecidableEq, Repr

/-- The pieces of a run of bytes that 16-byte boundaries divide (R247). -/
def piecesOf (va n : Nat) : Nat → List (Nat × Nat)
  | 0 => []
  | fuel + 1 =>
    if n = 0 then []
    else
      let k := min n (16 - va % 16)
      (va, k) :: piecesOf (va + k) (n - k) fuel

/-- A window piece under R190, R192, R106, R227 and R287; R224's segments included. A piece of the aperture that covers predicate bits at
or above W is refused, though R106 also has such bits read zero: a saved image shows them (DESIGN CHOICE, log entry 51). -/
def landWindow (s : State) (g : Group) (r : Reach264) (va n : Nat) : Check :=
  let small := r.by_ = .ldl || r.by_ = .stl
  match placeOf s g.core g.team va with
  | .bank core addr cluster =>
    match bankCause s g.ctx g.attach r.by_ core addr cluster with
    | some c => .cause ⟨c, va, 0⟩
    | none => .ok [if bankMode (s.core core) (addr / 65536) = 3 then .fifo core (addr / 65536) (addr % 65536) n
                   else .bank core addr n]
  | .aperture off =>
    if !small then .cause ⟨0x0A1, va, 0⟩
    else if (upTo n).all fun i => (g.imageBits (off + i)).isSome then .ok [.image off n]
    else .cause ⟨0x043, va, 0⟩
  | .page off =>
    let known := (r.by_ = .load && [0x0, 0x8, 0x10, 0x18].contains off) || (r.by_ = .store && [0x0, 0x18].contains off)
    if known && n = 8 then .ok [.page off n] else .cause ⟨0x0A1, va, 0⟩
  | .nothing => .cause ⟨0x0A1, va, 0⟩

/-- A piece in memory under R186, R203, R269 and R341. (DEDUCED, log entry 19.) -/
def landTier (s : State) (g : Group) (r : Reach264) (va n : Nat) : Check × State :=
  match translate s g.ctx g.core va r.kind with
  | .error code => (.fault [(code, va)], s)
  | .ok (pa, leaf, s) =>
    match reachCause s g.ctx (ctxOwner s g.ctx).1 (ctxOwner s g.ctx).2 pa with
    | some 0x1C4 => (.fatal ⟨0x1C4, va, 0⟩, s)
    | some c => (.cause ⟨c, va, 0⟩, s)
    | none => if !r.host && tierOf (normPA s pa) = .host then (.cause ⟨0x0A3, va, 0⟩, s) else (.ok [.home pa n (bitOf leaf 4)], s)

/-- What two pieces of one access come to: the first row of R264 that applies to either. -/
def Check.join (a b : Check) : Check :=
  match a, b with
  | .cause c, _ => .cause c
  | _, .cause c => .cause c
  | .fault x, .fault y => .fault (x ++ y)
  | .fault x, _ => .fault x
  | _, .fault y => .fault y
  | .fatal c, _ => .fatal c
  | _, .fatal c => .fatal c
  | .ok x, .ok y => .ok (x ++ y)

/-- The pieces of an access, checked in turn. A cause names the access's own address. -/
def landPieces (s : State) (g : Group) (r : Reach264) : List (Nat × Nat) → Check × State
  | [] => (.ok [], s)
  | (va, n) :: rest =>
    let x := if windowBase ≤ va then (landWindow s g r va n, s) else landTier s g r va n
    let y := landPieces x.2 g r rest
    (x.1.join y.1, y.2)

/-- A check's cause with the address of the whole access. -/
def Check.at (va : Nat) : Check → Check
  | .cause c => .cause { c with val := va }
  | .fatal c => .fatal { c with val := va }
  | x => x

/-- The checks of R264 for one access of `n` bytes at the 64-bit address `ea`, the first row that applies. R287 gives an access of the
engine control page that is not naturally aligned WINDOW_UNBACKED, but R264 ranks ACCESS_MISALIGNED above it (DEDUCED, log entry 46). -/
def checkAccess (s : State) (g : Group) (r : Reach264) (ea n : Nat) : Check × State :=
  let window := decide (windowBase ≤ ea) || decide (windowBase < ea + n)
  if 2 ^ 56 ≤ ea then (.cause ⟨0x0C3, ea, r.kind⟩, s)
  else if (r.align || window) && ea % n != 0 then (.cause ⟨0x0A0, ea, n⟩, s)
  else if !window && (r.by_ = .ldl || r.by_ = .stl) then (.cause ⟨0x0A1, ea, 0⟩, s)
  else
    let x := landPieces s g r (piecesOf ea n (n / 16 + 2))
    (x.1.at ea, x.2)

/-- The checks of every member: lanes with what was found. -/
def checkAll (s : State) (f : State → Nat → Check × State) : List Nat → List (Nat × Check) × State
  | [] => ([], s)
  | l :: rest =>
    let x := f s l
    let y := checkAll x.2 f rest
    ((l, x.1) :: y.1, y.2)

/-- Report the distinct faulting pages of an issue, one record each, and say which lanes wait for which answer (R168): `fs` are lanes with
the code and the address of each faulting piece. -/
def reportPages (s : State) (g : Group) (st : Strand) (kind : Nat) (fs : List (Nat × Nat × Nat)) :
    State × List FaultWait :=
  let r := fs.foldl (fun (r : State × List (Nat × Nat) × List FaultWait) f =>
    let page := pageOf s g.ctx f.2.2
    match r.2.1.find? fun p => p.1 = page with
    | some p => (r.1, r.2.1, if r.2.2.any fun w => w.lane = f.1 && w.id = p.2 then r.2.2 else r.2.2 ++ [⟨f.1, p.2, f.2.2, kind⟩])
    | none =>
      let x := reportFault r.1 g.ctx f.2.1 f.2.2 kind (groupSite r.1 g f.1 (strandNum st))
      (x.1, r.2.1 ++ [(page, x.2)], r.2.2 ++ [⟨f.1, x.2, f.2.2, kind⟩])) (s, [], [])
  (r.1, r.2.2)

/-- The landings a check found. -/
def Check.lands : Check → List Land
  | .ok ls => ls
  | _ => []

/-- The checks of R264 over the members of a load, store or atomic, and `go` where all pass; one that waits for the answers to faults
holds its destinations `empties` empty (R110, R111, R168, R264). -/
def Act.checked (a : Act) (kind : Nat) (f : State → Nat → Check × State) (go : Act → (Nat → List Land) → State)
    (empties : List Nat := []) : State :=
  let x := checkAll a.s f a.lanes
  let find := fun (l : Nat) => ((x.1.find? fun p => p.1 = l).map (·.2)).getD (.ok [])
  let bad := x.1.any fun p => match p.2 with
    | .cause _ => true
    | _ => false
  let faults := x.1.flatMap fun p => match p.2 with
    | .fault fs => fs.map fun e => (p.1, e)
    | _ => []
  let fatal := x.1.findSome? fun p => match p.2 with
    | .fatal c => some (p.1, c)
    | _ => none
  if bad then
    a.settle x.2 fun l => match find l with
      | .cause c => .trap c
      | _ => .stay
  else if !faults.isEmpty then
    let r := reportPages x.2 a.g a.st kind faults
    a.wait (r.1.setGroup a.gk fun g => g.setEmpty empties) (.faults r.2 (some empties))
  else match fatal with
    | some (l, c) => a.settle x.2 fun m => if m = l then .trap c else .stay
    | none => go { a with s := x.2 } fun l => (find l).lands

/-! ### Plain reads of the lowest-numbered member -/

/-- The FIFO bank that holds too little for a landing: core, bank, slots needed (R324). -/
def fifoShort (s : State) (ls : List Land) : Option (Nat × Nat × Nat) :=
  ls.findSome? fun p => match p with
    | .fifo core bank off n =>
      let need := fifoSlot (off + n - 1) + 1
      if (fifoOf s core bank).filled < need then some (core, bank, need) else none
    | _ => none

/-- Read at a landing: through L1 for memory, else at the bank (R246). A consume view of a FIFO bank consumes (R324). -/
def landRead (s : State) (core level : Nat) (nol1 : Bool) : Land → List Byte × State
  | .home pa n nl1 => readPiece s core level (nol1 || nl1) pa n
  | .bank c addr n => (lsRead s c addr n, s)
  | .fifo c bank off n =>
    (fifoRead s c bank off n, if fifoConsumes off then fifoConsume s c bank (fifoSlot (off + n - 1) + 1) else s)
  | .image _ _ => ([], s)
  | .page _ _ => ([], s)

/-- The poison that a plain read of landings meets. -/
def landPoison (s : State) (core : Nat) (ls : List Land) : Option Nat :=
  accessPoison s core 0 true (ls.filterMap fun p => match p with
    | .home pa n _ => some (pa, n)
    | _ => none)

/-- What reading for an instruction gives: a value, a cause for its members, or something to wait for. -/
inductive Got (α : Type) where
  | ok (x : α)
  | trap (c : Cause)
  | block (b : Block)
  deriving DecidableEq, Repr

/-- Whether the hints of an issue keep its lines out of L1 (R89). -/
def Act.nol1 (a : Act) : Bool :=
  match findHint a.iss.entry.hints 27 with
  | some p => p.getLsbD 2
  | none => false

/-- Whether landings keep their lines out of L1 (R341). An access that lies in two pages keeps all of its lines out where one of them does
(DESIGN CHOICE, log entry 48). -/
def landNoL1 (ls : List Land) : Bool := ls.any fun p => match p with
  | .home _ _ nl1 => nl1
  | _ => false

/-- The places that an access in flight touches: bytes at their homes and in banks (R186, R246). -/
def placesOf (s : State) (ls : List Land) : List (Nat × Nat) := ls.filterMap fun p => match p with
  | .home pa n _ => some (normPA s pa, n)
  | .bank core addr n => some (bankPlace core addr, n)
  | _ => none

/-- A plain read of `n` bytes at `va` by the lowest-numbered of some lanes, for an instruction that executes once for them, its lines
kept out of L1 where `nol1` (R89, R209, R218, R264). The earlier accesses of that thread that are ordered before it are performed first
(R249). `align` is the size of the form's access, to which an address in a window is aligned (R264). -/
def plainGet (s : State) (g : Group) (st : Strand) (lanes : List Nat) (nol1 : Bool) (va n : Nat) (align : Nat := 1) :
    State × Got (List Byte) :=
  if 2 ^ 56 ≤ va then (s, .trap ⟨0x0C3, va, 1⟩)
  else if windowBase ≤ va && va % align != 0 then (s, .trap ⟨0x0A0, va, align⟩)
  else
    let x := landPieces s g { by_ := .plain, kind := 1 } (piecesOf va n (n / 16 + 2))
    match x.1.at va with
    | .cause c => (s, .trap c)
    | .fatal c => (x.2, .trap c)
    | .fault fs =>
      let y := reportPages x.2 g st 1 (lanes.flatMap fun l => fs.map fun f => (l, f))
      (y.1, .block (.faults y.2))
    | .ok ls =>
      let read : Access := { id := 0, issue := 0, lane := lanes.headD 0, kind := .loadQ, order := 0, scope := 0, va := va, size := n,
                             pieces := placesOf x.2 ls }
      let ids := (g.accs.filter fun y => !y.performed && y.lane = read.lane && y.before read).map (·.id)
      if !ids.isEmpty then (x.2, .block (.accesses ids))
      else match fifoShort x.2 ls with
        | some (c, b, k) => (x.2, .block (.fifo c b k))
        | none =>
          match landPoison x.2 g.core ls with
          | some k => (x.2, .trap ⟨0x0A2, va, k⟩)
          | none =>
            let y := ls.foldl (fun (y : List Byte × State) l =>
              let z := landRead y.2 g.core 0 nol1 l
              (y.1 ++ z.1, z.2)) ([], x.2)
            (if s.streams then streamLines s y.2 else y.2, .ok y.1)

/-- An instruction that executes once goes on with what reading gave: a cause is raised in every member, a wait blocks the
entry. -/
def Act.got {α : Type} (a : Act) (r : State × Got α) (go : Act → α → State) : State :=
  match r.2 with
  | .ok x => go { a with s := r.1 } x
  | .trap c => a.settle r.1 fun _ => .trap c
  | .block b => a.wait r.1 b

/-- A plain read by the lowest-numbered member of an instruction that executes once. -/
def Act.plainRead (a : Act) (va n : Nat) (go : Act → List Byte → State) : State :=
  a.got (plainGet a.s a.g a.st a.lanes a.nol1 va n) go

end Sys2Proof.Machine
end

