-- ==== Sys2Proof/Machine/Tiles.lean ====
section
/-! DEFINITION. Tensor descriptors, index entries, code tables and tile streams: their layouts, the decode procedure and the encode
path (R206 to R222), and ctload and ctinv (R218). -/

namespace Sys2Proof.Machine

open Sys2Proof

/-! ### Descriptors -/

/-- The descriptor that 64 bytes hold (R208). -/
def descOf (va x : Nat) : Desc :=
  { addr := va, data := bitsOf x 63 0, index := bitsOf x 127 64,
    ext := (upTo 4).map fun i => bitsOf x (159 + 32 * i) (128 + 32 * i),
    ndim := bitsOf x 258 256, shape := bitsOf x 261 260, fmt := bitsOf x 267 264, tables := bitsOf x 287 272,
    extra := BitVec.ofNat 32 (bitsOf x 319 288), zrule := bitsOf x 321 320, zpoint := bitsOf x 327 324,
    vkind := bitsOf x 329 328, master := bitsOf x 335 330, vidx := bitsOf x 338 336, stale := bitsOf x 341 340,
    region := bitsOf x 353 344 }

/-- The bit ranges of a descriptor that must be zero (R208). -/
def descReserved : List (Nat × Nat) :=
  [(259, 259), (263, 262), (271, 268), (323, 322), (339, 339), (343, 342), (511, 354)]

/-- The bytes of the reserved ranges of a structure that hold a one bit. -/
def reservedBytes (x : Nat) (rs : List (Nat × Nat)) : List Nat :=
  rs.flatMap fun r => (upTo (r.1 + 1 - r.2)).filterMap fun i => if bitOf x (r.2 + i) then some ((r.2 + i) / 8) else none

/-- The offsets of the offending fields of a descriptor that has been read (R209). -/
def descBreaches (d : Desc) (x : Nat) : List Nat :=
  let when := fun (c : Bool) (off : Nat) => if c then [off] else []
  reservedBytes x descReserved
  ++ when (d.data % 16 != 0 || 2 ^ 56 ≤ d.data) 0x00
  ++ when (d.index % 16 != 0 || 2 ^ 56 ≤ d.index) 0x08
  ++ ((upTo 4).flatMap fun i =>
    when (if i < d.ndim then d.ext.getD i 0 = 0 || 65536 < (tileCounts d).getD i 0 else d.ext.getD i 0 != 0) (0x10 + 4 * i))
  ++ when (d.ndim = 0 || 4 < d.ndim || 2 ≤ d.shape || (d.shape = 1 && d.ndim = 1)) 0x20
  ++ when (0xB ≤ d.fmt) 0x21
  ++ when (d.zrule = 3) 0x28
  ++ when (d.vkind = 3 || (d.master != 0 && d.vkind != 1 && d.vkind != 2)) 0x29
  ++ when (((d.vidx != 0 || d.stale != 0) && d.vkind != 2) || d.stale = 3) 0x2A

/-- A descriptor from the 64 bytes at `va`, or the tinfo of DESCRIPTOR_INVALID (R209). -/
def parseDesc (va : Nat) (bs : List Byte) : Except Nat Desc :=
  let x := natOfBytes bs
  let d := descOf va x
  match leastOf (descBreaches d x) with
  | some off => .error off
  | none => .ok d

/-- The cause of an invalid descriptor. -/
def descCause (va off : Nat) : Cause := ⟨0x0E2, va, off⟩

/-- The packed tile coordinate (R207). -/
def packCoord (c : List Nat) : Nat :=
  c.getD 0 0 + c.getD 1 0 * 2 ^ 16 + c.getD 2 0 * 2 ^ 32 + c.getD 3 0 * 2 ^ 48

/-- The dimensions of a packed coordinate. -/
def unpackCoord (p : Nat) : List Nat := (upTo 4).map fun i => bitsOf p (16 * i + 15) (16 * i)

/-- TILE_COORD_RANGE of a packed coordinate, where it applies (R207). -/
def coordCause (d : Desc) (p : Nat) : Option Cause :=
  ((upTo 4).find? fun i => (tileCounts d).getD i 0 ≤ (unpackCoord p).getD i 0).map fun i => ⟨0x0E3, p, i⟩

/-- Whether element `n` of a tile lies beyond an extent (R206). -/
def isPad (d : Desc) (p n : Nat) : Bool :=
  let c := unpackCoord p
  let e := fun i => if i < d.ndim then d.ext.getD i 0 else 1
  if d.shape = 1 then e 0 ≤ 16 * c.getD 0 0 + n % 16 || e 1 ≤ 16 * c.getD 1 0 + n / 16
  else e 0 ≤ 256 * c.getD 0 0 + n

/-! ### Code tables -/

/-- The code-table slot of a context: the maximum length and the lengths by symbol (R218). -/
def Context.table (c : Context) (slot : Nat) : Option (Nat × List Nat) :=
  match SMap.find? c.codes slot with
  | some (m :: ls) => some (m, ls)
  | _ => none

/-- The alphabet size and maximum length of a header, where it is in range (R216). -/
def tableHeader (x : Nat) : Option (Nat × Nat) :=
  let a := bitsOf x 15 0
  let m := bitsOf x 19 16
  if bitsOf x 63 20 = 0 && 2 ≤ a && a ≤ 256 && 1 ≤ m && m ≤ 12 then some (a, m) else none

/-- The code lengths that a table's bytes give (R216). -/
def tableLengths (bs : List Byte) (a : Nat) : List Nat :=
  (upTo a).map fun i => bitsOf (bs.getD (8 + i / 2) 0#8).toNat (4 * (i % 2) + 3) (4 * (i % 2))

/-- The sum of 2^-len over the present symbols, in units of 2^-12 (R216). -/
def kraftSum (ls : List Nat) : Nat := ls.foldl (fun s n => if n = 0 then s else s + 2 ^ (12 - n)) 0

/-- A table from its bytes, or the tinfo of CODE_TABLE_INVALID (R216). -/
def parseTable (bs : List Byte) : Except Nat (List Nat) :=
  match tableHeader (natOfBytes (bs.take 8)) with
  | none => .error 1
  | some (a, m) =>
    let ls := tableLengths bs a
    let spare := a % 2 = 1 && bitsOf (bs.getD (8 + a / 2) 0#8).toNat 7 4 != 0
    if spare || ls.any (fun n => m < n) then .error 2
    else if kraftSum ls = 0 || 4096 < kraftSum ls then .error 3
    else .ok (m :: ls)

/-- The canonical codewords: symbol, length, codeword (R217). -/
def codewords (ls : List Nat) : List (Nat × Nat × Nat) :=
  let present := (upTo 13).flatMap fun n => if n = 0 then [] else
    ((upTo ls.length).filter fun s => ls.getD s 0 = n).map fun s => (s, n)
  (present.foldl (fun (r : List (Nat × Nat × Nat) × Option (Nat × Nat)) p =>
    let code := match r.2 with
      | none => 0
      | some (n, c) => (c + 1) * 2 ^ (p.2 - n)
    (r.1 ++ [(p.1, p.2, code)], some (p.2, code))) ([], none)).1

/-- The alphabet of a format (R213). -/
def alphabetOf (fmt : Nat) : Nat := 2 ^ symWidth fmt

/-! ### Streams -/

/-- A stream being read: its bits as one number, and how many there are (R212). -/
structure Stream where
  x   : Nat
  lim : Nat
  deriving DecidableEq, Repr

/-- A fixed field, or the position of the fault (R212, R220). -/
def Stream.fixed (s : Stream) (k pos : Nat) : Except Nat (Nat × Nat) :=
  if pos + k ≤ s.lim then .ok (if k = 0 then 0 else bitsOf s.x (pos + k - 1) pos, pos + k) else .error s.lim

/-- `n` fixed fields of `k` bits. -/
def Stream.fixedMany (s : Stream) (k pos : Nat) : Nat → Except Nat (List Nat × Nat)
  | 0 => .ok ([], pos)
  | n + 1 =>
    match s.fixed k pos with
    | .error e => .error e
    | .ok (v, p) => (s.fixedMany k p n).map fun r => (v :: r.1, r.2)

/-- A prefix codeword from the bits read so far, with `fuel` more lengths to try (R212, R220). -/
def Stream.matchWord (s : Stream) (words : List (Nat × Nat × Nat)) (start pos len code : Nat) :
    Nat → Except Nat (Nat × Nat)
  | 0 => .error start
  | fuel + 1 =>
    if s.lim ≤ pos then .error s.lim
    else
      let code := 2 * code + (if s.x.testBit pos then 1 else 0)
      match words.find? fun w => w.2.1 = len + 1 && w.2.2 = code with
      | some w => .ok (w.1, pos + 1)
      | none => s.matchWord words start (pos + 1) (len + 1) code fuel

/-- `n` prefix codewords. -/
def Stream.words (s : Stream) (table : List (Nat × Nat × Nat)) (maxLen pos : Nat) : Nat → Except Nat (List Nat × Nat)
  | 0 => .ok ([], pos)
  | n + 1 =>
    match s.matchWord table pos pos 0 0 maxLen with
    | .error e => .error e
    | .ok (v, p) => (s.words table maxLen p n).map fun r => (v :: r.1, r.2)

/-- The zero bits of an Exp-Golomb codeword and the position after its one bit (R214). -/
def Stream.zeros (s : Stream) (pos z : Nat) : Nat → Except Nat (Nat × Nat)
  | 0 => .error pos
  | fuel + 1 =>
    if s.lim ≤ pos then .error s.lim
    else if s.x.testBit pos then .ok (z, pos + 1)
    else if z = 8 then .error pos
    else s.zeros (pos + 1) (z + 1) fuel

/-- Bits of an information field, the most significant first. -/
def Stream.msb (s : Stream) (pos v : Nat) : Nat → Except Nat (Nat × Nat)
  | 0 => .ok (v, pos)
  | k + 1 => if s.lim ≤ pos then .error s.lim else s.msb (pos + 1) (2 * v + (if s.x.testBit pos then 1 else 0)) k

/-- A signed Exp-Golomb codeword (R214). -/
def Stream.delta (s : Stream) (pos : Nat) : Except Nat (Int × Nat) :=
  match s.zeros pos 0 10 with
  | .error e => .error e
  | .ok (z, p) =>
    (s.msb p 0 z).map fun r =>
      let k := 2 ^ z - 1 + r.1
      (if k % 2 = 1 then Int.ofNat ((k + 1) / 2) else -Int.ofNat (k / 2), r.2)

/-- The subexponents after the first: deltas that must stay within 0 to 255 (R214, R220). -/
def Stream.deltas (s : Stream) (e pos : Nat) : Nat → Except Nat (List Nat × Nat)
  | 0 => .ok ([], pos)
  | n + 1 =>
    match s.delta pos with
    | .error x => .error x
    | .ok (d, p) =>
      let v := Int.ofNat e + d
      if v < 0 || 255 < v then .error pos
      else (s.deltas v.toNat p n).map fun r => (v.toNat :: r.1, r.2)

/-- What a stream holds: S, subexponents, μ bits and symbols. -/
structure Raw where
  scale : Nat := 0x3F80
  subs  : List Nat := List.replicate 16 0
  mus   : List Nat := List.replicate 128 0
  syms  : List Nat := List.replicate 256 0
  deriving DecidableEq, Repr

/-- The bits of a stream that lie past its content (R220). -/
def Stream.tail (s : Stream) (pos : Nat) (r : Raw) : Except Nat Raw :=
  if 128 ≤ s.lim - pos then .error (128 * ceilDiv pos 128)
  else match (upTo (s.lim - pos)).find? fun i => s.x.testBit (pos + i) with
    | some i => .error (pos + i)
    | none => .ok r

/-- The block fields of a stream: S, E of the subblocks, μ of the pairs (R213). -/
def Stream.blockPart (s : Stream) (coded : Bool) (pos : Nat) : Except Nat (Raw × Nat) :=
  match s.fixed 16 pos with
  | .error e => .error e
  | .ok (sc, p) => match s.fixed 8 p with
    | .error e => .error e
    | .ok (e0, p) => match (if coded then s.deltas e0 p 15 else s.fixedMany 8 p 15) with
      | .error e => .error e
      | .ok (es, p) => (s.fixedMany 1 p 128).map fun m => ({ scale := sc, subs := e0 :: es, mus := m.1 }, m.2)

/-- Read the stream of a RAW tile, or of a CODED one under `table`; an error is the tinfo of DECODE_MALFORMED (R220). -/
def Stream.tile (s : Stream) (fmt mode slot : Nat) (table : Option (Nat × List Nat)) : Except Nat Raw :=
  match s.fixed 2 0 with
  | .error e => .error e
  | .ok (m, p) => if m != mode then .error 0 else match s.fixed 4 p with
    | .error e => .error e
    | .ok (sl, p) => if sl != slot then .error 2 else
      match (if isBlockFmt fmt then s.blockPart table.isSome p else .ok ({}, p)) with
      | .error e => .error e
      | .ok (r, p) =>
        match (match table with
          | some (mx, ls) => s.words (codewords ls) mx p 256
          | none => s.fixedMany (symWidth fmt) p 256) with
        | .error e => .error e
        | .ok (syms, p) => s.tail p { r with syms := syms }

/-- A 128-bit mask of μ bits. -/
def musOf (ms : List Nat) : BitVec 128 :=
  (upTo 128).foldl (fun m i => if ms.getD i 0 = 1 then m ||| (1#128 <<< i) else m) 0#128

/-- The decoded form of a tile from its stream's fields (R215). -/
def tileOf (d : Desc) (coord : Nat) (r : Raw) : Tile :=
  { fmt := d.fmt
    elems := if isBlockFmt d.fmt then
        (upTo 256).map fun n =>
          let x := r.syms.getD n 0
          blockContainer d.fmt (2 ^ blockM d.fmt ≤ x) (r.mus.getD (n / 2) 0 = 1) (x % 2 ^ blockM d.fmt)
      else r.syms
    mu := musOf r.mus, subs := r.subs, scale := BitVec.ofNat 16 r.scale, extra := d.extra, zrule := d.zrule,
    zpoint := d.zpoint, descAddr := d.addr, coord := coord }

/-! ### Index entries -/

/-- The fields of an index entry (R210); `rsv` are its reserved bits, in their places. -/
structure IndexEntry where
  offset : Nat
  length : Nat := 0
  slot   : Nat := 0
  mode   : Nat := 2
  gen    : Nat := 0
  src    : Nat := 0
  enc    : Bool := false
  pfx    : Bool := false
  view   : Bool := false
  rsv    : Nat := 0
  deriving DecidableEq, Repr

/-- The entry that 16 bytes hold. -/
def entryOfNat (x : Nat) : IndexEntry :=
  ⟨bitsOf x 43 0, bitsOf x 55 44, bitsOf x 59 56, bitsOf x 61 60, bitsOf x 79 64, bitsOf x 95 80, bitOf x 96, bitOf x 97,
    bitOf x 98, bitsOf x 63 62 * 2 ^ 62 + bitsOf x 127 99 * 2 ^ 99⟩

/-- The 16 bytes of an entry. -/
def IndexEntry.bytes (e : IndexEntry) : List Byte :=
  let bit := fun (b : Bool) (n : Nat) => if b then 2 ^ n else 0
  bytesOfNat (e.offset % 2 ^ 44 + e.length % 2 ^ 12 * 2 ^ 44 + e.slot % 16 * 2 ^ 56 + e.mode % 4 * 2 ^ 60
    + e.gen % 2 ^ 16 * 2 ^ 64 + e.src % 2 ^ 16 * 2 ^ 80 + bit e.enc 96 + bit e.pfx 97 + bit e.view 98 + e.rsv) 16

/-- The lowest reserved bit of an entry that is 1 (R210). -/
def entryReserved (x : Nat) : Option Nat :=
  ((upTo 2).map (62 + ·) ++ (upTo 29).map (99 + ·)).find? fun n => bitOf x n

/-! ### The decode unit -/

/-- The region key identity of a physical address: 0 where no region lies (R202). -/
def regionKey (s : State) (pa0 : Nat) : Nat :=
  let pa := normPA s pa0
  match s.regions.find? fun r => r.2.live && r.2.base ≤ pa && pa < r.2.base + r.2.len with
  | some r => r.1
  | none => 0

/-- Whether every page of resolved spots lies in the region a descriptor names (R209). -/
def regionOk (s : State) (d : Desc) (ps : List (Spot × Nat)) : Bool :=
  ps.all fun p => match p.1 with
    | .home pa => regionKey s pa = d.region
    | _ => d.region = 0

/-- Read a run of bytes of a tile, its region checked (R209). -/
def tileRead (s : State) (w : Who) (d : Desc) (va n : Nat) : Except Stop (List Byte × State) :=
  match engineRun s w 4 va n with
  | .error e => .error e
  | .ok (ps, s) =>
    if !regionOk s d ps then .error (.cause (descCause d.addr 0x2B))
    else .ok (spotsRead s w ps)

/-- The tile's place in memory: the address of its entry and the data base of its streams. -/
structure TilePlace where
  entry : Nat
  data  : Nat
  deriving DecidableEq, Repr

/-- The place of a tile of a tensor that is no view (R207, R210). -/
def plainPlace (d : Desc) (coord : Nat) : TilePlace := ⟨d.index + 16 * tileIndex d (unpackCoord coord), d.data⟩

/-- DECODE_MALFORMED. -/
def malformed (coord off : Nat) : Stop := .cause ⟨0x0E0, coord, off⟩

/-- The table a CODED entry binds, or the cause (R219, R220). -/
def bindTable (c : Option Context) (d : Desc) (coord slot : Nat) : Except Stop (Nat × List Nat) :=
  match c.bind (·.table slot) with
  | some t =>
    if bitOf d.tables slot && t.2.length = alphabetOf d.fmt then .ok t else .error (.cause ⟨0x0E1, coord, slot⟩)
  | none => .error (.cause ⟨0x0E1, coord, slot⟩)

/-- The stream of a RAW or CODED entry, all of it read and then checked (R220; that a memory fault comes first is a DESIGN CHOICE, log
entry 53). -/
def decodeStream (s : State) (w : Who) (d : Desc) (coord : Nat) (pl : TilePlace) (e : IndexEntry)
    (table : Option (Nat × List Nat)) : Except Stop (Tile × State) :=
  match tileRead s w d (pl.data + 16 * e.offset) (16 * e.length) with
  | .error x => .error x
  | .ok (bs, s) =>
    match Stream.tile ⟨natOfBytes bs, 128 * e.length⟩ d.fmt e.mode e.slot table with
    | .error off => .error (malformed coord off)
    | .ok r => .ok (tileOf d coord r, s)

/-- The first half of the decode procedure: a tile's entry, read and checked, with the code table that a CODED one binds (R219, R220). -/
def bindEntry (s : State) (w : Who) (d : Desc) (coord : Nat) (pl : TilePlace) :
    Except Stop ((Nat × Option (Nat × List Nat)) × State) :=
  match tileRead s w d pl.entry 16 with
  | .error x => .error x
  | .ok (bs, s) =>
    let x := natOfBytes bs
    let e := entryOfNat x
    let top := 2 ^ 63
    match entryReserved x with
    | some n => .error (malformed coord (top + n))
    | none =>
      if e.mode != 1 && e.slot != 0 then .error (malformed coord (top + 56))
      else if e.mode = 2 then
        if e.length != 0 then .error (malformed coord (top + 44)) else .ok ((x, none), s)
      else if e.mode = 3 then
        .error (if d.vkind = 2 then .cause ⟨0x121, coord, 8 * d.master + d.vidx⟩ else malformed coord 0)
      else if e.mode = 0 then .ok ((x, none), s)
      else if d.fmt ≤ 2 then .error (malformed coord (top + 60))
      else match bindTable (s.ctx? w.ctx) d coord e.slot with
        | .error c => .error c
        | .ok t => .ok ((x, some t), s)

/-- The second half: the tile, from the stream that the bound entry names (R219, R220). -/
def decodeBound (s : State) (w : Who) (d : Desc) (coord : Nat) (pl : TilePlace) (b : Nat × Option (Nat × List Nat)) :
    Except Stop (Tile × IndexEntry × State) :=
  let e := entryOfNat b.1
  if e.mode = 2 then .ok (tileOf d coord {}, e, s)
  else (decodeStream s w d coord pl e b.2).map fun r => (r.1, e, r.2)

/-- The decode procedure (R220): the tile, the entry it was read from, and the machine. -/
def decodeTile (s : State) (w : Who) (d : Desc) (coord : Nat) (pl : TilePlace) :
    Except Stop (Tile × IndexEntry × State) :=
  match bindEntry s w d coord pl with
  | .error x => .error x
  | .ok (b, s) => decodeBound s w d coord pl b

/-- The decode procedure under an entry bound before, or under the one that it binds now: the tile with what it is bound to. What stops it
comes with the binding that it keeps (R168, R219). -/
def decodeKept (s : State) (w : Who) (d : Desc) (coord : Nat) (pl : TilePlace) (kept : Option (Nat × Option (Nat × List Nat))) :
    Except (Stop × Option (Nat × Option (Nat × List Nat)) × State) (Tile × (Nat × Option (Nat × List Nat)) × State) :=
  match (match kept with
    | some b => Except.ok (b, s)
    | none => bindEntry s w d coord pl) with
  | .error e => .error (e, none, s)
  | .ok (b, s) => match decodeBound s w d coord pl b with
    | .error e => .error (e, some b, s)
    | .ok (t, _, s) => .ok (t, b, s)

/-! ### The values of a tile -/

/-- Element `n` of a tile as FP32, with ZS, OF and NV (R46, R48, R50); under FIN a subnormal BF16 or FP16 code is read as zero
(R59). -/
def Tile.value (t : Tile) (fin : Bool) (n : Nat) : FRes :=
  let c := t.elems.getD n 0
  if isBlockFmt t.fmt then
    let p := containerParts t.fmt c
    bxval t.fmt p.1 (t.mu.getLsbD (n / 2)) p.2.2 (t.subs.getD (n / 16) 0) t.scale
  else if t.fmt = 0 then ⟨c, 0#32⟩
  else packF fmt32 ⟨.rne, false, false⟩ (codeVal t.fmt (flushCode fin t.fmt c) t.extra t.zrule t.zpoint) 0#32

/-- The image of a tile: its containers packed in words, then the trailer (R297). -/
def Tile.image (t : Tile) : List Byte :=
  let k := fmtK t.fmt
  let words := (upTo (256 / k)).flatMap fun i =>
    bytesOfNat ((upTo k).foldl (fun s j => s + t.elems.getD (k * i + j) 0 % 2 ^ (32 / k) * 2 ^ (32 / k * j)) 0) 4
  words ++ bytesOfNat (if isBlockFmt t.fmt then t.scale.toNat else 0x3F80) 2 ++ bytesOfNat t.fmt 1
    ++ bytesOfNat (t.zpoint % 16 + t.zrule % 4 * 16) 1 ++ bytesOfNat t.extra.toNat 4 ++ List.replicate 8 0#8
    ++ (upTo 16).map (fun j => BitVec.ofNat 8 (t.subs.getD j 0)) ++ bytesOfNat t.mu.toNat 16 ++ List.replicate 16 0#8

/-- Container word `i` of lane `l` under ldt's map (R272). -/
def Tile.word (t : Tile) (width i l : Nat) : Word :=
  let k := fmtK t.fmt
  let n := k * (width * i + l)
  if 256 ≤ n then 0#32
  else BitVec.ofNat 32 ((upTo k).foldl (fun s j => s + t.elems.getD (n + j) 0 % 2 ^ (32 / k) * 2 ^ (32 / k * j)) 0)

/-- The scale word of container word `i` of lane `l`; that of a zero word is zero in the block formats alone (R272). -/
def Tile.scaleWord (t : Tile) (width i l : Nat) : Word :=
  let n := fmtK t.fmt * (width * i + l)
  if isBlockFmt t.fmt then
    let e := t.subs.getD (n / 16) 0 % 256
    if 256 ≤ n then 0#32 else BitVec.ofNat 32 (t.scale.toNat * 2 ^ 16 + e * 257)
  else if t.fmt = 5 then t.extra
  else if t.fmt = 7 then BitVec.ofNat 32 (t.zrule % 4 * 16 + t.zpoint % 16)
  else 0#32

/-- The registers that ldt delivers to each lane (R272). -/
def tileRegs (fmt width : Nat) : Nat := max 1 (256 / (fmtK fmt * width))

/-- The words that ldt delivers to lane `l` (R272). -/
def Tile.laneWords (t : Tile) (width : Nat) (scales : Bool) (l : Nat) : List Word :=
  (upTo (tileRegs t.fmt width)).flatMap fun i =>
    t.word width i l :: (if scales then [t.scaleWord width i l] else [])

/-! ### The encode path -/

/-- Fields written to a stream: a value, its width, and whether its most significant bit comes first (R212). -/
abbrev Field := Nat × Nat × Bool

/-- A number of `k` bits with its bits in the opposite order. -/
def reverseBits (v : Nat) : Nat → Nat
  | 0 => 0
  | k + 1 => v % 2 * 2 ^ k + reverseBits (v / 2) k

/-- A stream of fields as a number and its length in bits. -/
def packFields (fs : List Field) : Nat × Nat :=
  fs.foldl (fun r f => (r.1 + (if f.2.2 then reverseBits f.1 f.2.1 else f.1 % 2 ^ f.2.1) * 2 ^ r.2, r.2 + f.2.1)) (0, 0)

/-- The codeword of a signed delta (R214). -/
def deltaFields (d : Int) : List Field :=
  let k := if 0 < d then 2 * d.toNat - 1 else 2 * (-d).toNat
  let z := Nat.log2 (k + 1)
  [(0, z, false), (1, 1, false), (k + 1 - 2 ^ z, z, true)]

/-- The symbol of an element container or code (R213). -/
def symOf (fmt c : Nat) : Nat :=
  if isBlockFmt fmt then
    let p := containerParts fmt c
    (if p.1 then 2 ^ blockM fmt else 0) + p.2.2
  else c

/-- The fields of a tile's stream, RAW, or CODED with a slot and its codewords (R213). -/
def streamFields (t : Tile) (coded : Option (Nat × List (Nat × Nat × Nat))) : List Field :=
  let sub := fun j => t.subs.getD j 0
  let head : List Field := match coded with
    | some (slot, _) => [(1, 2, false), (slot, 4, false)]
    | none => [(0, 2, false), (0, 4, false)]
  let block : List Field := if isBlockFmt t.fmt then
      [(t.scale.toNat, 16, false), (sub 0, 8, false)]
      ++ ((upTo 15).flatMap fun j => match coded with
        | some _ => deltaFields (Int.ofNat (sub (j + 1)) - Int.ofNat (sub j))
        | none => [(sub (j + 1), 8, false)])
      ++ [(t.mu.toNat, 128, false)]
    else []
  head ++ block ++ t.elems.map fun c =>
    let x := symOf t.fmt c
    match coded with
    | some (_, ws) => match ws.find? fun w => w.1 = x with
      | some w => (w.2.2, w.2.1, true)
      | none => (0, 0, false)
    | none => (x, symWidth t.fmt, false)

/-- The outer scale's exponent of a block of values (R53 step 1). -/
def outerExp (xs : List FVal) : Int :=
  match topExp xs with
  | none => 0
  | some k => clampInt (-126) 127 k

/-- The codes of a tile from 256 FP32 values (R222 step 1): RNE, policy 00, no flag, pads as code 0. Subnormal values are neither flushed as
they are read nor as they are written: R222 names no flush control (DESIGN CHOICE, log entry 54). -/
def formTile (d : Desc) (coord : Nat) (vals : List Word) : Tile :=
  let base : Tile := tileOf d coord {}
  let pad := isPad d coord
  if isBlockFmt d.fmt then
    let xs := (upTo 256).map fun n => if pad n then FVal.fin false 0 0 else decodeF fmt32 (vals.getD n 0#32).toNat
    let f := outerExp xs
    let subs := (upTo 16).map fun j =>
      match packSub d.fmt .rne 0 (((xs.drop (16 * j)).take 16).map (scaleV f)) with
      | .ok e mus es _ => (e, mus, es)
      | .trap _ => (0, [], [])
    let mus := subs.flatMap fun x => (upTo 8).map fun i => if x.2.1.getD i false then 1 else 0
    let elems := subs.flatMap fun x => (upTo 16).map fun i =>
      let e := x.2.2.getD i (false, 0)
      blockContainer d.fmt e.1 (x.2.1.getD (i / 2) false) e.2
    { base with elems := (upTo 256).map fun n =>
                  if pad n then blockContainer d.fmt false (mus.getD (n / 2) 0 = 1) 0 else elems.getD n 0, mu := musOf mus, subs := subs.map (·.1),
                scale := BitVec.ofNat 16 ((f + 127).toNat * 128) }
  else
    let bias := if d.zrule = 0 then none else some d.zpoint
    let codes := (upTo 256).map fun n =>
      if pad n then 0
      else match f32ToCode ⟨.rne, false, false⟩ d.fmt 0 (vals.getD n 0#32).toNat d.extra bias with
        | .code b _ => b
        | .trap => 0
    { base with elems := codes }

/-- The mode, slot and stream that the encode path chooses (R222 steps 2 and 3); no tile of fp32, bf16 or fp16 is CODED (R213). -/
def chooseStream (c : Option Context) (d : Desc) (t : Tile) (slot : Option Nat) : Nat × Nat × List Byte :=
  if t.elems.all fun x => symOf t.fmt x = 0 then (2, 0, [])
  else
    let plain := packFields (streamFields t none)
    let units := ceilDiv plain.2 128
    let coded := match slot with
      | none => none
      | some k => if !bitOf d.tables k || d.fmt ≤ 2 then none else match c.bind (·.table k) with
        | none => none
        | some (_, ls) =>
          if t.elems.all fun x => ls.getD (symOf t.fmt x) 0 != 0 then
            let p := packFields (streamFields t (some (k, codewords ls)))
            if ceilDiv p.2 128 ≤ units then some (k, p) else none
          else none
    match coded with
    | some (k, p) => (1, k, bytesOfNat p.1 (16 * ceilDiv p.2 128))
    | none => (0, 0, bytesOfNat plain.1 (16 * units))

/-- The lowest slot that a descriptor's set allows, that is valid and whose alphabet matches (R274). -/
def lowestSlot (c : Option Context) (d : Desc) : Option Nat :=
  (upTo 16).find? fun k => bitOf d.tables k && match c.bind (·.table k) with
    | some t => t.2.length = alphabetOf d.fmt
    | none => false

/-- The RAW length of a format in units of 16 bytes (R213). -/
def rawUnits (fmt : Nat) : Nat :=
  ceilDiv (if isBlockFmt fmt then 278 + 256 * symWidth fmt else 6 + 256 * symWidth fmt) 128

/-- Write a run of bytes of a tile, its region checked (R209). -/
def tileWrite (s : State) (w : Who) (d : Desc) (va : Nat) (bs : List Byte) : Except Stop State :=
  match engineRun s w 5 va bs.length with
  | .error e => .error e
  | .ok (ps, s) => if regionOk s d ps then .ok (spotsWrite s w ps bs) else .error (.cause (descCause d.addr 0x2B))

/-- The encode path as far as the stream (R222): it is written at `place`, or at the entry's own offset. The new entry but for its source
generation and marks, and the machine. R5 has reserved bits zero and names no cause for an old entry that breaks this and is not decoded:
the encode ignores such bits and writes them as zero (DESIGN CHOICE, log entry 49). -/
def encodeStream (s : State) (w : Who) (d : Desc) (coord : Nat) (vals : List Word) (slot place : Option Nat) (pl : TilePlace) :
    Except (Stop × State) (IndexEntry × State) :=
  match tileRead s w d pl.entry 16 with
  | .error x => .error (x, s)
  | .ok (bs, s) =>
    let old := entryOfNat (natOfBytes bs)
    let r := chooseStream (s.ctx? w.ctx) d (formTile d coord vals) slot
    let off := place.getD old.offset
    match tileWrite s w d (pl.data + 16 * off) r.2.2 with
    | .error x => .error (x, s)
    | .ok s => .ok ({ offset := off, length := r.2.2.length / 16, slot := r.2.1, mode := r.1, gen := old.gen + 1 }, s)

/-- The encode path (R222): the stream, then the entry with release at dev. An error also gives the machine that it was found in: a stream
that has been written stays written (R274). -/
def encodeTile (s : State) (w : Who) (d : Desc) (coord : Nat) (vals : List Word) (slot place : Option Nat) (src : Nat)
    (view : Bool) (pl : TilePlace) : Except (Stop × State) State :=
  match encodeStream s w d coord vals slot place pl with
  | .error x => .error x
  | .ok (e, s) =>
    match tileWrite s w d pl.entry (IndexEntry.bytes { e with src := src, enc := !view, view := view }) with
    | .error x => .error (x, s)
    | .ok s => .ok s

/-! ### ctload and ctinv, and the descriptors of an instruction -/

/-- Lanes of an instruction read the descriptor at `va` once (R209, R264), `align` being the size of an ldt or stt: the checks of the read
come first, then those of what it has read, the alignment of its address among them. -/
def descGet (s : State) (g : Group) (st : Strand) (lanes : List Nat) (nol1 : Bool) (va : Nat) (align : Nat := 1) : State × Got Desc :=
  match plainGet s g st lanes nol1 va 64 align with
  | (s, .trap c) => (s, .trap c)
  | (s, .block b) => (s, .block b)
  | (s, .ok bs) => match (if va % 64 != 0 then .error 0 else parseDesc va bs) with
    | .error off => (s, .trap (descCause va off))
    | .ok d => (s, .ok d)

/-- An instruction that executes once reads the descriptor at `va`. -/
def Act.readDesc (a : Act) (va : Nat) (go : Act → Desc → State) (align : Nat := 1) : State :=
  a.got (descGet a.s a.g a.st a.lanes a.nol1 va align) go

/-- CTLOAD (R218). -/
def execCtload (f : CtloadOps) (s : State) : Host.Outcome State Fault Refusal :=
  runWord (.ctload f) s fun a =>
    let va := (a.a f.aa.toNat a.lead).toNat
    let bad := fun (a : Act) (reason : Nat) => a.raise ⟨0x160, va, reason⟩
    if va % 8 != 0 then a.raise ⟨0x0A0, va, 8⟩
    else a.plainRead va 8 fun b hd =>
      match tableHeader (natOfBytes hd) with
      | none => bad b 1
      | some (n, _) => b.plainRead va (8 + ceilDiv n 2) fun b bs =>
        match parseTable bs with
        | .error reason => bad b reason
        | .ok t => b.advance ((b.retire b.s []).setCtx b.g.ctx fun c => { c with codes := SMap.insert c.codes f.slot.toNat t })

/-- CTINV (R218). -/
def execCtinv (f : CtinvOps) (s : State) : Host.Outcome State Fault Refusal :=
  runWord (.ctinv f) s fun a =>
    a.advance ((a.retire a.s []).setCtx a.g.ctx fun c => { c with codes := SMap.erase c.codes f.slot.toNat })

end Sys2Proof.Machine
end

