-- ==== Sys2Proof/Machine/Views.lean ====
section
/-! DEFINITION. Derived views: reads through a view descriptor (R238, R242), registration (R237, R239), refreshes (R241, R244),
vwsync and vwstat (R281, R282). -/

namespace Sys2Proof.Machine

open Sys2Proof

/-! ### Reads through a view descriptor -/

/-- The view number of a descriptor (R208). -/
def Desc.view (d : Desc) : Nat := 8 * d.master + d.vidx

/-- A view of a context. -/
def viewOf (s : State) (c n : Nat) : Option View := (s.ctx? c).bind fun x => SMap.find? x.views n

/-- The copy of a view tile that a core reads: its own stack's, else the lowest (R238). -/
def copyFor (v : View) (core tile : Nat) : Nat :=
  let ks := stacksOf v tile
  if ks.contains (clusterOf core) then clusterOf core else ks.headD 0

/-- The place of a view tile in the copy of stack `k` (R238). -/
def viewPlace (d : Desc) (v : View) (k tile : Nat) : TilePlace :=
  ⟨d.index + k * v.stride + 16 * tile, d.data + k * v.stride⟩

/-- Whether a view block's pending bit is set. -/
def blockPending (s : State) (c n k tile : Nat) : Bool :=
  s.refresh.any fun b => b.ctx = c && b.view = n && b.stack = k && b.tile = tile

/-- What the policy of a tile read decides (R242). -/
inductive Bind where
  /-- The entry may be bound; `stale` where a stale one is. -/
  | go (pl : TilePlace) (stale : Bool)
  /-- The read waits for `left` refreshes of a block. -/
  | wait (view stack tile left : Nat)
  | stop (c : Stop)
  deriving DecidableEq, Repr

/-- The refreshes of a block that have not published: one under way, and one whose pending bit is set (R241, R242). -/
def refreshesOf (s : State) (c n k tile : Nat) : Nat :=
  (if blockPending s c n k tile then 1 else 0)
  + match SMap.find? s.refreshing k with
    | some r => if r.cleared && !r.dropped && r.block = ⟨c, n, k, tile⟩ then 1 else 0
    | none => 0

/-- The binding of a tile by a core (R207, R238, R239, R242). Under WAIT a read waits for a refresh that has cleared its pending bit
too: its bit was set before the check (R243). -/
def bindTile (s : State) (w : Who) (d : Desc) (coord : Nat) (stall : Stall) : Bind :=
  if d.vkind != 2 then .go (plainPlace d coord) false
  else match viewOf s w.ctx d.view with
    | none => .stop (.cause ⟨0x122, d.view, 0⟩)
    | some v =>
      let i := tileIndex d (unpackCoord coord)
      let k := copyFor v w.core i
      let pl := viewPlace d v k i
      match stall with
      | .passed => .go pl false
      | .waiting a b c n => .wait a b c n
      | .unchecked =>
        if d.stale = 1 then
          let n := refreshesOf s w.ctx d.view k i
          if n = 0 then .go pl false else .wait d.view k i n
        else if !blockPending s w.ctx d.view k i then .go pl false
        else if d.stale = 2 then .stop (.cause ⟨0x120, coord, d.view⟩)
        else .go pl true

/-- The view status word after a stale read under STALE_OK (R242). -/
def staleMark (v : Word) (view : Nat) : Word :=
  (if v.getLsbD 0 || bitsOf v.toNat 24 16 != 0 then v else v ||| BitVec.ofNat 32 (view * 2 ^ 16)) ||| 1#32

/-- Note a stale read in a group's status word. -/
def Group.markStale (g : Group) (view : Nat) : Group := { g with vstat := staleMark g.vstat view }

/-- Note a stalled WAIT read in a group's status word. -/
def Group.markWait (g : Group) : Group := { g with vstat := g.vstat ||| 2#32 }

/-! ### Publication -/

/-- What an operation makes of the end of a block's refresh (R242, R281). -/
def Op.sawBlock (o : Op) (n k tile : Nat) : Op :=
  let o := match o.stall with
    | .waiting a b c left =>
      if a = n && b = k && c = tile then { o with stall := if left ≤ 1 then .passed else .waiting a b c (left - 1) } else o
    | _ => o
  match o.kind with
  | .vwsync v bs => if v = n && !o.ended then { o with kind := .vwsync v (bs.erase (k, tile)) } else o
  | _ => o

/-- Whether a vwsync has nothing left to wait for. -/
def Op.synced (o : Op) : Bool := match o.kind with
  | .vwsync _ [] => !o.ended
  | _ => false

/-- End the vwsyncs of a context that have nothing left to wait for; while it is out they stay as its record has them (R281). -/
def endSyncs (s : State) (c : Nat) : State :=
  if ctxAway s c then s
  else (groupsOf s c).foldl (fun s p => (p.2.ops.filter Op.synced).foldl (fun s o => endOp s p.1 o.id none) s) s

/-- Operations of a queue's packet. -/
def QStage.mapOps (f : Op → Op) : QStage → QStage
  | .copying ops => .copying (ops.map f)
  | q => q

/-- Clear the pending bit of a block (R241). -/
def clearBlock (s : State) (b : ViewBlock) : State := { s with refresh := s.refresh.filter fun x => x != b }

/-- A refresh of a block has published, or failed, or was cancelled: the reads and vwsyncs of the context that wait for it see it
(R241, R242, R244, R281). -/
def publishBlock (s : State) (c n k tile : Nat) : State :=
  endSyncs { s with
    groups := s.groups.map fun p => if p.2.ctx = c then (p.1, { p.2 with ops := p.2.ops.map fun o => o.sawBlock n k tile }) else p
    queues := s.queues.map fun p =>
      if p.2.bound = some c then (p.1, { p.2 with stage := p.2.stage.mapOps fun o => o.sawBlock n k tile }) else p } c

/-! ### Registration -/

/-- What Igier finds at a run of bytes of a context: where each 16-byte piece lies, or why it cannot be reached (R382). -/
def igierRun (s : State) (c kind : Nat) : List (Nat × Nat) → Except Stop (List (Nat × Nat))
  | [] => .ok []
  | (va, n) :: rest =>
    match reachVirtual s c va kind with
    | .replay code => .error (.replay code va kind)
    | .bad code info => .error (.cause ⟨code, va, info⟩)
    | .ok pa => (igierRun s c kind rest).map fun ps => (pa, n) :: ps

/-- Igier reads a run of bytes of a context. -/
def igierRead (s : State) (c va n : Nat) : Except Stop (List Byte) :=
  (igierRun s c 4 (piecesOf va n (n / 16 + 2))).map fun ps => ps.flatMap fun p => readBytes s p.1 p.2

/-- Igier writes a run of bytes of a context. -/
def igierWrite (s : State) (c va : Nat) (bs : List Byte) : Except Stop State :=
  (igierRun s c 5 (piecesOf va bs.length (bs.length / 16 + 2))).map fun ps =>
    claimFrames (ps.foldl (fun (r : State × List Byte) p => (writeFor r.1 (some c) p.1 (r.2.take p.2), r.2.drop p.2)) (s, bs)).1
      (some c) (ps.map (·.1))

/-- Bytes that no rule gives, at places of their own (log entry 2). -/
def openBytes (s : State) (place n : Nat) : List Byte := (upTo n).map fun i => (Config.freeWord s.free (place + i)).truncate 8

/-- Igier reads a descriptor (R209). -/
def igierDesc (s : State) (c va : Nat) : Except Stop Desc :=
  if va % 64 != 0 then .error (.cause (descCause va 0))
  else match igierRead s c va 64 with
    | .error e => .error e
    | .ok bs => match parseDesc va bs with
      | .error off => .error (.cause (descCause va off))
      | .ok d => .ok d

/-- The offending bytes of a view record, given whether its view is SQUARE (R237). -/
def viewRecordBreaches (x : Nat) (square : Bool) : List Nat :=
  reservedBytes x [(511, 218), (208, 208)]
  ++ (if bitsOf x 191 128 % 65536 != 0 then [16] else [])
  ++ (if bitsOf x 207 192 = 0 then [24] else [])
  ++ (if 2 ≤ bitsOf x 211 210 || (bitsOf x 211 210 = 1 && !square) then [26] else [])

/-- The dimension in which a view's extents are not the master's (R237). -/
def extentMismatch (m v : Desc) (transpose : Bool) : Option Nat :=
  let e := fun i => m.ext.getD (if transpose then (if i = 0 then 1 else if i = 1 then 0 else i) else i) 0
  (upTo 4).find? fun i => v.ext.getD i 0 != e i

/-- The view that a record and its descriptors define. -/
def viewOfRecord (x : Nat) (m v : Desc) : View :=
  { master := m, desc := v, stride := bitsOf x 191 128, stackMask := bitsOf x 207 192, partitioned := bitOf x 209,
    transpose := bitsOf x 211 210 = 1, slot := if bitOf x 216 then some (bitsOf x 215 212) else none }

/-- Write the entries of every copy of a new view (R239). -/
def writeEntries (s : State) (c : Nat) (v : View) : List (Nat × Nat) → Except Stop State
  | [] => .ok s
  | (k, i) :: rest =>
    match igierWrite s c (viewPlace v.desc v k i).entry (IndexEntry.bytes { offset := 0, view := true }) with
    | .error e => .error e
    | .ok s => writeEntries s c v rest

/-- Register a view (R239): its entries are written and every pending bit is set. (DEDUCED, log entry 46.) -/
def registerView (s : State) (c n : Nat) (v : View) : Except Stop State :=
  let blocks := (upTo (tileTotal v.desc)).flatMap fun i => (stacksOf v i).map fun k => (k, i)
  match writeEntries s c v blocks with
  | .error e => .error e
  | .ok s =>
    let s := s.setCtx c fun x => { x with views := SMap.insert x.views n v }
    .ok (blocks.foldl (fun s b => setBlock s c n b.1 b.2) s)

/-- Drop a view: its pending bits are cleared and so its refreshes cancelled, but for those that have begun, which finish for themselves;
the reads and vwsyncs that wait for it wait no more (R239, R281). -/
def dropView (s : State) (c n : Nat) : State :=
  let s := s.setCtx c fun x => { x with views := SMap.erase x.views n }
  let bs := s.refresh.filter fun b => b.ctx = c && b.view = n
  let begun := (s.refreshing.map fun p => p.2.block).filter fun b => b.ctx = c && b.view = n
  let s := (bs ++ begun).foldl (fun s b => publishBlock s c n b.stack b.tile) s
  let s := bs.foldl clearBlock s
  let s : State := { s with refreshing := s.refreshing.map fun p =>
    (p.1, if p.2.block.ctx = c && p.2.block.view = n then { p.2 with dropped := true } else p.2) }
  endSyncs { s with groups := s.groups.map fun p => if p.2.ctx = c then
    (p.1, { p.2 with ops := p.2.ops.map fun o => match o.kind with
      | .vwsync v _ => if v = n && !o.ended then { o with kind := .vwsync v [] } else o
      | _ => o }) else p } c

/-- The work of a VIEW_REG packet that names the record at `va` (R237, R239). -/
def viewPacket (s : State) (c va : Nat) : Except Stop State :=
  match igierRead s c va 64 with
  | .error e => .error e
  | .ok bs =>
    let x := natOfBytes bs
    let vva := bitsOf x 127 64
    let square : Except Stop Bool :=
      if bitsOf x 211 210 != 1 || vva % 64 != 0 then .ok true
      else (igierRead s c vva 64).map fun b => (descOf vva (natOfBytes b)).shape = 1
    match square with
    | .error e => .error e
    | .ok sq => match leastOf (viewRecordBreaches x sq) with
      | some off => .error (.cause ⟨0x140, va, off⟩)
      | none => match igierDesc s c (bitsOf x 63 0) with
        | .error e => .error e
        | .ok m => match igierDesc s c vva with
          | .error e => .error e
          | .ok v =>
            match extentMismatch m v (bitsOf x 211 210 = 1) with
            | some i => .error (.cause (descCause vva (0x10 + 4 * i)))
            | none =>
              let views := match s.ctx? c with
                | some y => y.views
                | none => []
              let unknown := fun (why : Nat) => Except.error (Stop.cause ⟨0x122, v.view, why⟩)
              let held := (SMap.find? views v.view).isSome
              if m.vkind != 1 || v.vkind != 2 || m.master != v.master then .error (.cause (descCause vva 0x29))
              else if bitOf x 217 then (if held then .ok (dropView s c v.view) else unknown 3)
              else if held then unknown 1
              else if views.any fun p => p.1 / 8 = v.master && p.2.master.addr != m.addr then unknown 2
              else if (upTo 16).any fun k =>
                  bitOf (bitsOf x 207 192) k && SMap.get 0 s.clusterPart k != (ctxOwner s c).1 then
                .error (.cause ⟨0x0A3, va, 0⟩)
              else registerView s c v.view (viewOfRecord x m v)

/-! ### Refreshes -/

/-- The master coordinate of a view tile (R238). -/
def masterCoord (v : View) (tile : Nat) : Nat :=
  let c := tileCoord v.desc tile
  packCoord (if v.transpose then [c.getD 1 0, c.getD 0 0, c.getD 2 0, c.getD 3 0] else c)

/-- The values of a view tile in its own element order (R238). -/
def viewValues (v : View) (t : Tile) : List Word :=
  (upTo 256).map fun n =>
    BitVec.ofNat 32 (t.value false (if v.transpose then 16 * (n % 16) + n / 16 else n)).bits

/-- Whom a view engine acts for: the block's context, at the core where the engine of the block's cluster runs (R241). -/
def ViewBlock.who (s : State) (b : ViewBlock) : Who := { ctx := b.ctx, core := viewCore s b.stack, team := 2 ^ 64, attach := [] }

/-- Change the refresh that a view engine runs. -/
def setRefresh (s : State) (k : Nat) (f : Refresh → Refresh) : State := { s with refreshing := SMap.modify s.refreshing k f }

/-- The refresh of a view engine has published or failed (R241, R244). -/
def endRefresh (s : State) (k : Nat) (r : Refresh) : State :=
  let b := r.block
  let s := { s with refreshing := SMap.erase s.refreshing k }
  if r.dropped then s else publishBlock s b.ctx b.view b.stack b.tile

/-- A refresh clears the pending bit of its block, unless its view has been dropped: the number may name another view by now (R239, R241).
-/
def Refresh.clear (s : State) (r : Refresh) : State := if r.dropped then s else clearBlock s r.block

/-- A refresh fails: its pending bit is cleared, unless it has been already, and its failure is published next (R244). -/
def failRefresh (s : State) (k : Nat) (r : Refresh) (cause : Nat) : State :=
  setRefresh (if r.cleared then s else r.clear s) k fun x => { x with cleared := true, cause := some cause, faultIds := [] }

/-- What stops a step of a refresh: a translation fault, which is reported and waited for; a fatal cause, which ends the context; or a
failure (R161, R168, R244). -/
def stopRefresh (s : State) (k : Nat) (r : Refresh) (e : Stop) : State :=
  let core := viewCore s k
  match e with
  | .replay code va kind =>
    let x := reportFault s r.block.ctx code va kind { core := core, strand := 3 }
    setRefresh x.1 k fun y => { y with faultIds := [x.2] }
  | .cause c =>
    if fatalCode c.code then contextFatal s r.block.ctx c { core := core, strand := 3 } else failRefresh s k r c.code

/-- The first step of a refresh: the master entry is read and the master tile decoded into the values of the view tile; a decode that a
fault of the stream has held up goes on under the entry and table that it has bound (R219, R241). -/
def readRefresh (s : State) (k : Nat) (r : Refresh) : State :=
  let w := r.block.who s
  let mc := masterCoord r.view r.block.tile
  let mp := plainPlace r.view.master mc
  let decode := fun (s : State) => match decodeKept s w r.view.master mc mp r.entry with
    | .error (e, b, s) => stopRefresh (setRefresh s k fun x => { x with entry := b }) k r e
    | .ok (t, _, s) => setRefresh s k fun x => { x with entry := none, values := some (viewValues r.view t) }
  if r.entry.isSome then decode s
  else match tileRead s w r.view.master mp.entry 16 with
    | .error e => stopRefresh s k r e
    | .ok (bs, s) => decode (setRefresh s k fun x => { x with first := some (natOfBytes bs) })

/-- The second step: the master entry is read again. One that has changed starts the refresh again; else the pending bit is cleared
(R241). -/
def checkRefresh (s : State) (k : Nat) (r : Refresh) : State :=
  match tileRead s (r.block.who s) r.view.master (plainPlace r.view.master (masterCoord r.view r.block.tile)).entry 16 with
  | .error e => stopRefresh s k r e
  | .ok (bs, s) =>
    if r.first != some (natOfBytes bs) then setRefresh s k fun x => { x with first := none, values := none }
    else setRefresh (r.clear s) k fun x => { x with cleared := true }

/-- The generation that a refresh has read of its master (R241). -/
def Refresh.gen (r : Refresh) : Option Nat := r.first.map fun x => (entryOfNat x).gen

/-- The stream place that the current entry of a view tile does not name: place 1 where it names neither (R241). -/
def refreshPlace (v : View) (tile old : Nat) : Nat :=
  let units := rawUnits v.desc.fmt
  units * (if (entryOfNat old).offset = units * (2 * tile + 1) then 2 * tile else 2 * tile + 1)

/-- The third step: the stream is written to the place that the current entry does not name, and the entry published (R241). -/
def writeRefresh (s : State) (k : Nat) (r : Refresh) (vals : List Word) : State :=
  let w := r.block.who s
  let b := r.block
  let v := r.view
  let pl := viewPlace v.desc v b.stack b.tile
  match tileRead s w v.desc pl.entry 16 with
  | .error e => stopRefresh s k r e
  | .ok (old, s) =>
    let place := refreshPlace v b.tile (natOfBytes old)
    match encodeTile s w v.desc (packCoord (tileCoord v.desc b.tile)) vals v.slot (some place) (r.gen.getD 0) true pl with
    | .error (e, s) => stopRefresh s k r e
    | .ok s => endRefresh s k r

/-- A refresh that has begun finishes without publishing: its master tile is decoded and its stream written, where nothing stops it, and its
entry stays as it is (R383). -/
def finishRefresh (s : State) (r : Refresh) : State :=
  let w := r.block.who s
  let v := r.view
  let mc := masterCoord v r.block.tile
  let vals : Option (List Word) := r.values.or (match decodeKept s w v.master mc (plainPlace v.master mc) r.entry with
    | .ok (t, _, _) => some (viewValues v t)
    | .error _ => none)
  match (if r.cause.isSome || !r.faultIds.isEmpty then none else vals) with
  | none => s
  | some vals =>
    let pl := viewPlace v.desc v r.block.stack r.block.tile
    match tileRead s w v.desc pl.entry 16 with
    | .error _ => s
    | .ok (old, s) =>
      let place := refreshPlace v r.block.tile (natOfBytes old)
      match encodeStream s w v.desc (packCoord (tileCoord v.desc r.block.tile)) vals v.slot (some place) pl with
      | .error (_, s) => s
      | .ok (_, s) => s

/-- The publication of a failure: a POISONED entry and one error record (R244). A place that can be reached no more, or whose page is
refused, keeps its entry. -/
def publishFailure (s : State) (k : Nat) (r : Refresh) (cause : Nat) : State :=
  let w := r.block.who s
  let b := r.block
  let pl := viewPlace r.view.desc r.view b.stack b.tile
  let record := fun (s : State) (src : Nat) =>
    ringEmit (endRefresh s k r) b.ctx 3
      (mkRec 0x34 0 w.core [b.view, b.stack, packCoord (tileCoord r.view.desc b.tile), cause, src, 0, 0])
  let poisoned : Except Stop (Nat × State) :=
    match engineRead s w pl.entry 16 with
    | .error e => .error e
    | .ok (bs, s) =>
      let e := entryOfNat (natOfBytes bs)
      let src := r.gen.getD e.src
      (engineWrite s w pl.entry (IndexEntry.bytes
        { e with mode := 3, length := 0, slot := 0, gen := e.gen + 1, src := src, enc := false, view := true, rsv := 0 })).map
          fun s => (src, s)
  match poisoned with
  | .ok (src, s) => record s src
  | .error (.cause _) => record s (r.gen.getD 0)
  | .error e => stopRefresh s k r e

/-- Whether a refresh that arrived before an operation waits for the register-file port of its core, or for its encode path where
`encode`; of requests that arrived in one cycle the refresh is the last (R15). -/
def refreshFirst (s : State) (o : Op) (encode : Bool) : Bool :=
  s.refreshing.any fun p => viewCore s p.1 = o.core && p.2.faultIds.isEmpty && p.2.cause.isNone && p.2.cyc != o.cyc && p.2.stamp < o.stamp
    && (if encode then p.2.cleared else p.2.values.isNone)

/-- One step of a refresh (R241, R244). (DEDUCED, log entry 20.) -/
def stepRefresh (s : State) (k : Nat) (r : Refresh) : State :=
  if !r.faultIds.isEmpty then s
  else match r.cause, r.values with
    | some c, _ => publishFailure s k r c
    | none, none => readRefresh s k r
    | none, some vals => if r.cleared then writeRefresh s k r vals else checkRefresh s k r

/-! ### vwsync and vwstat -/

/-- The blocks of a view whose refreshes a vwsync waits for: the pending ones, and those under way that have cleared their pending bits, but
for those of an earlier view of the number, which has been dropped (R239, R243, R281). -/
def syncBlocks (s : State) (c view : Nat) : List (Nat × Nat) :=
  ((s.refresh.filter fun b => b.ctx = c && b.view = view).map fun b => (b.stack, b.tile))
  ++ s.refreshing.filterMap fun p =>
    if p.2.cleared && !p.2.dropped && p.2.block.ctx = c && p.2.block.view = view then some (p.2.block.stack, p.2.block.tile) else none

/-- VWSYNC (R281). -/
def execVwsync (f : XaOps) (s : State) : Host.Outcome State Fault Refusal :=
  runWord (.vwsync f) s fun a =>
    let x := (a.a f.aa.toNat a.lead).toNat
    if 2 ^ 9 ≤ x || (viewOf a.s a.g.ctx x).isNone then a.raise ⟨0x122, x, 0⟩
    else if 63 ≤ a.g.count 4 then a.wait a.s (.engine 4)
    else
      let bs := syncBlocks a.s a.g.ctx x
      a.advance (endSyncs (acceptOp (a.retire a.s []) a.gk 4 a.lanes 1 0 (.vwsync x bs)) a.g.ctx)

/-- VWSTAT (R282). -/
def execVwstat (f : XdOps) (s : State) : Host.Outcome State Fault Refusal :=
  runWord (.vwstat f) s fun a =>
    a.advance ((a.retire a.s (a.a1 f.ad fun _ => a.g.vstat.zeroExtend 64)).setGroup a.gk fun g => { g with vstat := 0#32 })

end Sys2Proof.Machine
end

