-- ==== Sys2Proof/Machine/Copies.lean ====
section
/-! DEFINITION. The copy engine: operations by holder, lane copies (R288 to R290), request copies (R291 to R299) and tier
prefetches (R300, R301). -/

namespace Sys2Proof.Machine

open Sys2Proof

/-! ### Operations by holder -/

/-- Whether a context is served: it runs, or is being brought to the boundary of its pre-emption (R384, R427). -/
def ctxRuns (s : State) (c : Nat) : Bool :=
  match s.ctx? c with
  | some x => x.status = .running || x.status = .preempting
  | none => false

/-- The operation that a holder names, and for whom it acts: of a packet, the first block not yet done (R332). -/
def heldOp (s : State) : OpRef → Option (Op × Who)
  | .ofGroup gk n => (s.group? gk).bind fun g => (g.op? n).map fun o => (o, { g.who with core := o.core, stream := o.stream })
  | .ofQueue q =>
    let h := s.queue q
    match h.stage, h.bound with
    | .copying ops, some c => (ops.find? fun o => !o.ended).map fun o => (o, { ctx := c, core := o.core, team := 2 ^ 64, attach := [] })
    | _, _ => none

/-- Change an operation. -/
def setHeld (s : State) (r : OpRef) (id : Nat) (f : Op → Op) : State :=
  match r with
  | .ofGroup gk _ => s.setGroup gk fun g => g.setOp id f
  | .ofQueue q => s.setQueue q fun h => { h with stage := h.stage.mapOps fun o => if o.id = id then f o else o }

/-- A directory entry. -/
def State.seg? (s : State) (c k : Nat) : Option Segment := (s.ctx? c).bind fun x => SMap.find? x.segments k

/-- Whether every segment that a group attaches is in its banks (R234). -/
def Group.attached (s : State) (g : Group) : Bool :=
  g.attach.all fun k => match s.seg? g.ctx k with
    | some x => x.state = 0 || x.state = 4
    | none => true

/-- Whether an operation's next item may be performed; after a resume, not before the segments that its group attaches have been restored,
whose bytes the restore brings (R183, R234, R235). -/
def heldMay (s : State) (r : OpRef) (o : Op) (w : Who) : Bool :=
  ctxRuns s w.ctx && match r with
    | .ofGroup gk _ => match s.group? gk with
      | some g => g.opMayAct o && g.attached s
      | none => false
    | .ofQueue _ => !o.ended && o.faultIds.isEmpty

/-- Whether lane `l`'s item of a cpl may be performed as far as its own earlier accesses go (R257). -/
def laneReady (s : State) (r : OpRef) (o : Op) (l : Nat) : Bool :=
  match r with
  | .ofGroup gk _ => match s.group? gk with
    | some g => g.laneSettled o l
    | none => false
  | .ofQueue _ => true

/-- The sectors that an operation has not yet counted down (R167, R182). -/
def Op.left (o : Op) : Nat :=
  match o.kind with
  | .cpl items .. => items.length
  | .pft _ lines .. => 4 * (lines - o.next)
  | _ => o.count - o.next

/-- The sectors that one step of an operation's countdown takes: a line's four of a prefetch, else one (R365). -/
def Op.stride (o : Op) : Nat :=
  match o.kind with
  | .pft .. => 4
  | _ => 1

/-- Count down what an operation leaves undone on its barriers, item by item, with a fault or a cancellation (R167, R182, R365). -/
def dropSectors (s : State) (o : Op) (cancel : Bool) : State :=
  (upTo (o.left / o.stride)).foldl (fun s _ => o.bars.foldl (fun s b =>
    (barStep s b.1 b.2 { down := o.stride, fault := !cancel, cancel := cancel }).1) s) s

/-- An operation of a group fails (R161, R167). -/
def failOp (s : State) (gk : Nat) (o : Op) (c : Cause) : State :=
  match s.group? gk with
  | none => s
  | some g => if fatalCode c.code then opFatal s g o c else endOp (dropSectors s o false) gk o.id (some c)

/-- An operation fails. -/
def failHeld (s : State) (r : OpRef) (o : Op) (w : Who) (c : Cause) : State :=
  match r with
  | .ofGroup gk _ => failOp s gk o c
  | .ofQueue q => if fatalCode c.code then contextFatal s w.ctx c { core := o.core, strand := 2 } else failPacket s q c

/-- An operation cannot perform an item: it fails, or waits for the answer to a translation fault (R167, R168). -/
def stopHeld (s : State) (r : OpRef) (o : Op) (w : Who) (e : Stop) : State :=
  match e with
  | .cause c => failHeld s r o w c
  | .replay code va kind =>
    match r with
    | .ofGroup gk _ => match s.group? gk with
      | some g => opFault s gk g o code va kind
      | none => s
    | .ofQueue q =>
      let x := reportFault s w.ctx code va kind { queue := q, core := o.core, strand := 2 }
      setHeld x.1 r o.id fun o => { o with faultIds := [x.2], faultVa := va }

/-- The samples of decode and copy latency that a completed operation of a group gives (R374). -/
def sampleCopy (s : State) (gk : Nat) (o : Op) : State :=
  match s.group? gk with
  | none => s
  | some g =>
    let now := (s.core o.core).cyc.toNat
    let s := match o.kind with
      | .copyTile _ _ (some _) => sample s o.core g.ctx 2 (now - o.bound)
      | _ => s
    if o.cls = 0 then sample s o.core g.ctx 3 (now - o.cyc) else s

/-- An operation completes. -/
def doneHeld (s : State) (r : OpRef) (o : Op) : State :=
  match r with
  | .ofGroup gk _ => endOp (sampleCopy s gk o) gk o.id none
  | .ofQueue _ => setHeld s r o.id fun o => { o with ended := true }

/-- An item is done: it is counted down on the operation's barriers, and the operation completes with the last (R259, R294,
R295). -/
def itemDone (s : State) (r : OpRef) (o : Op) (w : Who) (f : Op → Op) : State :=
  let step := fun (x : State × Option Cause) (b : Nat × Nat) =>
    let y := barStep x.1 b.1 b.2 { down := 1 }
    (y.1, x.2.or (if y.2 = 0 then none else some ⟨0x180, coreWindow + o.barOff, y.2⟩))
  let x := o.bars.foldl step (s, none)
  let next := fun (o : Op) => { f o with next := o.next + 1, stall := .unchecked, entry := none, faultVa := 0 }
  let s := setHeld x.1 r o.id next
  match x.2 with
  | some c => failHeld s r (next o) w c
  | none => if o.next + 1 = o.count then doneHeld s r o else s

/-! ### Barriers of engine operations -/

/-- The bank byte of the barrier at an offset of the core window of `core`, for an engine acting for `w` (R288, R295, R364). -/
def engineBarrier (s : State) (w : Who) (core off va : Nat) : Except Cause (Nat × Nat) :=
  let place : Option (Nat × Nat) :=
    if off < 0x180000 then some (core, off)
    else if 0x200000 ≤ off && off < 0x380000 && core / 2 = w.core / 2 then
      (s.team? w.team).bind fun t => (t.banks[(off - 0x200000) / 65536]?).bind fun b =>
        if core = w.core || t.pair then some (b.1, b.2 * 65536 + off % 65536) else none
    else none
  match place with
  | none => .error ⟨0x182, va, 0⟩
  | some (c, addr) =>
    if addr % 16 != 0 || bankMode (s.core c) (addr / 65536) != 1 then .error ⟨0x182, va, 0⟩
    else match bankCause s w.ctx w.attach .copyTo c addr (c / 2 != w.core / 2) with
      | some 0x105 => .error ⟨0x105, va, 0⟩
      | some _ => .error ⟨0x182, va, 0⟩
      | none => if (barAt s c addr).tag = 0 then .error ⟨0x181, va, 0⟩ else .ok (c, addr)

/-- Bind barriers to the newest operation of a group, one step on each, and fail the operation with the first cause (R167, R289,
R295). -/
def bindBars (s : State) (gk id : Nat) (ps : List (Except Cause (Nat × Nat))) (st : BarStep) : State :=
  let good := ps.filterMap fun p => match p with
    | .ok b => some b
    | .error _ => none
  let bad := ps.findSome? fun p => match p with
    | .ok _ => none
    | .error c => some c
  let off := match s.group? gk with
    | some g => ((g.op? id).map (·.barOff)).getD 0
    | none => 0
  let step := fun (x : State × Option Cause) (b : Nat × Nat) =>
    let y := barStep x.1 b.1 b.2 st
    (y.1, x.2.or (if y.2 = 0 then none else some ⟨0x180, coreWindow + off, y.2⟩))
  let x := good.foldl step (s.setGroup gk fun g => g.setOp id fun o => { o with bars := good }, bad)
  match x.2, (x.1.group? gk).bind fun g => g.op? id with
  | some c, some o => failOp x.1 gk o c
  | _, _ => x.1

/-! ### Lane copies -/

/-- The checks of one address of a cpl lane at issue (R264, R289). -/
def cplCheck (s : State) (g : Group) (kind va n : Nat) : Option Cause :=
  if 2 ^ 56 ≤ va then some ⟨0x0C3, va, kind⟩
  else if va % n != 0 then some ⟨0x0A0, va, n⟩
  else if windowBase ≤ va then
    match engineSpot s g.who kind va with
    | .error (.cause c) => some c
    | _ => none
  else none

/-- CPL (R288 to R290). -/
def execCpl (f : CplOps) (s : State) : Host.Outcome State Fault Refusal :=
  runWord (.cpl f) s fun a =>
    let n := 4 * 2 ^ f.size.toNat
    let dst := fun l => (a.a f.aa.toNat l).toNat
    let src := fun l => (a.a f.ab.toNat l).toNat
    let bad := fun l => (cplCheck a.s a.g 4 (src l) n).or (cplCheck a.s a.g 5 (dst l) n)
    if a.lanes.any fun l => (bad l).isSome then
      a.settle a.s fun l => match bad l with
        | some c => .trap c
        | none => .stay
    else if 63 ≤ a.g.count 0 then a.wait a.s (.engine 0)
    else
      let items := a.lanes.map fun l => (l, dst l, src l)
      let va := (a.a f.bar.toNat a.lead).toNat
      let s := acceptOp (a.retire a.s []) a.gk 0 a.lanes a.lanes.length
        (if f.bar = 0#5 then 0 else va % 2 ^ 22) (.cpl items n va f.arv)
      if f.bar = 0#5 then a.advance s
      else
        let place : Except Cause (Nat × Nat) :=
          if coreWindow ≤ va && va < coreWindow + 0x400000 then engineBarrier s a.g.who a.g.core (va - coreWindow) va
          else if peerWindow ≤ va && va < peerWindow + 0x180000 then
            engineBarrier s a.g.who (if a.g.core % 2 = 0 then a.g.core + 1 else a.g.core - 1) (va - peerWindow) va
          else .error ⟨0x182, va, 0⟩
        a.advance (bindBars s a.gk a.g.nextId [place] { expect := a.lanes.length, arrive := if f.arv then 1 else 0 })

/-- Whether two runs of `n` bytes meet. -/
def runsMeet (n x y : Nat) : Bool := decide (x < y + n) && decide (y < x + n)

/-- The translation faults that a lane of a cpl would meet (R168, R289). -/
def cplFault (s : State) (w : Who) (n : Nat) (it : Nat × Nat × Nat) : Option Stop :=
  match engineSpot s w 4 it.2.2 with
  | .error e => match e with
    | .replay .. => some e
    | .cause _ => none
  | .ok _ => match engineRun s w 5 it.2.1 n with
    | .error e => match e with
      | .replay .. => some e
      | .cause _ => none
    | .ok _ => none

/-- Whether a resolved destination is a FIFO bank with no free slot (R323). -/
def spotFull (s : State) : Spot → Bool
  | .fifo core bank => fifoFull s core bank
  | _ => false

/-- Write an item's bytes, all within one sector, at its destination: a FIFO takes them into its tail slot (R323, R324). -/
def itemWrite (s : State) (c dst : Nat) (bs : List Byte) : Spot → State
  | .fifo core bank => fifoPush s core bank (dst % 32) bs
  | p => claimSpots c [p] (spotWrite s c p bs)

/-- CPL_ITEM (R289): one lane's item, where no lower lane's pending item writes the same byte and no lower lane waits for a
translation; a translation fault stops the operation at the lowest faulting lane. -/
def execCplItem (gk id lane : Nat) (s : State) : Host.Outcome State Fault Refusal :=
  let r := OpRef.ofGroup gk id
  .next (match heldOp s r with
    | none => s
    | some (o, w) =>
      match o.kind with
      | .cpl items n bar arv =>
        let low := items.filter fun i => decide (i.1 ≤ lane)
        match items.find? fun i => i.1 = lane with
        | none => s
        | some it =>
          if !heldMay s r o w || !laneReady s r o lane || low.any fun i => i.1 != lane && runsMeet n i.2.1 it.2.1 then s
          else match low.findSome? (cplFault s w n) with
            | some e => stopHeld s r o w e
            | none =>
              match engineRun s w 5 it.2.1 n, engineRead s w it.2.2 n with
              | .error e, _ => stopHeld s r o w e
              | _, .error e => stopHeld s r o w e
              | .ok (ps, _), .ok (bs, s) =>
                match ps with
                | (p, _) :: _ =>
                  if spotFull s p then s
                  else itemDone (itemWrite s w.ctx it.2.1 bs p) r o w fun o =>
                    { o with kind := .cpl (items.filter fun i => i.1 != lane) n bar arv }
                | [] => s
      | _ => s)

/-! ### Request blocks -/

/-- A 32-bit signed stride of a request block (R292). -/
def strideOf (x hi lo : Nat) : Int := signedOf 4 (bitsOf x hi lo)

/-- The fields of a request block (R292). -/
def blkSource (x : Nat) : Nat := bitsOf x 63 0
def blkDest (x : Nat) : Nat := bitsOf x 127 64
def blkRowBytes (x : Nat) : Nat := bitsOf x 272 256
def blkRows (x : Nat) : Nat := bitsOf x 295 280
def blkPlanes (x : Nat) : Nat := bitsOf x 311 296
def blkBarrier (x : Nat) : Nat := bitsOf x 341 320
def blkMask (x : Nat) : Nat := bitsOf x 359 344
def blkAux (x : Nat) : Nat := bitsOf x 447 384
def blkCoord (x : Nat) : Nat := bitsOf x 511 448

/-- Flag bits of a request block: B 368, A 369, X 370, D 371, N 372, S 373. -/
def blkFlag (x n : Nat) : Bool := bitOf x n

/-- The offending bytes of a block's own fields: every row of R293 but the D or N row. -/
def blockBreaches (x : Nat) : List Nat :=
  let when := fun (c : Bool) (off : Nat) => if c then [off] else []
  let dn := blkFlag x 371 || blkFlag x 372
  let flags := [371, 372, 373].filter (blkFlag x)
  let inRange := coreWindow ≤ blkDest x && blkDest x < coreWindow + 0x180000
  reservedBytes x [(279, 273), (319, 312), (343, 342), (367, 360), (383, 376)]
  ++ when (bitsOf x 375 374 = 3) 0x2E
  ++ when (blkRowBytes x = 0) 0x20 ++ when (blkRows x = 0) 0x23 ++ when (blkPlanes x = 0) 0x25
  ++ when (1 < flags.length || ((blkFlag x 369 || blkFlag x 370) && !blkFlag x 368)) 0x2E
  ++ when (blkBarrier x % 16 != 0 || (if blkMask x = 0 then 0x37FFFF else 0x17FFFF) < blkBarrier x) 0x28
  ++ when ((blkMask x != 0 && !inRange) || (blkFlag x 372 && blkMask x != 0)) 0x08
  ++ when (blkFlag x 373 && (bitsOf x 191 128 != 0 || blkRowBytes x % 2 ^ bitsOf x 375 374 != 0)) 0x10
  ++ when (blkAux x != 0 && !dn && !blkFlag x 373) 0x30
  ++ when (blkCoord x != 0 && !dn) 0x38

/-- Whether a decode or encode copy breaks R297 or R298. -/
def tileShapeBad (x : Nat) (d : Desc) : Bool :=
  let size := if blkFlag x 372 then 1024 else 1024 / fmtK d.fmt + 64
  bitsOf x 255 128 != 0 || blkRows x != 1 || blkPlanes x != 1 || blkRowBytes x != size
  || (blkFlag x 371 && (blkSource x != 0 || blkDest x % 32 != 0)) || (blkFlag x 372 && blkDest x != 0)

/-- A sum over `n` terms whose value depends on the index modulo 32. -/
def periodicSum (n : Nat) (f : Nat → Nat) : Nat :=
  n / 32 * ((upTo 32).foldl (fun s i => s + f i) 0) + (upTo (n % 32)).foldl (fun s i => s + f i) 0

/-- An address plus a signed offset, modulo 2^64. -/
def addrPlus (a : Nat) (d : Int) : Nat := ((Int.ofNat a + d) % 2 ^ 64).toNat

/-- The sectors that a row of `n` bytes at `a` touches (R294). -/
def rowSectors (a n : Nat) : Nat := (a % 32 + n + 31) / 32

/-- The items of a block (R294, R297, R298). -/
def blockItems (x : Nat) : Nat :=
  if blkFlag x 372 then 1
  else periodicSum (blkPlanes x) fun p => periodicSum (blkRows x) fun r =>
    rowSectors (addrPlus (blkDest x) (p * strideOf x 255 224 + r * strideOf x 223 192)) (blkRowBytes x)

/-- The cores that a block's copy reaches (R295). -/
def maskCores (x core : Nat) : List Nat :=
  ((upTo 16).filter fun i => bitOf (blkMask x) i).map (core / 16 * 16 + ·)

/-- The core whose window a block with no mask writes (R295). -/
def windowCore (core va : Nat) : Nat :=
  if coreWindow ≤ va then core
  else if peerWindow ≤ va then (if core % 2 = 0 then core + 1 else core - 1)
  else if clusterWindow ≤ va && va < clusterWindow + 0x4000000 then core / 16 * 16 + (va - clusterWindow) / 0x400000
  else core

/-- The cores of a block's barriers (R295, R298). -/
def barrierCores (x core : Nat) : List Nat :=
  if blkFlag x 372 then [core]
  else if blkMask x != 0 then maskCores x core else [windowCore core (blkDest x)]

/-- Accept one block for a group (R295). -/
def acceptBlock (s : State) (gk lane : Nat) (b : Nat × Option Desc) : State :=
  match s.group? gk with
  | none => s
  | some g =>
    let x := b.1
    let kind : OpKind := match b.2 with
      | some d => .copyTile x d none
      | none => .copy x 0 0 0 0
    let n := blockItems x
    let s := acceptOp s gk 0 [lane] n (if blkFlag x 368 then blkBarrier x else 0) kind
    if !blkFlag x 368 then s
    else
      let ps := (barrierCores x g.core).map fun c => engineBarrier s g.who c (blkBarrier x) (coreWindow + blkBarrier x)
      bindBars s gk g.nextId ps
        { expect := if blkFlag x 370 then n else 0, arrive := if blkFlag x 369 then 1 else 0 }

/-- The bytes of `n` bytes at a core-window address in SCR banks or team scratchpad, read by an instruction, or the cause
(R291, R303, R306). -/
def localBytes (s : State) (g : Group) (va n align : Nat) : Except Cause (List Byte) :=
  let one := fun (p : Nat × Nat) => match placeOf s g.core g.team p.1 with
    | .bank core addr false =>
      if bankMode (s.core core) (addr / 65536) != 1 then Except.error (Cause.mk 0x0A1 va 0)
      else match bankCause s g.ctx g.attach .load core addr false with
        | some c => .error ⟨c, va, 0⟩
        | none => .ok (lsRead s core addr p.2)
    | _ => .error ⟨0x0A1, va, 0⟩
  let rec all : List (Nat × Nat) → Except Cause (List Byte)
    | [] => .ok []
    | p :: rest => match one p with
      | .error c => .error c
      | .ok bs => (all rest).map fun r => bs ++ r
  if va < coreWindow || 2 ^ 56 ≤ va || windowBase + 2 ^ 32 ≤ va then .error ⟨0x0A1, va, 0⟩
  else match all (piecesOf va n (n / 16 + 2)) with
    | .error c => .error c
    | .ok bs => if va % align != 0 then .error ⟨0x0A0, va, align⟩ else .ok bs

/-- The accesses of a lane to banks that are still to be performed. -/
def Group.bankPending (g : Group) (l : Nat) : List Nat :=
  (g.accs.filter fun x => !x.performed && x.lane = l && x.pieces.any fun p => isBankPlace p.1).map (·.id)

/-- The bytes of a block in local store that an instruction of lane `l` reads, after the lane's own accesses to banks (R248, R291). -/
def localGet (s : State) (g : Group) (l va n align : Nat) : Got (List Byte) :=
  match localBytes s g va n align with
  | .error c => .trap c
  | .ok bs => if (g.bankPending l).isEmpty then .ok bs else .block (.accesses (g.bankPending l))

/-- An instruction that executes once reads a block in local store. -/
def Act.localRead (a : Act) (va n align : Nat) (go : List Byte → State) : State :=
  a.got (a.s, localGet a.s a.g a.lead va n align) fun _ bs => go bs

/-- Check the blocks of a run in order; those of decode and encode copies with their descriptors (R293). -/
def checkBlocks (s : State) (g : Group) (st : Strand) (lanes : List Nat) (nol1 : Bool) :
    List (Nat × Nat) → State × Got (List (Nat × Option Desc))
  | [] => (s, .ok [])
  | (va, x) :: rest =>
    match leastOf (blockBreaches x) with
    | some off => (s, .trap ⟨0x140, va, off⟩)
    | none =>
      let d : State × Got (Option Desc) :=
        if !(blkFlag x 371 || blkFlag x 372) then (s, .ok none)
        else match descGet s g st lanes nol1 (blkAux x) with
          | (s, .trap c) => (s, .trap c)
          | (s, .block b) => (s, .block b)
          | (s, .ok d) =>
            if blkFlag x 372 && d.vkind = 2 then (s, .trap (descCause d.addr 0x29))
            else match coordCause d (blkCoord x) with
              | some c => (s, .trap c)
              | none => if tileShapeBad x d then (s, .trap ⟨0x140, va, 0⟩) else (s, .ok (some d))
      match d with
      | (s, .trap c) => (s, .trap c)
      | (s, .block b) => (s, .block b)
      | (s, .ok d) => match checkBlocks s g st lanes nol1 rest with
        | (s, .ok ds) => (s, .ok ((x, d) :: ds))
        | r => r

/-- Read and check the `n` blocks at `va` for lanes of a group (R291, R293). -/
def getBlocks (s : State) (g : Group) (st : Strand) (lanes : List Nat) (nol1 : Bool) (va n : Nat) :
    State × Got (List (Nat × Option Desc)) :=
  match localGet s g (lanes.headD 0) va (64 * n) 64 with
  | .trap c => (s, .trap c)
  | .block b => (s, .block b)
  | .ok bs =>
    if 63 < g.count 0 + n then (s, .block (.engine 0))
    else checkBlocks s g st lanes nol1 ((upTo n).map fun i => (va + 64 * i, natOfBytes ((bs.drop (64 * i)).take 64)))

/-- CPK (R291). -/
def execCpk (f : CpkOps) (s : State) : Host.Outcome State Fault Refusal :=
  runWord (.cpk f) s fun a =>
    let va := (a.a f.aa.toNat a.lead).toNat
    a.got (getBlocks a.s a.g a.st a.lanes a.nol1 va f.n.toNat) fun a bs =>
      a.advance (bs.foldl (fun s b => acceptBlock s a.gk a.lead b) (a.retire a.s []))

/-! ### Items of request copies -/

/-- Where an item's bytes go: the destination, or the same offset of every core of the mask (R192, R294, R295). -/
def targetSpots (s : State) (w : Who) (x dst : Nat) : Except Stop (List Spot × State) :=
  if blkMask x = 0 then (engineSpot s w 5 dst).map fun r => ([r.1], r.2)
  else
    let off := dst - coreWindow
    let one := fun (core : Nat) =>
      if dst < coreWindow || 0x180000 ≤ off then Except.error (Stop.cause ⟨0x0A1, dst, 0⟩)
      else match bankCause s w.ctx w.attach .copyTo core off (core != w.core) with
        | some c => .error (.cause ⟨c, dst, 0⟩)
        | none =>
          .ok (if bankMode (s.core core) (off / 65536) = 3 then Spot.fifo core (off / 65536) else Spot.bank core off)
    ((maskCores x w.core).mapM one).map fun ps => (ps, s)

/-- Bits [i, i + n) of a sparse bitmap, read as bytes (R296). -/
def bitmapBits (s : State) (w : Who) (x i n : Nat) : Except Stop (List Bool × State) :=
  if n = 0 then .ok ([], s)
  else
    let first := i / 8
    match engineRead s w ((blkAux x + first) % 2 ^ 64) ((i + n - 1) / 8 - first + 1) with
    | .error e => .error e
    | .ok (bs, s) =>
      let m := natOfBytes bs
      .ok ((upTo n).map fun k => m.testBit (i % 8 + k), s)

/-- The bytes of an item of a sparse expansion: bytes [pos, pos + n) of row (p, r), `taken` packed values before its first
element; also the packed values that lie wholly before its end (R296). -/
def sparseBytes (s : State) (w : Who) (x p r pos n taken : Nat) : Except Stop (List Byte × Nat × State) :=
  let e := 2 ^ bitsOf x 375 374
  let first := pos / e
  let count := (pos + n - 1) / e - first + 1
  let j := blkRowBytes x / e * (p * blkRows x + r) + first
  match bitmapBits s w x j count with
  | .error c => .error c
  | .ok (bits, s) =>
    let ones := (bits.filter id).length
    match (if ones = 0 then Except.ok ([], s) else engineRead s w ((blkSource x + taken * e) % 2 ^ 64) (ones * e)) with
    | .error c => .error c
    | .ok (run, s) =>
      let dense := (bits.foldl (fun (a : List Byte × List Byte) b =>
        if b then (a.1 ++ a.2.take e, a.2.drop e) else (a.1 ++ List.replicate e 0#8, a.2)) ([], run)).1
      let whole := (pos + n) / e - first
      .ok ((dense.drop (pos % e)).take n, ((bits.take whole).filter id).length, s)

/-- The bytes of the next item of a copy, and the packed values it passes. -/
def itemBytes (s : State) (w : Who) (x p r pos n taken : Nat) : Except Stop (List Byte × Nat × State) :=
  if blkFlag x 373 then sparseBytes s w x p r pos n taken
  else (engineRead s w (addrPlus (blkSource x) (p * strideOf x 191 160 + r * strideOf x 159 128 + pos)) n).map
    fun b => (b.1, 0, b.2)

/-- The plane, row and byte that follow `n` bytes of a row (R294). -/
def nextCursor (x p r pos n : Nat) : Nat × Nat × Nat :=
  if pos + n < blkRowBytes x then (p, r, pos + n)
  else if r + 1 < blkRows x then (p, r + 1, 0) else (p + 1, 0, 0)

/-- One item of a plain or sparse copy (R294, R296): it waits while a FIFO target is full. -/
def copyItem (s : State) (ref : OpRef) (o : Op) (w : Who) (x p r pos taken : Nat) : State :=
  let dst := addrPlus (blkDest x) (p * strideOf x 255 224 + r * strideOf x 223 192 + pos)
  let n := min (blkRowBytes x - pos) (32 - dst % 32)
  match itemBytes s w x p r pos n taken with
  | .error e => stopHeld s ref o w e
  | .ok (bs, passed, s1) =>
    match targetSpots s1 w x dst with
    | .error e => stopHeld s1 ref o w e
    | .ok (ps, s2) =>
      if ps.any (spotFull s2) then s
      else
        let c := nextCursor x p r pos n
        itemDone (ps.foldl (fun s p => itemWrite s w.ctx dst bs p) s2) ref o w fun o =>
          { o with kind := .copy x c.1 c.2.1 c.2.2 (taken + passed) }

/-- One sector of a decode copy's image (R297). -/
def imageItem (s : State) (ref : OpRef) (o : Op) (w : Who) (x : Nat) (img : List Byte) : State :=
  let dst := addrPlus (blkDest x) (32 * o.next)
  match targetSpots s w x dst with
  | .error e => stopHeld s ref o w e
  | .ok (ps, s1) =>
    if ps.any (spotFull s1) then s
    else itemDone (ps.foldl (fun s p => itemWrite s w.ctx dst ((img.drop (32 * o.next)).take 32) p) s1) ref o w id

/-- COPY_ITEM (R294). -/
def execCopyItem (ref : OpRef) (s : State) : Host.Outcome State Fault Refusal :=
  .next (match heldOp s ref with
    | none => s
    | some (o, w) =>
      if !heldMay s ref o w then s
      else match o.kind with
        | .copy x p r pos taken => copyItem s ref o w x p r pos taken
        | .copyTile x _ (some img) => imageItem s ref o w x img
        | _ => s)

/-! ### Tier prefetch -/

/-- The handled cause that stops a pft at issue before any translation: its range, then its token or barrier (R264, R300). A FIFO bank
takes the items of copies only, so no token word lies in one (R323; DEDUCED, log entry 19). -/
def pftCause (s : State) (g : Group) (start size comp ab : Nat) : Option Cause :=
  let token : Option Cause :=
    if comp = 0 then
      if 2 ^ 56 ≤ ab then some ⟨0x0C3, ab, 4⟩
      else if ab % 8 != 0 then some ⟨0x0A0, ab, 8⟩
      else if windowBase ≤ ab then
        (match engineSpot s g.who 5 ab with
          | .error (.cause c) => some c
          | .ok (.fifo .., _) => some ⟨0x0A1, ab, 0⟩
          | _ => none)
      else none
    else if comp = 1 then
      if coreWindow ≤ ab && ab < coreWindow + 0x400000 && ab % 16 = 0 then
        (match engineBarrier s g.who g.core (ab - coreWindow) ab with
          | .error ⟨0x182, v, i⟩ => some ⟨0x182, v, i⟩
          | .error ⟨0x105, v, i⟩ => some ⟨0x105, v, i⟩
          | _ => none)
      else some ⟨0x182, ab, 0⟩
    else none
  if 2 ^ 56 ≤ start then some ⟨0x0C3, start, 4⟩
  else if start % 4096 != 0 then some ⟨0x0A0, start, 4096⟩
  else if windowBase < start + size then some ⟨0x0A1, start, 0⟩
  else token

/-- The checks of R264 that translate the start of a pft and its token word, both with access kind 4 (R300). -/
def pftReach (s : State) (g : Group) (st : Strand) (lanes : List Nat) (start comp ab : Nat) : State × Got Unit :=
  let r : Reach264 := { by_ := .copyFrom, kind := 4 }
  let x := landTier s g r start 1
  let y := if comp = 0 && ab < windowBase then landTier x.2 g r ab 8 else (.ok [], x.2)
  match x.1.join y.1 with
  | .cause c => (s, .trap c)
  | .fatal c => (y.2, .trap c)
  | .fault fs =>
    let z := reportPages y.2 g st 4 (lanes.flatMap fun l => fs.map fun f => (l, f))
    (z.1, .block (.faults z.2))
  | .ok _ => (y.2, .ok ())

/-- PFT (R300, R301). -/
def execPft (f : PftOps) (s : State) : Host.Outcome State Fault Refusal :=
  runWord (.pft f) s fun a =>
    let start := (a.a f.aa.toNat a.lead).toNat
    let ab := (a.a f.ab.toNat a.lead).toNat
    let comp := f.comp.toNat
    let pages := f.size.toNat + 1
    match pftCause a.s a.g start (4096 * pages) comp ab with
    | some c => a.raise c
    | none => a.got (pftReach a.s a.g a.st a.lanes start comp ab) fun a _ =>
      if 63 ≤ a.g.count 3 then a.wait a.s (.engine 3)
      else
        let s := acceptOp (a.retire a.s []) a.gk 3 [a.lead] (32 * pages)
          (if comp = 1 then ab - coreWindow else 0) (.pft start (32 * pages) comp ab false)
        let s := if comp = 1 then
            bindBars s a.gk a.g.nextId [engineBarrier s a.g.who a.g.core (ab - coreWindow) ab] { expect := 128 * pages }
          else s
        a.advance s

/-- Fill a line at its home slice: false where it was already valid, is host memory, or cannot be reached (R301). -/
def prefetchFill (s : State) (w : Who) (va : Nat) : Bool × State :=
  match engineSpot s w 4 va with
  | .ok (.home pa0, s) =>
    let pa := normPA s pa0
    let held := (SMap.get {} s.msc (pa / 128)).valid = 15#4
    if held || tierOf pa = .host then (false, s) else (true, w.streamed s (mscTouch s pa 128 false))
  | _ => (false, s)

/-- The prefetch with its partial bit. -/
def pftMark (o : Op) (part : Bool) : Op :=
  match o.kind with
  | .pft start lines comp ab p => { o with kind := .pft start lines comp ab (p || part) }
  | _ => o

/-- A prefetch ends: its token word is written (R301). -/
def pftEnd (s : State) (ref : OpRef) (o : Op) (w : Who) : State :=
  match o.kind with
  | .pft _ _ 0 ab part => match engineWrite s w ab (tokenBytes 2 part) with
    | .ok s => doneHeld s ref o
    | .error e => stopHeld s ref o w e
  | _ => doneHeld s ref o

/-- PREFETCH_LINE (R301): the first step writes 0x1 to a token word; each line is filled and counted down four sectors; the last
step writes the token word. -/
def execPrefetchLine (gk id : Nat) (s : State) : Host.Outcome State Fault Refusal :=
  let ref := OpRef.ofGroup gk id
  .next (match heldOp s ref with
    | none => s
    | some (o, w) =>
      if !heldMay s ref o w then s
      else match o.kind with
        | .pft start lines comp ab _ =>
          if comp = 0 && o.stall = .unchecked then
            match engineWrite s w ab (tokenBytes 1 false) with
            | .ok s => setHeld s ref o.id fun o => { o with stall := .passed }
            | .error e => stopHeld s ref o w e
          else if o.next = lines then pftEnd s ref o w
          else
            let r := prefetchFill s w (start + 128 * o.next)
            let x := o.bars.foldl (fun (x : State × Nat) b =>
              let y := barStep x.1 b.1 b.2 { down := 4 }
              (y.1, max x.2 y.2)) (r.2, 0)
            let o' := pftMark { o with next := o.next + 1 } (!r.1)
            let s := setHeld x.1 ref o.id fun _ => o'
            if x.2 != 0 then failHeld s ref o' w ⟨0x180, coreWindow + o.barOff, x.2⟩
            else if o'.next = lines then pftEnd s ref o' w else s
        | _ => s)

end Sys2Proof.Machine
end

