-- ==== Sys2Proof/Machine/Images.lean ====
section
/-! DEFINITION. Window images (R105, R170) and the spill area that holds them (R114). -/

namespace Sys2Proof.Machine

open Sys2Proof

/-! ### The image of a window -/

/-- The full/empty bits of the registers whose codes start at `code`, one bit a lane (R170). -/
def Group.fullBits (g : Group) (code : Nat) : Nat :=
  (upTo g.width).foldl (fun n l => if g.isFull (code + l) then n + 2 ^ l else n) 0

/-- The trap registers of a strand in a control record (R170). -/
def StrandRegs.image (r : StrandRegs) : List Byte :=
  [r.tcause.toNat, r.tpc.toNat, r.tval.toNat, r.tinfo.toNat, r.tvec.toNat].flatMap fun x => bytesOfNat x 8

/-- The byte of a strand's handler mark and saved priority (R170). -/
def StrandRegs.mark (r : StrandRegs) : Nat := (if r.th then 1 else 0) + 16 * r.sprio.toNat

/-- The control record of a lane (R170). -/
def Thread.image (t : Thread) : List Byte :=
  bytesOfNat t.fmode.toNat 4 ++ bytesOfNat t.f4x.toNat 4 ++ bytesOfNat t.pmsel.toNat 8 ++ t.comp.image ++ t.addr.image
    ++ bytesOfNat t.comp.mark 1 ++ bytesOfNat t.addr.mark 1 ++ List.replicate 30 0#8

/-- The 64 KiB image of a group's window (R105, R170). -/
def Group.image (g : Group) : List Byte :=
  let v := (upTo 128).flatMap fun i => bytesOfNat (if i < g.vAlloc then g.fullBits (vCode i 0) else 0) 8
  let a := (upTo 32).flatMap fun j => bytesOfNat (g.fullBits (aCode j 0)) 8
  let bs := g.imageRead 0 0xC480 ++ v ++ a ++ (upTo g.width).flatMap fun l => (g.thread l).image
  bs ++ List.replicate (65536 - bs.length) 0#8

/-- The address of an image slot of a context. -/
def spillSlotVa (s : State) (c n : Nat) : Nat :=
  match s.ctx? c with
  | some x => x.spillBase + 65536 * n
  | none => 0

/-- Whether a run of bytes of the save, spill or a backing area can be written: translated, at home, and free of poison (R433). -/
def areaCheck (s : State) (c va n : Nat) : Option Stop :=
  let run := piecesOf va n (n / 16 + 2)
  match igierRun s c 5 run with
  | .error e => some e
  | .ok ps => ((run.zip ps).findSome? fun x => (poisonAt s x.2.1).map fun k => (⟨0x0A2, x.1.1, k⟩ : Cause)).map .cause

/-- Write a run of bytes of the save area, the spill area or a backing area (R433). -/
def areaWrite (s : State) (c va : Nat) (bs : List Byte) : Except Stop State :=
  match areaCheck s c va bs.length with
  | some e => .error e
  | none => igierWrite s c va bs

/-- The cause that ends a context whose save area (0), spill slot (1) or backing area (2) cannot be reached (R433). -/
def areaCause (info : Nat) (c : Cause) : Cause := if fatalCode c.code then c else ⟨0x047, c.val, info⟩

/-- Where the device is when it reaches a group's spill slot (R424). -/
def Group.spillSite (g : Group) : FatalSite := { core := g.core, gid := g.gid, strand := 4 }

/-- The slot of a group cannot be reached: the move waits for the answer to a translation fault, or the context ends (R433). -/
def spillStop (s : State) (gk : Nat) (g : Group) : Stop → State
  | .cause c => contextFatal s g.ctx (areaCause 1 c) g.spillSite
  | .replay code va kind =>
    let r := reportFault s g.ctx code va kind (groupSite s g 0 4)
    r.1.setGroup gk fun g => { g with parkFaults := [r.2] }

/-- The number that stands for the control record of lane `l` among the register codes of an image. -/
def recordCode (l : Nat) : Nat := 0x8000 + l

/-- What the image of a window holds for a register that a late producer fills, or for a control record: places and bytes of its value and
of its full/empty bits (R105, R170). -/
def Group.imageCells (g : Group) (code : Nat) : List (Nat × List Byte) :=
  let r := code % 0x4000 / 64
  let l := code % 64
  if 0x8000 ≤ code then [(0xC980 + 128 * l, (g.thread l).image)]
  else if code < 0x4000 then
    [(4 * (r * g.width + l), g.imageRead (4 * (r * g.width + l)) 4), (0xC480 + 8 * r, bytesOfNat (g.fullBits (vCode r 0)) 8)]
  else
    [(0x8000 + 8 * (r * g.width + l), g.imageRead (0x8000 + 8 * (r * g.width + l)) 8),
      (0xC880 + 8 * r, bytesOfNat (g.fullBits (aCode r 0)) 8)]

/-- Deliveries into the window of a PARKED group, and what it holds of a trap, reach its image; those that meet a translation fault wait for
the answer, and are `owed` until then (R102, R111, R433). -/
def syncImage (s : State) (gk : Nat) (codes : List Nat) : State :=
  match s.group? gk with
  | none => s
  | some g => match g.status, g.spillSlot with
    | .parked, some n =>
      let s := s.setGroup gk fun g => (g.flushWindow .comp).flushWindow .addr
      let g := (g.flushWindow .comp).flushWindow .addr
      let all := g.owed ++ codes
      if !g.parkFaults.isEmpty then s.setGroup gk fun g => { g with owed := all }
      else
        let r := (all.flatMap g.imageCells).foldl (fun (r : Except Stop State) x => match r with
          | .error e => .error e
          | .ok s => areaWrite s g.ctx (spillSlotVa s g.ctx n + x.1) x.2) (.ok s)
        match r with
        | .ok s => s.setGroup gk fun g => { g with owed := [] }
        | .error e => spillStop (s.setGroup gk fun g => { g with owed := all }) gk g e
    | _, _ => s

/-- A cause raised into threads of a group that may be PARKED: its trap registers, and what a load undone leaves of its registers, reach
the image too (R102, R111, R162). -/
def trapHeld (s : State) (gk : Nat) (st : Strand) (tpc : VAddr) (causes : List (Nat × Cause)) : State :=
  match s.group? gk with
  | none => s
  | some g =>
    let lanes := causes.map (·.1)
    let t := trapAsync s gk st tpc causes
    if lanes.isEmpty then t else syncImage t gk (g.heldEmpty st lanes ++ lanes.map recordCode)

end Sys2Proof.Machine
end

