-- ==== Sys2Proof/Machine/QueueOps.lean ====
section
/-! DEFINITION. pop, push, peek and qlen (R319 to R322), with the deadlock causes of R22. -/

namespace Sys2Proof.Machine

open Sys2Proof

/-- Remove `n` entries from the head of a queue. -/
def Thread.popQueue (t : Thread) (q n : Nat) : Thread :=
  match q with
  | 0 => { t with qld := t.qld.drop n }
  | 1 => { t with qac := t.qac.drop n }
  | 2 => { t with qca := t.qca.drop n }
  | _ => { t with qsd := t.qsd.drop n }

/-- Lanes pop `n` entries of a queue each, and see the aperture stores made before one of these was pushed (R109, R322). -/
def Group.popLanes (g : Group) (q n : Nat) (lanes : List Nat) : Group :=
  (lanes.foldl (fun g l => g.setThread l fun t => t.popQueue q n) g).handOver q n lanes

/-- Entry `i` of a queue, zero-extended. -/
def Thread.entryAt (t : Thread) (q i : Nat) : DWord :=
  match q with
  | 0 => (t.qld.getD i 0#32).zeroExtend 64
  | 1 => t.qac.getD i 0#64
  | 2 => t.qca.getD i 0#64
  | _ => (t.qsd.getD i 0#32).zeroExtend 64

/-- Append entries to a queue. -/
def Thread.pushQueue (t : Thread) (q : Nat) (xs : List DWord) : Thread :=
  match q with
  | 0 => { t with qld := t.qld ++ xs.map (·.truncate 32) }
  | 1 => { t with qac := t.qac ++ xs }
  | 2 => { t with qca := t.qca ++ xs }
  | _ => { t with qsd := t.qsd ++ xs.map (·.truncate 32) }

/-- What a pop or peek writes to register `k` of a run of `n` v registers (R319). -/
def popWord (t : Thread) (q n k : Nat) : Word :=
  if q = 0 || q = 3 then (t.entryAt q k).truncate 32
  else if n = 1 then (t.entryAt q 0).truncate 32
  else (t.entryAt q (k / 2)).extractLsb' (32 * (k % 2)) 32

/-- The results of a pop or peek on either strand (R319). -/
def Act.popResults (a : Act) (f : QOps) : List (Nat × DWord) :=
  let q := f.queue.toNat
  match a.st with
  | .comp => a.runOf f.reg f.w fun k l => popWord (a.g.thread l) q (runLen f.w) k
  | .addr => a.a1 (f.reg.truncate 5) fun l => (a.g.thread l).entryAt q 0

/-- A pop or peek: deadlocked lanes take STRAND_DEADLOCK and the others wait (R22); a short queue blocks (R320). -/
def Act.popWith (a : Act) (f : QOps) (remove : Bool) : State :=
  let q := f.queue.toNat
  let n := takeCount q (runLen f.w)
  if a.lanes.any (a.g.popDead q n) then
    a.settle a.s fun l => if a.g.popDead q n l then .trap ⟨0x061, q, 0⟩ else .block (.pop q n)
  else if a.lanes.any fun l => decide ((a.g.thread l).queueLen q < n) then a.wait a.s (.pop q n)
  else
    let s := if remove then a.s.setGroup a.gk fun g => g.popLanes q n a.lanes else a.s
    let s := a.retire s (a.popResults f)
    let s := if remove && q = 0 && a.st = .comp then
        a.lanes.foldl (fun s l => sample s a.g.core a.g.ctx 4 (a.g.thread l).qld.length) s
      else s
    a.advance s

/-- POP (R322). -/
def execPop (f : QOps) (s : State) : Host.Outcome State Fault Refusal := runWord (.pop f) s fun a => a.popWith f true

/-- PEEK (R322). -/
def execPeek (f : QOps) (s : State) : Host.Outcome State Fault Refusal := runWord (.peek f) s fun a => a.popWith f false

/-- The entries a push forms in a lane (R319). -/
def Act.pushEntries (a : Act) (f : QOps) (l : Nat) : List DWord :=
  let q := f.queue.toNat
  let r := f.reg.toNat
  match a.st with
  | .addr => [a.a r l]
  | .comp =>
    if q = 0 || q = 3 || runLen f.w = 1 then (upTo (runLen f.w)).map fun k => (a.v (r + k) l).zeroExtend 64
    else (upTo (runLen f.w / 2)).map fun i => a.v (r + 2 * i + 1) l ++ a.v (r + 2 * i) l

/-- PUSH (R322). -/
def execPush (f : QOps) (s : State) : Host.Outcome State Fault Refusal :=
  runWord (.push f) s fun a =>
    let q := f.queue.toNat
    let n := takeCount q (runLen f.w)
    if a.lanes.any (a.g.pushDead q n) then
      a.settle a.s fun l => if a.g.pushDead q n l then .trap ⟨0x061, q, 0⟩ else .block (.push q n)
    else if a.lanes.any fun l => decide (queueCap q < (a.g.thread l).queueLen q + n) then a.wait a.s (.push q n)
    else
      a.advance ((a.retire a.s []).setGroup a.gk fun g =>
        a.lanes.foldl (fun g l => g.setThread l fun t => t.pushQueue q (a.pushEntries f l)) g)

/-- QLEN (R322). -/
def execQlen (f : QOps) (s : State) : Host.Outcome State Fault Refusal :=
  runWord (.qlen f) s fun a =>
    let n := fun l => (a.g.thread l).queueLen f.queue.toNat
    a.complete (match a.st with
      | .comp => a.v1 f.reg fun l => BitVec.ofNat 32 (n l)
      | .addr => a.a1 (f.reg.truncate 5) fun l => BitVec.ofNat 64 (n l))

end Sys2Proof.Machine
end

