-- ==== Sys2Proof/Machine/MemOps.lean ====
section
/-! DEFINITION. Loads, stores, atomics, window accesses, fences and bank modes (R264 to R270, R275, R276), the engine control page
(R287, R299), and the performance and delivery of accesses (R246 to R249, R266 to R268). -/

namespace Sys2Proof.Machine

open Sys2Proof

/-! ### The issue of accesses -/

/-- The order, scope and size of a memory instruction, and how its hint has its lines cached (R74, R89). -/
structure MemForm where
  order : Nat
  scope : Nat
  size  : Nat
  nol1  : Bool := false
  stream : Bool := false
  deriving DecidableEq, Repr

/-- The form with its h.sched hint. -/
def Act.form (a : Act) (order scope size : Nat) : MemForm := ⟨order, scope, size, a.nol1, a.s.streams⟩

/-- An effective address (R264). -/
def Act.ea {n : Nat} (a : Act) (base : BitVec 5) (off : BitVec n) (size l : Nat) : Nat :=
  addrPlus (a.a base.toNat l).toNat (immInt a.iss.entry.hints off * size)

/-- The access that a lane's form makes, before it has a number; a page too may keep its lines out of L1 (R341). -/
def Act.access (a : Act) (m : MemForm) (l va : Nat) (kind : AccKind) (ls : List Land) : Access :=
  { id := 0, issue := a.g.nextId, lane := l, kind := kind, order := m.order, scope := m.scope, va := va, size := m.size,
    pieces := placesOf a.s ls, nol1 := m.nol1 || landNoL1 ls, stream := m.stream, pc := a.iss.entry.seqPc, cyc := (a.s.core a.g.core).cyc.toNat }

/-- Whether an access acts when it issues: at a FIFO bank, the register aperture or the engine control page (R106, R287, R324). -/
def actsAtIssue (ls : List Land) : Bool := ls.any fun p => match p with
  | .home .. | .bank .. => false
  | _ => true

/-- The value of a register of the engine control page (R287). -/
def pageValue (s : State) (gk : Nat) (g : Group) (off : Nat) : Nat :=
  match off with
  | 0x8 => (upTo 6).foldl (fun n c => n + g.count c * 2 ^ (8 * c)) 0
  | 0x10 => (s.core g.core).slots.foldl (fun n p => if p.2.state != 0 && p.2.owner = gk then n + 2 ^ p.1 else n) 0
  | 0x18 => g.mstat.toNat
  | _ => 0

/-- The bytes of a window landing, a FIFO bank's as its head stands (R106, R287, R324). -/
def windowBytes (s : State) (gk : Nat) (g : Group) : Land → List Byte
  | .bank c addr n => lsRead s c addr n
  | .fifo c bank off n => fifoRead s c bank off n
  | .image off n => g.imageRead off n
  | .page off n => bytesOfNat (pageValue s gk g off) n
  | .home .. => []

/-- A store of bytes at a window landing that acts at issue. -/
def windowStore (s : State) (gk : Nat) (bs : List Byte) : Land → State
  | .image off _ => s.setGroup gk fun g => g.imageWrite off bs
  | .page _ _ => s.setGroup gk fun g => { g with mstat := g.mstat &&& ~~~(BitVec.ofNat 5 (natOfBytes bs)) }
  | _ => s

/-- Perform one lane's access that acts at issue: the machine, and the value it read (R246). (DEDUCED, log entry 18.) -/
def windowAccess (s : State) (gk : Nat) (x : Access) (ls : List Land) : State × Nat :=
  match s.group? gk, ls with
  | some g, p :: _ => match x.kind with
    | .store data => (windowStore s gk data p, 0)
    | _ => (s, natOfBytes (windowBytes s gk g p))
  | _, _ => (s, 0)

/-- The FIFO banks that a step read through the consume view, with the highest slot any member read (R324). -/
def fifoTaken (lss : List (List Land)) : List (Nat × Nat × Nat) :=
  let fs := lss.flatMap fun ls => ls.filterMap fun p => match p with
    | .fifo c b off n => some (c, b, off, n)
    | _ => none
  let banks := (fs.filter fun f => fifoConsumes f.2.2.1).map fun f => (f.1, f.2.1)
  banks.eraseDups.map fun b => (b.1, b.2, (fs.filter fun f => f.1 = b.1 && f.2.1 = b.2).foldl
    (fun m f => max m (fifoSlot (f.2.2.1 + f.2.2.2 - 1) + 1)) 0)

/-- What the lanes of a memory instruction must wait for before any of them acts: earlier accesses that are ordered before those that act
at issue, or before every one where `all` (R249), then slots of a FIFO bank (R324). -/
def Act.memWait (a : Act) (all : Bool) (lands : Nat → List Land) (acc : Nat → Access) : Option Block :=
  let ids := (a.g.accs.filter fun x => !x.performed && a.lanes.any fun l =>
    (all || actsAtIssue (lands l)) && x.before (acc l)).map (·.id)
  if !ids.isEmpty then some (.accesses ids)
  else (fifoShort a.s (a.lanes.flatMap lands)).map fun f => .fifo f.1 f.2.1 f.2.2

/-- Number accesses from `id` up. -/
def numberAccs (id : Nat) : List Access → List Access
  | [] => []
  | x :: rest => { x with id := id } :: numberAccs (id + 1) rest

/-- Issue the accesses of lanes: those that act at issue are performed, in ascending lane order, the others join the group's accesses in
flight (R246, R249, R252, R264). -/
def Act.issueAll (a : Act) (m : MemForm) (lanes : List Nat) (lands : Nat → List Land) (acc : Nat → Access) : State :=
  let win := lanes.filter fun l => actsAtIssue (lands l)
  let beyond := !win.isEmpty && beyondCore m.scope (pairOf a.s a.g)
  let releases := win.any fun l => (acc l).releases
  let acquires := win.any fun l => (acc l).acquires
  let s := if beyond && releases then l1WriteBack a.s a.g.core else a.s
  let r := win.foldl (fun (r : State × List (Nat × Nat)) l =>
    let x := windowAccess r.1 a.gk (acc l) (lands l)
    (x.1, r.2 ++ [(l, x.2)])) (s, [])
  let s := (fifoTaken (win.map lands)).foldl (fun s f => fifoConsume s f.1 f.2.1 f.2.2) r.1
  let s := if beyond && acquires then l1Invalidate s a.g.core else s
  let keep := lanes.filterMap fun l =>
    let x := acc l
    match r.2.find? fun v => v.1 = l with
    | none => some x
    | some v => match x.kind with
      | .store _ => none
      | _ => some { x with performed := true, value := v.2 }
  s.setGroup a.gk fun g => { g with accs := g.accs ++ numberAccs g.nextId keep, nextId := g.nextId + keep.length }

/-- A pop of `n` words of qsd by lanes that takes place at issue: dead lanes take STRAND_DEADLOCK, short queues block (R22,
R267, R268). -/
def Act.takesQsd (a : Act) (n : Nat) (go : State) : State :=
  if n != 0 && a.lanes.any (a.g.popDead 3 n) then
    a.settle a.s fun l => if a.g.popDead 3 n l then .trap ⟨0x061, 3, 0⟩ else .block (.pop 3 n)
  else if a.lanes.any fun l => decide ((a.g.thread l).qsd.length < n) then a.wait a.s (.pop 3 n)
  else go

/-- Pop `n` words of qsd in lanes (R267, R268). -/
def popQsd (s : State) (gk n : Nat) (lanes : List Nat) : State :=
  s.setGroup gk fun g => g.popLanes 3 n lanes

/-- `n` words of a lane's qsd from entry `i`, low word first. -/
def Act.qsdValue (a : Act) (l i n : Nat) : Nat :=
  (upTo n).foldl (fun x k => x + ((a.g.thread l).qsd.getD (i + k) 0#32).toNat * 2 ^ (32 * k)) 0

/-! ### Loads and stores -/

/-- LDQ (R264, R266, R267). -/
def execLdq (f : LdqOps) (s : State) : Host.Outcome State Fault Refusal :=
  runWord (.ldq f) s fun a =>
    let size := 2 ^ f.size.toNat
    let m := a.form f.order.toNat f.scope.toNat size
    let ea := a.ea f.base f.off size
    a.checked 1 (fun s l => checkAccess s a.g { by_ := .load, kind := 1, align := f.scope != 0#3 } (ea l) size)
      fun a lands =>
        let acc := fun l => a.access m l (ea l) .loadQ (lands l)
        if !a.lanes.all (a.g.hasRoom (wordsOf size)) then a.wait a.s (.push 0 (wordsOf size))
        else match a.memWait false lands acc with
          | some b => a.wait a.s b
          | none => a.advance ({ a with s := a.retire a.s [] }.issueAll m a.lanes lands acc)

/-- LDA (R110, R111, R264, R267). -/
def execLda (f : MOps) (s : State) : Host.Outcome State Fault Refusal :=
  runWord (.lda f) s fun a =>
    let size := 2 ^ f.size.toNat
    let t := f.t.toNat
    let m := a.form f.order.toNat f.scope.toNat size
    let ea := a.ea f.base f.off size
    let codes := if t = 0 then [] else a.lanes.map (aCode t)
    a.checked 1 (fun s l => checkAccess s a.g { by_ := .load, kind := 1, align := f.scope != 0#3 } (ea l) size) (empties := codes)
      fun a lands =>
        let acc := fun l => a.access m l (ea l) (.loadA t) (lands l)
        match a.memWait false lands acc with
        | some b => a.wait a.s b
        | none =>
          let s := { a with s := a.retire a.s [] }.issueAll m a.lanes lands acc
          a.advance (s.setGroup a.gk fun g => g.setEmpty codes)

/-- Start the request copies of a store of `value` to KICK by a lane (R299). -/
def kickLane (s : State) (gk : Nat) (st : Strand) (lane : Nat) (nol1 : Bool) (value : Nat) : State × Got Unit :=
  match s.group? gk with
  | none => (s, .ok ())
  | some g =>
    let n := bitsOf value 29 24
    if value % 64 != 0 || bitsOf value 23 22 != 0 || 2 ^ 30 ≤ value || n = 0 then (s, .trap ⟨0x140, value, 0⟩)
    else match getBlocks s g st [lane] nol1 (coreWindow + value % 2 ^ 22) n with
      | (s, .ok bs) => (bs.foldl (fun s b => acceptBlock s gk lane b) s, .ok ())
      | (s, .trap c) => (s, .trap c)
      | (s, .block b) => (s, .block b)

/-- The stores to KICK of an instruction, in ascending lane order: the lanes that trap, and the lane that blocks with its block,
after which no later one starts (R299). -/
def kickLanes (s : State) (gk : Nat) (st : Strand) (nol1 : Bool) (value : Nat → Nat) :
    List Nat → State × List (Nat × Cause) × Option (Nat × Block)
  | [] => (s, [], none)
  | l :: rest =>
    match kickLane s gk st l nol1 (value l) with
    | (s, .block b) => (s, [], some (l, b))
    | (s, .trap c) =>
      let r := kickLanes s gk st nol1 value rest
      (r.1, (l, c) :: r.2.1, r.2.2)
    | (s, .ok _) => kickLanes s gk st nol1 value rest

/-- Whether a landing is the register KICK (R287). (DEDUCED, log entry 45.) -/
def isKick (ls : List Land) : Bool := ls == [.page 0 8]

/-- The stores of an instruction whose lanes have passed every check: stores to KICK first (R299), then the others; `pops` words
of qsd leave each lane that stores, and the sources that hints kill die in these lanes alone (R88). -/
def Act.storeAll (a : Act) (m : MemForm) (pops : Nat) (lands : Nat → List Land) (data : Nat → Nat) (acc : Nat → Access) :
    State :=
  let kicks := a.lanes.filter fun l => isKick (lands l)
  let k := kickLanes a.s a.gk a.st a.nol1 data kicks
  let held := match k.2.2 with
    | some (l, _) => kicks.filter fun x => l ≤ x
    | none => []
  let trap := fun (l : Nat) => (k.2.1.find? fun c => c.1 = l).map (·.2)
  let done := a.lanes.filter fun l => !held.contains l && (trap l).isNone
  let s := popQsd k.1 a.gk pops done
  let s := if done.isEmpty && held.isEmpty then s else { a with lanes := done }.retire s []
  let s := { a with s := s }.issueAll m (done.filter fun l => !isKick (lands l)) lands acc
  a.settle s fun l => match trap l, k.2.2 with
    | some c, _ => .trap c
    | none, some (_, b) => if held.contains l then .block b else .goto (a.pc + 4#56)
    | none, none => .goto (a.pc + 4#56)

/-- The value of an a register, or of an even pair (R267, R270). -/
def Act.pair (a : Act) (t size l : Nat) : Nat :=
  (a.a t l).toNat + (if size = 16 then (if t = 0 then 0 else (a.a (t + 1) l).toNat) * 2 ^ 64 else 0)

/-- A store's accesses wait, then they issue (R249, R267, R270, R299). -/
def Act.store (a : Act) (m : MemForm) (pops : Nat) (lands : Nat → List Land) (data ea : Nat → Nat) : State :=
  let acc := fun l => a.access m l (ea l) (.store (bytesOfNat (data l) m.size)) (lands l)
  match a.memWait false lands acc with
  | some b => a.wait a.s b
  | none => a.storeAll m pops lands data acc

/-- ST (R264, R267, R299). -/
def execSt (f : MOps) (s : State) : Host.Outcome State Fault Refusal :=
  runWord (.st f) s fun a =>
    let size := 2 ^ f.size.toNat
    let t := f.t.toNat
    let m := a.form f.order.toNat f.scope.toNat size
    let ea := a.ea f.base f.off size
    let pops := if t = 0 then wordsOf size else 0
    a.checked 2 (fun s l => checkAccess s a.g { by_ := .store, kind := 2, align := f.scope != 0#3 } (ea l) size)
      fun a lands =>
        a.takesQsd pops (a.store m pops lands
          (fun l => (if t = 0 then a.qsdValue l 0 pops else a.pair t size l) % 2 ^ (8 * size)) ea)

/-! ### Atomics -/

/-- An atomic instruction (R264, R268, R269): operation, unsigned flag, and the fields of the word. -/
def Act.atomic (a : Act) (op : Nat) (uns : Bool) (order scope : Nat) (sz64 ret : Bool) (base : BitVec 5)
    (off : BitVec 9) : State :=
  let size := if sz64 then 8 else 4
  let w := size / 4
  let pops := if op = 7 then 2 * w else w
  let m := a.form order scope size
  let ea := a.ea base off size
  let hostOk := op = 0 || op = 6 || op = 7
  a.checked 3 (fun s l => checkAccess s a.g { by_ := .atomic, kind := 3, align := true, host := hostOk } (ea l) size)
    fun a lands =>
      a.takesQsd pops (
        if ret && !a.lanes.all (a.g.hasRoom w) then a.wait a.s (.push 0 w)
        else
          let s := a.retire (popQsd a.s a.gk pops a.lanes) []
          a.advance ({ a with s := s }.issueAll m a.lanes lands fun l =>
            a.access m l (ea l) (.atomic op uns ret (a.qsdValue l 0 w) (a.qsdValue l w w)) (lands l)))

/-- An atomic with the fields of an ATOM word. -/
def Act.atom (a : Act) (op : Nat) (f : AtomOps) : State :=
  a.atomic op false f.order.toNat f.scope.toNat f.sz64 f.ret f.base f.off

/-- A minimum or maximum with the fields of an ATOM word. -/
def Act.atomM (a : Act) (op : Nat) (f : AtomMOps) : State :=
  a.atomic op f.uns f.order.toNat f.scope.toNat f.sz64 f.ret f.base f.off

/-- ATOM_ADD (R268). -/
def execAtomAdd (f : AtomOps) (s : State) : Host.Outcome State Fault Refusal := runWord (.atomAdd f) s fun a => a.atom 0 f

/-- ATOM_MIN (R268). -/
def execAtomMin (f : AtomMOps) (s : State) : Host.Outcome State Fault Refusal := runWord (.atomMin f) s fun a => a.atomM 1 f

/-- ATOM_MAX (R268). -/
def execAtomMax (f : AtomMOps) (s : State) : Host.Outcome State Fault Refusal := runWord (.atomMax f) s fun a => a.atomM 2 f

/-- ATOM_AND (R268). -/
def execAtomAnd (f : AtomOps) (s : State) : Host.Outcome State Fault Refusal := runWord (.atomAnd f) s fun a => a.atom 3 f

/-- ATOM_OR (R268). -/
def execAtomOr (f : AtomOps) (s : State) : Host.Outcome State Fault Refusal := runWord (.atomOr f) s fun a => a.atom 4 f

/-- ATOM_XOR (R268). -/
def execAtomXor (f : AtomOps) (s : State) : Host.Outcome State Fault Refusal := runWord (.atomXor f) s fun a => a.atom 5 f

/-- ATOM_XCHG (R268). -/
def execAtomXchg (f : AtomOps) (s : State) : Host.Outcome State Fault Refusal := runWord (.atomXchg f) s fun a => a.atom 6 f

/-- ATOM_CAS (R268). -/
def execAtomCas (f : AtomOps) (s : State) : Host.Outcome State Fault Refusal := runWord (.atomCas f) s fun a => a.atom 7 f

/-! ### Window accesses -/

/-- LDL (R270). -/
def execLdl (f : LtOps) (s : State) : Host.Outcome State Fault Refusal :=
  runWord (.ldl f) s fun a =>
    let size := 2 ^ f.size.toNat
    let t := f.t.toNat
    let m := a.form 0 0 size
    let ea := a.ea f.base f.off size
    a.checked 1 (fun s l => checkAccess s a.g { by_ := .ldl, kind := 1 } (ea l) size) fun a lands =>
      match a.memWait true lands fun l => a.access m l (ea l) (.loadA t) (lands l) with
      | some b => a.wait a.s b
      | none =>
        let value := fun (l : Nat) => natOfBytes ((lands l).flatMap (windowBytes a.s a.gk a.g))
        let ws := a.lanes.flatMap fun l =>
          (aCode t l, BitVec.ofNat 64 (value l))
            :: (if size = 16 then [(aCode (t + 1) l, BitVec.ofNat 64 (value l / 2 ^ 64))] else [])
        let s := (fifoTaken (a.lanes.map lands)).foldl (fun s f => fifoConsume s f.1 f.2.1 f.2.2) a.s
        a.advance (a.retire s ws)

/-- STL (R270). -/
def execStl (f : LtOps) (s : State) : Host.Outcome State Fault Refusal :=
  runWord (.stl f) s fun a =>
    let size := 2 ^ f.size.toNat
    let m := a.form 0 0 size
    let ea := a.ea f.base f.off size
    a.checked 2 (fun s l => checkAccess s a.g { by_ := .stl, kind := 2 } (ea l) size) fun a lands =>
      a.store m 0 lands (fun l => a.pair f.t.toNat size l % 2 ^ (8 * size)) ea

/-! ### Fences -/

/-- FENCE (R253, R275): orders 1 acquire, 2 release, 3 acquire-release, 4 sc. -/
def execFence (f : FenceOps) (s : State) : Host.Outcome State Fault Refusal :=
  runWord (.fence f) s fun a =>
    match a.st with
    | .comp => a.complete []
    | .addr =>
      let mine := a.g.accs.filter fun x => !x.performed && a.lanes.contains x.lane
      let ids := (mine.filter fun x => f.order != 1#3 || x.reads).map (·.id)
      if !ids.isEmpty then a.wait a.s (.accesses ids)
      else
        let beyond := beyondCore f.scope.toNat (pairOf a.s a.g)
        let s := if f.order = 1#3 then a.s
          else (passOn a.s a.g.core beyond).setGroup a.gk fun g => a.lanes.foldl (fun g l => g.setThread l fun t => { t with fenced := true }) g
        let s := if beyond && f.order != 2#3 then l1Invalidate s a.g.core else s
        a.advance (a.retire s [])

/-! ### Performing and delivering -/

/-- Change an access of a group. -/
def Group.setAcc (g : Group) (id : Nat) (f : Access → Access) : Group :=
  { g with accs := g.accs.map fun x => if x.id = id then f x else x }

/-- Forget an access. -/
def Group.dropAcc (g : Group) (id : Nat) : Group := { g with accs := g.accs.filter fun x => x.id != id }

/-- A member whose access meets poison takes MEMORY_POISON; what the access would have delivered is not delivered, and an emptied
register is full again, of a PARKED group in its image too (R111, R189, R264). -/
def poisonAccess (s : State) (gk : Nat) (g : Group) (a : Access) (info : Nat) : State :=
  let s := s.setGroup gk fun g => g.dropAcc a.id
  let s := match a.kind with
    | .loadA t => if t = 0 then s else
        syncImage (settleGroup (s.setGroup gk fun g => g.setFull [aCode t a.lane]) gk) gk [aCode t a.lane]
    | _ => s
  if ((g.thread a.lane).strand .addr).ended then s
  else trapHeld s gk .addr a.pc [(a.lane, ⟨0x0A2, a.va, info⟩)]

/-- An access after its piece `k` has been performed and has read `x` (R247). -/
def Access.took (a : Access) (k x : Nat) : Access :=
  let left := a.left.filter fun n => n != k
  let a := { a with todo := some left, got := SMap.put 0 a.got k x }
  if left.isEmpty then { a with performed := true, value := a.gathered } else a

/-- Whether an access is forgotten once it has been performed: a store, or an atomic that returns nothing. -/
def Access.silent (a : Access) : Bool :=
  match a.kind with
  | .store _ | .atomic _ _ false _ _ => true
  | _ => false

/-- What an access that has been performed in part or as a whole leaves with its group: a thread that has made a strong read beyond its
core's L1 is marked (R252). -/
def Group.tookPiece (g : Group) (pair : Bool) (a : Access) (k x : Nat) : Group :=
  let y := a.took k x
  let g := if y.performed && a.silent then g.dropAcc a.id else g.setAcc a.id fun _ => y
  if a.reads && a.scope != 0 && beyondCore a.scope pair then g.setThread a.lane fun t => { t with wide := true } else g

/-- Perform one piece of an access in flight, without its delivery (R247 to R249). -/
def performPart (s : State) (gk id k : Nat) : State :=
  match s.group? gk with
  | none => s
  | some g => match g.accs.find? fun a => a.id = id with
    | none => s
    | some a =>
      if a.performed || !a.left.contains k || !mayPerform g.accs (a.ordered s g.core) then s
      else
        let release := a.releases || (a.writes && a.strong && (g.thread a.lane).fenced)
        let s := if release && !beyondCore a.scope (pairOf s g) then passOn s g.core false else s
        let r := performData s g.core (g.levelOf (pairOf s g) a) (pairOf s g) (a.piece k)
        match r.2.2 with
        | some info => poisonAccess r.1 gk g a info
        | none => r.1.setGroup gk fun g => g.tookPiece (pairOf s g) a k r.2.1

/-- Perform all that is left of an access in flight, without its delivery (R248, R249). -/
def performAccess (s : State) (gk id : Nat) : State :=
  match (s.group? gk).bind fun g => g.accs.find? fun a => a.id = id with
  | none => s
  | some a => a.left.foldl (fun s k => performPart s gk id k) s

/-- Whether an access that is still to be performed touches a bank among the `n` from `first` of a core. -/
def Access.inBanks (a : Access) (core first n : Nat) : Bool :=
  !a.performed && a.pieces.any fun p => isBankPlace p.1 && (bankOf p.1).1 = core && first ≤ (bankOf p.1).2 / 65536
    && (bankOf p.1).2 / 65536 < first + n

/-- Before banks move or change their mode, the accesses in flight to them are performed, with what their groups have issued earlier
(R194, R229, R235). -/
def settleBanks (s : State) (core first n : Nat) : State :=
  (s.groups.filter fun p => p.2.accs.any fun a => a.inBanks core first n).foldl (fun s p =>
    p.2.accs.foldl (fun s a => performAccess s p.1 a.id) s) s

/-- STORE_PERFORMED (R248): a store, or an atomic that returns nothing, is performed. -/
def execStorePerformed (gk id : Nat) (s : State) : Host.Outcome State Fault Refusal :=
  .next (match (s.group? gk).bind fun g => g.accs.find? fun a => a.id = id with
    | none => s
    | some a => if a.silent then performAccess s gk id else s)

/-- A performed access with its group, where a delivery of it may take place. -/
def performedAccess (s : State) (gk id : Nat) : Option (Group × Access) :=
  (s.group? gk).bind fun g => (g.accs.find? fun a => a.id = id && a.performed && !ctxAway s g.ctx).map fun a => (g, a)

/-- Whether every older delivery to the lane's qld has been made (R266). -/
def Group.oldestOwed (g : Group) (lane id : Nat) : Bool :=
  (g.accs.all fun x => x.lane != lane || id ≤ x.id || x.owed = 0)
  && g.ops.all fun o => id ≤ o.id || o.owed g.width lane = 0

/-- The load-latency sample of a delivery (R374). -/
def sampleLoad (s : State) (g : Group) (a : Access) : State :=
  match a.pieces with
  | [] => s
  | p :: _ =>
    let pa := p.1
    let x := (s.core g.core).cyc.toNat - a.cyc
    match tierOf pa with
    | .hbm => sample s g.core g.ctx (if pa / 2 ^ 36 = clusterOf g.core then 0 else 1) x
    | .cxl | .domain => sample s g.core g.ctx 1 x
    | _ => s

/-- The words of an ldq, or of an atomic with ret, enter qld, performed first where it is not (R266). -/
def deliverLoad (s : State) (gk id : Nat) : State :=
  match (s.group? gk).bind fun g => g.accs.find? fun a => a.id = id with
  | none => s
  | some a0 =>
    if a0.owed = 0 then s
    else
      let s := performAccess s gk id
      match performedAccess s gk id with
      | none => s
      | some (g, a) =>
        if !g.oldestOwed a.lane id || 16 < (g.thread a.lane).qld.length + a.owed then s
        else
          let ws := (upTo a.owed).map fun k => BitVec.ofNat 64 (a.value / 2 ^ (32 * k) % 2 ^ 32)
          (sampleLoad s g a).setGroup gk fun g =>
            (g.dropAcc id).setThread a.lane fun t => t.pushQueue 0 ws

/-- The value of an lda enters its register, performed first where it is not (R110, R267). -/
def fillLoad (s : State) (gk id : Nat) : State :=
  match (s.group? gk).bind fun g => g.accs.find? fun a => a.id = id with
  | none => s
  | some a0 => match a0.kind with
    | .loadA t =>
      let s := performAccess s gk id
      match performedAccess s gk id with
      | none => s
      | some (g, a) =>
        let s := (sampleLoad s g a).setGroup gk fun g => g.dropAcc id
        syncImage (deliverAll s gk [(aCode t a.lane, BitVec.ofNat 64 a.value)]) gk [aCode t a.lane]
    | _ => s

/-- LOAD_DELIVERY (R266). -/
def execLoadDelivery (gk id : Nat) (s : State) : Host.Outcome State Fault Refusal := .next (deliverLoad s gk id)

/-- LDA_FILL (R110, R267). -/
def execLdaFill (gk id : Nat) (s : State) : Host.Outcome State Fault Refusal := .next (fillLoad s gk id)

/-! ### Bank modes -/

/-- The chunks that the windows which lsmode must not park need (R194). -/
def chunksNeeded (s : State) (gk : Nat) (g : Group) : Nat :=
  (holdersOn s g.core).foldl (fun n p => if p.1 != gk && p.2.status = .draining then n + p.2.chunks else n) g.chunks

/-- The cause that refuses a change of mode of a bank (R194). -/
def modeRefused (s : State) (gk : Nat) (g : Group) (bank : Nat) : Option Cause :=
  let c := s.core g.core
  let no : Cause := ⟨0x0A1, coreWindow + bank * 65536, 0⟩
  match bankMode c bank with
  | 1 => if bankOccupied s g.core bank then some no else none
  | 2 => none
  | 3 => if (fifoOf s g.core bank).filled != 0 then some no else none
  | _ => if regCapacity c - 16 < chunksNeeded s gk g then some ⟨0x041, 0, chunksNeeded s gk g⟩ else none

/-- LSMODE (R194, R276): a refusal changes nothing; else the change begins and the entry blocks until LSMODE_COMPLETE. A core makes one
change at a time: a second lsmode waits for the first to end before it is checked (DESIGN CHOICE, log entry 54). -/
def execLsmode (f : LsmodeOps) (s : State) : Host.Outcome State Fault Refusal :=
  runWord (.lsmode f) s fun a =>
    let bank := f.bank.toNat
    let c := a.s.core a.g.core
    if bankMode c bank = f.mode.toNat && c.switch.isNone then a.complete []
    else if c.switch.isSome then a.wait a.s .switching
    else match modeRefused a.s a.gk a.g bank with
      | some e => a.raise e
      | none => a.wait (a.s.setCore a.g.core fun c => { c with switch := some (bank, f.mode.toNat) }) (.bank bank)

/-- The window addresses at which a bank lies for an engine that acts for `w` (R190, R191). -/
def bankBases (s : State) (w : Who) (core bank : Nat) : List Nat :=
  let off := bank * 65536
  (if core = w.core then [coreWindow + off] else [])
  ++ (if core / 2 = w.core / 2 && core != w.core then [peerWindow + off] else [])
  ++ (if clusterOf core = clusterOf w.core then [clusterWindow + core % 16 * 0x400000 + off] else [])
  ++ match s.team? w.team with
    | none => []
    | some t => (upTo t.banks.length).filterMap fun i =>
      if t.banks.getD i (0, 0) = (core, bank) then some (coreWindow + 0x200000 + i * 65536) else none

/-- Whether what a copy has still to write lies in a bank (R194, R294, R295). -/
def copyInto (s : State) (w : Who) (o : Op) (core bank : Nat) : Bool :=
  let into := fun (bases : List Nat) (a n : Nat) => bases.any fun b => decide (a < b + 65536) && decide (b < a + n)
  let here := bankBases s w core bank
  match o.kind with
  | .cpl items n _ _ => items.any fun i => into here i.2.1 n
  | .copy x p r _ _ =>
    let bases := if blkMask x = 0 then here else if (maskCores x w.core).contains core then [coreWindow + bank * 65536] else []
    (upTo (blkPlanes x)).any fun i => p ≤ i && (upTo (blkRows x)).any fun j => (p < i || r ≤ j)
      && into bases (addrPlus (blkDest x) (i * strideOf x 255 224 + j * strideOf x 223 192)) (blkRowBytes x)
  | .copyTile x _ _ => blkFlag x 371 &&
      into (if blkMask x = 0 then here else if (maskCores x w.core).contains core then [coreWindow + bank * 65536] else [])
        (blkDest x) (blkRowBytes x)
  | _ => false

/-- Whether a copy in flight writes a bank (R194). -/
def copiesInFlight (s : State) (core bank : Nat) : Bool :=
  s.groups.any fun p => !ctxAway s p.2.ctx && p.2.ops.any fun o =>
    !o.ended && o.cls = 0 && copyInto s { p.2.who with core := o.core } o core bank

/-- Whether the action of a mode change may finish: a FIFO bank's copies have ended, and the windows fit in the REG banks that
remain (R194). -/
def modeReady (s : State) (core bank : Nat) : Bool :=
  match bankMode (s.core core) bank with
  | 3 => !copiesInFlight s core bank
  | 0 => decide ((holdersOn s core).foldl (fun n p => n + p.2.chunks) 0 ≤ regCapacity (s.core core) - 16)
  | _ => true

/-- The groups and entries whose lsmode changes a bank of a core. -/
def modeWaiters (s : State) (core bank : Nat) : List (Nat × Strand × Entry) :=
  s.groups.flatMap fun p =>
    if p.2.core != core then []
    else (p.2.frC.entries.map fun e => (p.1, Strand.comp, e)) ++ (p.2.frA.entries.map fun e => (p.1, Strand.addr, e))
      |>.filter fun e => e.2.2.block = .bank bank

/-- LSMODE_COMPLETE (R194, R195): the bank is written back or zeroed, takes its new mode, and the issuing entry goes on. -/
def execLsmodeComplete (core bank : Nat) (s : State) : Host.Outcome State Fault Refusal :=
  .next (match (s.core core).switch with
    | none => s
    | some (b, mode) =>
      if b != bank || !modeReady s core bank then s
      else
        let s := if bankMode (s.core core) bank = 2 then l1Invalidate s core else settleBanks s core bank 1
        let s := (lsZeroBank s core bank).setCore core fun c =>
          { c with modes := listModify c.modes bank fun _ => mode, switch := none }
        (modeWaiters s core bank).foldl (fun s w => s.setGroup w.1 fun g => g.completeEntry w.2.1 w.2.2 []) s)

/-! ### Stores to the engine control page as events -/

/-- KICK (R299): a lane's store of `value` to KICK; a cause is raised in the lane, which stays where it stands. -/
def execKick (gk lane : Nat) (value : DWord) (s : State) : Host.Outcome State Fault Refusal :=
  .next (match kickLane s gk .addr lane false value.toNat with
    | (t, .ok _) => t
    | (t, .trap c) => match (s.group? gk).bind fun g => g.entryOf .addr lane with
      | some e => trapHeld t gk .addr e.seqPc [(lane, c)]
      | none => s
    | (_, .block _) => s)

/-- MSTAT (R287): a store of `value` clears the bits that are 1 in it. -/
def execMstat (gk : Nat) (value : DWord) (s : State) : Host.Outcome State Fault Refusal :=
  .next (windowStore s gk (bytesOfNat value.toNat 8) (.page 0x18 8))

end Sys2Proof.Machine
end

