-- ==== Sys2Proof/Machine/TileOps.lean ====
section
/-! DEFINITION. Operand slots (R302 to R305), tile reads and writes of the register file (R271 to R274), and the decode ports and the
encode path as they take operations (R15, R219 to R222, R242, R297, R298). -/

namespace Sys2Proof.Machine

open Sys2Proof

/-! ### Operand slots -/

/-- An operand slot of a core. -/
def slotOf (s : State) (core k : Nat) : Slot := SMap.get {} (s.core core).slots k

/-- Change an operand slot. -/
def setSlot (s : State) (core k : Nat) (x : Slot) : State :=
  s.setCore core fun c => { c with slots := SMap.put {} c.slots k x }

/-- Whether a group has claimed a slot. -/
def slotMine (s : State) (core gk k : Nat) : Bool := (slotOf s core k).state != 0 && (slotOf s core k).owner = gk

/-- The lowest of some slots that a group has not claimed, as the cause it raises (R302, R303, R307). -/
def slotsRefused (s : State) (core gk : Nat) (ks : List Nat) : Option Cause :=
  (leastOf (ks.filter fun k => !slotMine s core gk k)).map fun k => ⟨0x141, k, 0⟩

/-- TSCLAIM (R197, R204, R302). -/
def execTsclaim (f : SlotOps) (s : State) : Host.Outcome State Fault Refusal :=
  runWord (.tsclaim f) s fun a =>
    let ks := (upTo (f.count.toNat + 1)).map (f.slot.toNat + ·)
    match leastOf (ks.filter fun k => (slotOf a.s a.g.core k).state != 0) with
    | some k => a.raise ⟨0x142, k, 0⟩
    | none => a.advance (ks.foldl (fun s k => setSlot s a.g.core k { state := 1, owner := a.gk }) (a.retire a.s []))

/-- A field of a parameter block of the matrix engine (R306). -/
def matSA (x : Nat) : Nat := bitsOf x 61 56
def matSB (x : Nat) : Nat := bitsOf x 69 64
def matKT (x : Nat) : Nat := bitsOf x 55 48
def matNT (x : Nat) : Nat := bitsOf x 47 44
def matMT (x : Nat) : Nat := bitsOf x 43 40

/-- The operand slots that a matrix operation names (R307). -/
def matSlots (op x : Nat) : List Nat :=
  if op ≤ 1 then (upTo (matMT x * matKT x)).map (matSA x + ·) ++ (upTo (matKT x * matNT x)).map (matSB x + ·)
  else if op = 3 then (upTo (matMT x * matNT x)).map (matSA x + ·)
  else []

/-- The operand slots that an operation fills or reads. -/
def Op.slots (o : Op) : List Nat :=
  match o.kind with
  | .tload _ cs slot => (upTo cs.length).map (slot + ·)
  | .mat op _ x .. => matSlots op x
  | _ => []

/-- The unfinished operations of a group on some slots that meet a test. -/
def Group.onSlots (g : Group) (ks : List Nat) (p : Op → Bool) : List Nat :=
  (g.ops.filter fun o => !o.ended && p o && o.slots.any ks.contains).map (·.id)

/-- TSREL (R302, R305). -/
def execTsrel (f : SlotOps) (s : State) : Host.Outcome State Fault Refusal :=
  runWord (.tsrel f) s fun a =>
    let ks := (upTo (f.count.toNat + 1)).map (f.slot.toNat + ·)
    match slotsRefused a.s a.g.core a.gk ks with
    | some c => a.raise c
    | none =>
      let before := a.g.onSlots ks fun _ => true
      let waited := match a.iss.entry.block with
        | .opsEnd _ => true
        | _ => false
      if !before.isEmpty && !waited then a.wait a.s (.opsEnd before)
      else a.advance (ks.foldl (fun s k => setSlot s a.g.core k {}) (a.retire a.s []))

/-- The packed coordinates of a tload: a list in the core window, 8-aligned there or refused, or successive ones (R303). (DEDUCED, log
entry 34.) -/
def tloadCoords (a : Act) (f : TloadOps) : Got (List Nat) :=
  let x := (a.a f.ab.toNat a.lead).toNat
  let n := f.count.toNat + 1
  if f.list && x % 8 != 0 then .trap ⟨0x0A1, x, 0⟩
  else if f.list then match localGet a.s a.g a.lead x (8 * n) 8 with
    | .trap c => .trap c
    | .block b => .block b
    | .ok bs => .ok ((upTo n).map fun i => natOfBytes ((bs.drop (8 * i)).take 8))
  else .ok ((upTo n).map fun i => (x + i) % 2 ^ 64)

/-- The cause that a coordinate of a tload raises; a successive one may not carry out of dimension 0 (R303). -/
def tloadRange (d : Desc) (f : TloadOps) (x : Nat) (cs : List Nat) : Option Cause :=
  (upTo cs.length).findSome? fun i =>
    if !f.list && 65536 ≤ x % 65536 + i then some ⟨0x0E3, cs.getD i 0, 0⟩ else coordCause d (cs.getD i 0)

/-- TLOAD (R303). -/
def execTload (f : TloadOps) (s : State) : Host.Outcome State Fault Refusal :=
  runWord (.tload f) s fun a =>
    if 63 ≤ a.g.count 1 then a.wait a.s (.engine 1)
    else a.readDesc (a.a f.aa.toNat a.lead).toNat fun a d =>
      a.got (a.s, tloadCoords a f) fun a cs =>
        match (tloadRange d f (a.a f.ab.toNat a.lead).toNat cs).or
            (slotsRefused a.s a.g.core a.gk ((upTo cs.length).map (f.slot.toNat + ·))) with
        | some c => a.raise c
        | none => a.advance (acceptOp (a.retire a.s []) a.gk 1 [a.lead] cs.length 0 (.tload d cs f.slot.toNat))

/-! ### ldt and stt -/

/-- Whether a run of bytes of a tile breaks the region that its descriptor names (R209): none while regions are in play and a page of the
run does not translate. -/
def runRegion (s : State) (w : Who) (d : Desc) (kind va n : Nat) : Option Bool :=
  match engineRun s w kind va n with
  | .ok (ps, s) => some (!regionOk s d ps)
  | .error (.replay ..) => if d.region = 0 && s.regions.isEmpty then some false else none
  | .error _ => some false

/-- The place of a tile for a core (R207, R238). -/
def tilePlace (s : State) (w : Who) (d : Desc) (coord : Nat) : Option TilePlace :=
  if d.vkind != 2 then some (plainPlace d coord)
  else (viewOf s w.ctx d.view).map fun v =>
    let i := tileIndex d (unpackCoord coord)
    viewPlace d v (copyFor v w.core i) i

/-- Whether the tile of an ldt or stt breaks its descriptor's region as its pages stand at issue: its entry, and for ldt the stream that the
decode procedure reaches (R209, R220, R271). An entry rewritten later is met by the decode or encode. (DEDUCED, log entry 34.) -/
def tileRegion (s : State) (w : Who) (d : Desc) (coord : Nat) (stores : Bool) : Option Bool :=
  match tilePlace s w d coord with
  | none => some false
  | some pl => match runRegion s w d (if stores then 5 else 4) pl.entry 16 with
    | some false =>
      if stores then some false
      else match bindTile s w d coord .unchecked, bindEntry s w d coord pl with
        | .stop _, _ | _, .error _ => some false
        | _, .ok (b, s) =>
          let e := entryOfNat b.1
          if e.mode ≤ 1 then runRegion s w d 4 (pl.data + 16 * e.offset) (16 * e.length) else some false
    | x => x

/-- Whether the stream that an stt is to write breaks its descriptor's region, as its pages stand when the last value is popped (R209,
R222, R274; log entry 34). -/
def streamRegion (s : State) (w : Who) (d : Desc) (coord : Nat) (values : SMap Word) : Option Bool :=
  match tilePlace s w d coord with
  | none => some false
  | some pl => match engineRead s w pl.entry 16 with
    | .error _ => runRegion s w d 5 pl.entry 16
    | .ok (bs, s) =>
      let t := formTile d coord ((upTo 256).map (SMap.get 0#32 values))
      let stream := (chooseStream (s.ctx? w.ctx) d t (lowestSlot (s.ctx? w.ctx) d)).2.2
      runRegion s w d 5 (pl.data + 16 * (entryOfNat (natOfBytes bs)).offset) stream.length

/-- Whether the entry that issues an ldt or stt has waited for the pages of its accepted operation, which have kept its region: it goes on
(R209). -/
def Act.tileDone (a : Act) : Bool :=
  match a.iss.entry.block with
  | .tile _ => true
  | _ => false

/-- LDT (R271 to R273). While a page that its descriptor's region is compared with does not translate, the entry of the accepted ldt waits,
so that a breach is raised precisely (R209). -/
def execLdt (f : LtOps) (s : State) : Host.Outcome State Fault Refusal :=
  runWord (.ldt f) s fun a =>
    let size := 2 ^ f.size.toNat
    let coord := (a.a f.t.toNat a.lead).toNat
    if a.tileDone then a.complete []
    else if 63 ≤ a.g.count 1 then a.wait a.s (.engine 1)
    else a.readDesc (a.ea f.base f.off size a.lead) (align := size) fun a d =>
      match coordCause d coord with
      | some c => a.raise c
      | none =>
        let accept := fun (s : State) => acceptOp s a.gk 1 [a.lead] 1 0 (.ldt d coord (size = 8) a.lanes none)
        match tileRegion a.s a.g.who d coord false with
        | some true => a.raise (descCause d.addr 0x2B)
        | some false => a.advance (accept (a.retire a.s []))
        | none => a.wait (accept a.s) (.tile a.g.nextId)

/-- STT (R271, R274): accepted, its entry blocks until the last value has been popped. -/
def execStt (f : LtOps) (s : State) : Host.Outcome State Fault Refusal :=
  runWord (.stt f) s fun a =>
    let coord := (a.a f.t.toNat a.lead).toNat
    if a.tileDone then a.complete []
    else if 63 ≤ a.g.count 1 then a.wait a.s (.engine 1)
    else a.readDesc (a.ea f.base f.off 4 a.lead) (align := 4) fun a d =>
      if d.vkind = 2 then a.raise (descCause d.addr 0x29)
      else match coordCause d coord with
        | some c => a.raise c
        | none =>
          if tileRegion a.s a.g.who d coord true = some true then a.raise (descCause d.addr 0x2B)
          else a.wait (acceptOp a.s a.gk 1 [a.lead] 256 0 (.stt d coord a.lanes [])) (.stt a.g.nextId)

/-- What an ldt delivers to each member (R272, R273). -/
def ldtWords (g : Group) (d : Desc) (scales : Bool) (members : List Nat) (t : Option Tile) : List (Nat × List Word) :=
  members.map fun l => (l, match t with
    | some t => t.laneWords g.width scales l
    | none => List.replicate (tileRegs d.fmt g.width * (if scales then 2 else 1)) 0#32)

/-- The words of an ldt that go to members now: each takes what its qld has room for, after every older delivery (R266, R273). -/
def Group.ldtTake (g : Group) (id : Nat) (ws : List (Nat × List Word)) : Group × List (Nat × List Word) :=
  ws.foldl (fun (r : Group × List (Nat × List Word)) w =>
    let n := if g.oldestOwed w.1 id then 16 - (g.thread w.1).qld.length else 0
    (r.1.setThread w.1 fun t => { t with qld := t.qld ++ w.2.take n }, r.2 ++ [(w.1, w.2.drop n)])) (g, [])

/-- An ldt whose words have been decoded. -/
def Op.ldtWords? (o : Op) : Option (List (Nat × List Word)) :=
  match o.kind with
  | .ldt _ _ _ _ ws => if o.ended then none else ws
  | _ => none

/-- An ldt with other words still to deliver. -/
def Op.setWords (o : Op) (ws : List (Nat × List Word)) : Op :=
  match o.kind with
  | .ldt d c sc ms _ => { o with kind := .ldt d c sc ms (some ws) }
  | _ => o

/-- LDT_DELIVERY (R273). -/
def execLdtDelivery (gk id : Nat) (s : State) : Host.Outcome State Fault Refusal :=
  .next (match s.group? gk with
    | none => s
    | some g => match g.op? id with
      | none => s
      | some o => match (if ctxAway s g.ctx then none else o.ldtWords?) with
        | none => s
        | some ws =>
          let r := g.ldtTake id ws
          let s := s.setGroup gk fun _ => r.1.setOp id fun o => o.setWords r.2
          if r.2.all fun w => w.2.isEmpty then
            let s := if o.failed.isNone then sample s o.core g.ctx 2 ((s.core o.core).cyc.toNat - o.bound) else s
            endOp s gk id o.failed
          else s)

/-- The entry of an stt that still pops its values. -/
def Group.sttEntry (g : Group) (id : Nat) : Option Entry := g.frA.entries.find? fun e => e.block = .stt id

/-- The values of an stt after one more pop by each of its members (R274). -/
def Group.sttValues (g : Group) (o : Op) (members : List Nat) (values : SMap Word) : SMap Word :=
  members.foldl (fun m l => SMap.put 0#32 m (g.width * o.next + l) ((g.thread l).qsd.getD 0 0#32)) values

/-- An stt after one pop by each of its members (R274). -/
def Group.sttPop (g : Group) (o : Op) (d : Desc) (coord : Nat) (members : List Nat) (values : SMap Word) : Group :=
  (g.popLanes 3 1 members).setOp o.id fun o =>
    { o with kind := .stt d coord members (g.sttValues o members values), next := o.next + 1 }

/-- Members of an stt whose pop can never complete take STRAND_DEADLOCK and pop no more; with none left nothing is encoded
(R22, R274). -/
def sttDead (s : State) (gk : Nat) (g : Group) (o : Op) (d : Desc) (coord : Nat) (members : List Nat) (values : SMap Word)
    (e : Entry) : State :=
  let dead := members.filter (g.popDead 3 1)
  let left := diffLanes members dead
  let s := if left.isEmpty then endOp s gk o.id none
    else s.setGroup gk fun g => g.setOp o.id fun o => { o with kind := .stt d coord left values }
  trapAsync s gk .addr e.seqPc (dead.map fun l => (l, ⟨0x061, 3, 0⟩))

/-- STT_POP_STEP (R274): every member pops one value at once; after the last step the entry goes on, or, where the stream breaks the
descriptor's region, its members take DESCRIPTOR_INVALID and nothing is written (R209, R271); while a page of the stream does not translate,
it waits. -/
def execSttPopStep (gk id : Nat) (s : State) : Host.Outcome State Fault Refusal :=
  .next (match s.group? gk with
    | none => s
    | some g => match g.op? id, g.sttEntry id with
      | some o, some e => match o.kind with
        | .stt d coord members values =>
          if o.ended || g.status != .resident || !ctxRuns s g.ctx then s
          else if members.any (g.popDead 3 1) then sttDead s gk g o d coord members values e
          else if members.any fun l => (g.thread l).qsd.isEmpty then s
          else
            let pops := s.setGroup gk fun g => g.sttPop o d coord members values
            if 256 ≤ g.width * (o.next + 1) then
              match streamRegion s g.who d coord (g.sttValues o members values) with
              | some true =>
                trapAsync (endOp pops gk id none) gk .addr e.seqPc (members.map fun l => (l, descCause d.addr 0x2B))
              | some false => pops.setGroup gk fun g => g.completeEntry .addr e []
              | none => pops.setGroup gk fun g => g.setBlock .addr e.id (.tile id)
            else pops
        | _ => s
      | _, _ => s)

/-! ### The operations that an engine of a core holds -/

/-- The unfinished operations of a core, of groups and of packets, by holder. -/
def coreOps (s : State) (core : Nat) : List (OpRef × Op) :=
  s.groups.flatMap (fun p => (p.2.ops.filter fun o => o.core = core && !o.ended).map fun o => (OpRef.ofGroup p.1 o.id, o))
  ++ s.queues.filterMap fun p => (heldOp s (.ofQueue p.1)).bind fun x =>
    if x.1.core = core then some (OpRef.ofQueue p.1, x.1) else none

/-- The place of an operation's kind among the sources of a decode port or of the encode path, in the order in which R15 lists them. An
stt counts as one wherever its tile lies, so an append to a KV store, which is an stt (R351), goes before the encode copies of its cycle.
(DESIGN CHOICE, log entry 54.) -/
def OpKind.source : OpKind → Nat
  | .tload .. | .ldt .. | .stt .. => 0
  | .copy .. | .copyTile .. => 1
  | _ => 2

/-- Whether an operation's request comes before another's: that of the source listed first where they arrived in one cycle, else the
older (R15). -/
def Op.before (x y : Op) : Bool :=
  if x.cyc = y.cyc && x.kind.source != y.kind.source then decide (x.kind.source < y.kind.source) else decide (x.stamp < y.stamp)

/-- The operation whose request comes first (R15); of operations of one kind the oldest. -/
def oldestOp : List (OpRef × Op) → Option (OpRef × Op)
  | [] => none
  | x :: rest => match oldestOp rest with
    | none => some x
    | some y => if y.2.before x.2 then some y else some x

/-- Whether an operation asks for its engine: it is not held back by its context, by a fault, or by a segment that a resume restores. -/
def heldAsks (s : State) (r : OpRef) (o : Op) (w : Who) : Bool :=
  ctxRuns s w.ctx && !o.ended && o.accepted && o.faultIds.isEmpty && match r with
    | .ofGroup gk _ => match s.group? gk with
      | some g => g.attached s
      | none => false
    | .ofQueue _ => true

/-- The operation, of those that meet a test, whose request an engine of a core has to take first (R15). -/
def firstOp (s : State) (core : Nat) (ok : OpRef → Op → Bool) : Option (OpRef × Op) :=
  oldestOp ((coreOps s core).filter fun x => match heldOp s x.1 with
    | some (o, w) => heldAsks s x.1 o w && ok x.1 o
    | none => false)

/-- The operation that an engine of a core takes next: the first of those that meet a test, once the accesses that it is ordered after have
been performed (R15, R257). No later request passes it meanwhile. -/
def nextOp (s : State) (core : Nat) (ok : OpRef → Op → Bool) : Option (OpRef × Op × Who) :=
  (firstOp s core ok).bind fun x => (heldOp s x.1).bind fun y => if heldMay s x.1 y.1 y.2 then some (x.1, y) else none

/-! ### The decode ports -/

/-- Whether a tload's next slot may be written (R305). -/
def slotFree (s : State) (r : OpRef) (o : Op) (k : Nat) : Bool :=
  match r with
  | .ofGroup gk _ => match s.group? gk with
    | some g => (g.onSlots [k] fun x => x.id < o.id).isEmpty
    | none => false
  | .ofQueue _ => true

/-- Whether a group's operation is its next MAT operation and its slots are ready (R305, R316). -/
def matReady (s : State) (r : OpRef) (o : Op) : Bool :=
  match r with
  | .ofQueue _ => false
  | .ofGroup gk _ => match s.group? gk with
    | none => false
    | some g => o.cls = 2 && (o.stall = .passed || !matBegun s o.core)
      && (g.ops.all fun x => x.cls != 2 || x.ended || o.seq ≤ x.seq)
      && (g.onSlots o.slots fun x => x.cls = 1 && x.id < o.id).isEmpty

/-- The operation code of a matrix operation. -/
def OpKind.matOp : OpKind → Option Nat
  | .mat op .. => some op
  | _ => none

/-- Whether an mattn that the matrix engine may go on with arrived at the operand-memory port before an operation (R15, R311). -/
def attendFirst (s : State) (o : Op) : Bool := (firstOp s o.core fun r x => matReady s r x && x.kind.matOp = some 3).any fun x => x.2.before o

/-- Whether a prefix split that waits on a core for its port and encode path came there in an order that a test names: arrival number and
cycle (R15). -/
def splitThat (s : State) (core : Nat) (ok : Nat → Nat → Bool) : Bool :=
  s.groups.any fun p => p.2.core = core && p.2.status = .resident && ctxRuns s p.2.ctx && p.2.frA.entries.any fun e =>
    match e.block with
    | .port n cyc => ok n cyc
    | _ => false

/-- Whether a prefix split of an earlier cycle goes before an operation (R15). -/
def splitFirst (s : State) (o : Op) : Bool := splitThat s o.core fun n cyc => cyc != o.cyc && n < o.stamp

/-- Whether a decode port takes an operation now: 0 the operand-memory port, 1 the register-file port (R15). A tile that waits for a view
refresh (R242), or for its slot (R305), lets later ones pass. (DESIGN CHOICE, log entry 53.) -/
def portTakes (s : State) (port : Nat) (r : OpRef) (o : Op) : Bool :=
  (match o.stall with
    | .waiting .. => false
    | _ => true)
  && match o.kind with
    | .tload _ _ slot => port = 0 && slotFree s r o (slot + o.next) && !attendFirst s o
    | .ldt _ _ _ _ none => port = 1 && !refreshFirst s o false && !splitFirst s o
    | .copyTile x _ none => port = 1 && blkFlag x 371 && !refreshFirst s o false && !splitFirst s o
    | _ => false

/-- The group of a holder, changed. -/
def setHolder (s : State) (r : OpRef) (f : Group → Group) : State :=
  match r with
  | .ofGroup gk _ => s.setGroup gk f
  | .ofQueue _ => s

/-- The bits-per-symbol sample of a tile decoded for a group under the table that a CODED one has bound (R219, R374). -/
def sampleBits (s : State) (r : OpRef) (core : Nat) (w : Who) (table : Option (Nat × List Nat)) (t : Tile) : State :=
  match r, table with
  | .ofGroup _ _, some (_, ls) => sample s core w.ctx 5 (16 * t.elems.foldl (fun n c => n + ls.getD (symOf t.fmt c) 0) 0 / 256)
  | _, _ => s

/-- A tload whose tile fails leaves its slot zeroed, and so every later one, each once no older matrix operation has still to read it; it
fails with the last (R304, R305). -/
def failTload (s : State) (r : OpRef) (o : Op) (w : Who) (slot : Nat) (c : Cause) : State :=
  let s := setSlot s o.core (slot + o.next) { slotOf s o.core (slot + o.next) with state := 1, tile := none }
  if o.count ≤ o.next + 1 then failHeld s r o w c
  else setHeld s r o.id fun o => { o with failed := some c, next := o.next + 1, entry := none }

/-- The members of an ldt or stt. -/
def OpKind.members : OpKind → List Nat
  | .ldt _ _ _ ms _ => ms
  | .stt _ _ ms _ => ms
  | _ => []

/-- A tile breaks its descriptor's region while the entry of its ldt or stt waits for that: DESCRIPTOR_INVALID is raised there in every
member, and the operation ends with nothing read or written (R209, R271). -/
def breachAt (s : State) (r : OpRef) (o : Op) (e : Stop) : Option State :=
  match e, r with
  | .cause c, .ofGroup gk id => (s.group? gk).bind fun g => (g.frA.entries.find? fun x => x.block = .tile id).bind fun x =>
    if c.code = 0x0E2 && c.info = 0x2B then
      some (trapAsync (endOp s gk id none) gk .addr x.seqPc (o.kind.members.map fun l => (l, c)))
    else none
  | _, _ => none

/-- A decode fails or waits for a translation (R168, R209, R273, R304). -/
def decodeStop (s : State) (r : OpRef) (o : Op) (w : Who) (e : Stop) : State :=
  (breachAt s r o e).getD (match e, o.kind, r with
    | .cause c, .ldt d _ scales members _, .ofGroup gk id =>
      if fatalCode c.code then stopHeld s r o w e
      else s.setGroup gk fun g => g.setOp id fun o =>
        { o.setWords (ldtWords g d scales members none) with failed := some c }
    | .cause c, .tload _ _ slot, _ => if fatalCode c.code then stopHeld s r o w e else failTload s r o w slot c
    | _, _, _ => stopHeld s r o w e)

/-- A decoded tile reaches its operation: an ldt's words, a slot, or the image of a copy; its entry was bound in the cycle `o.bound`
(R272, R297, R304, R374). -/
def decodeDone (s : State) (r : OpRef) (o : Op) (t : Tile) : State :=
  let b := o.bound
  match o.kind, r with
  | .ldt d _ scales members _, .ofGroup gk id => s.setGroup gk fun g => g.setOp id fun o =>
      { o.setWords (ldtWords g d scales members (some t)) with bound := b }
  | .tload _ cs slot, .ofGroup gk id =>
    let s := setSlot s o.core (slot + o.next) { slotOf s o.core (slot + o.next) with state := 2, tile := some t, bad := false }
    let s := match s.group? gk with
      | some g => sample s o.core g.ctx 2 ((s.core o.core).cyc.toNat - b)
      | none => s
    let s := setHeld s r id fun o => { o with next := o.next + 1, stall := .unchecked, entry := none }
    if o.next + 1 = cs.length then endOp s gk id none else s
  | .copyTile x d _, _ => setHeld s r o.id fun o =>
      { o with kind := .copyTile x d (some t.image), bound := b, stall := .passed, entry := none }
  | _, _ => s

/-- Decode one tile for an operation: once its entry is bound, the tile is decoded under it whatever the stream's pages wait for (R219,
R220). The policy of a stale view tile acts before what the entry itself may raise (R242). -/
def decodeFor (s : State) (r : OpRef) (o : Op) (w : Who) (d : Desc) (coord : Nat) : State :=
  match bindTile s w d coord o.stall with
  | .stop e => decodeStop s r o w e
  | .wait v k i n => setHolder (setHeld s r o.id fun o => { o with stall := .waiting v k i n }) r Group.markWait
  | .go pl stale =>
    let now := (s.core o.core).cyc.toNat
    let mark := fun (s : State) => if stale then setHolder s r fun g => g.markStale d.view else s
    let bound := if o.entry.isSome then o.bound else now
    match decodeKept s w d coord pl o.entry with
    | .error (.replay code va kind, none, s) => decodeStop s r o w (.replay code va kind)
    | .error (e, none, s) => decodeStop (mark s) r o w e
    | .error (e, some b, s) =>
      decodeStop (setHeld (mark s) r o.id fun o => { o with stall := .passed, entry := some b, bound := bound }) r o w e
    | .ok (t, b, s) => decodeDone (sampleBits (mark s) r o.core w b.2 t) r { o with bound := bound } t

/-- TILE_DECODE (R220): a port of a core decodes the next tile of the operation that it takes; a tload that has failed zeroes its next slot
(R304). -/
def execTileDecode (core port : Nat) (s : State) : Host.Outcome State Fault Refusal :=
  .next (match nextOp s core (portTakes s port) with
    | none => s
    | some (r, o, w) => match o.kind with
      | .tload d cs slot => match o.failed with
        | some c => failTload s r o w slot c
        | none => decodeFor s r o w d (cs.getD o.next 0)
      | .ldt d coord .. => decodeFor s r o w d coord
      | .copyTile x d _ => decodeFor s r o w d (blkCoord x)
      | _ => s)

/-! ### The encode path -/

/-- Whether the encode path takes an operation now: an stt whose values are all popped, or an encode copy. -/
def encodeTakes (s : State) (r : OpRef) (o : Op) : Bool :=
  match o.kind, r with
  | .stt .., .ofGroup gk _ => match s.group? gk with
    | some g => decide (256 ≤ g.width * o.next) && !refreshFirst s o true && !splitFirst s o
    | none => false
  | .copyTile x _ _, _ => blkFlag x 372 && !refreshFirst s o true && !splitFirst s o
  | _, _ => false

/-- Encode the tile of an operation from its values (R222, R274, R298). -/
def encodeFor (s : State) (r : OpRef) (o : Op) (w : Who) (d : Desc) (coord : Nat) (vals : List Word) (done : State → State) :
    State :=
  match encodeTile s w d coord vals (lowestSlot (s.ctx? w.ctx) d) none 0 false (plainPlace d coord) with
  | .error (e, s) => (breachAt s r o e).getD (stopHeld s r o w e)
  | .ok s => done s

/-- ENCODE_TILE (R222): the encode path of a core encodes the tile of the operation that it takes. -/
def execEncodeTile (core : Nat) (s : State) : Host.Outcome State Fault Refusal :=
  .next (match nextOp s core (encodeTakes s) with
    | none => s
    | some (r, o, w) => match o.kind, r with
      | .stt d coord _ values, .ofGroup gk id =>
        encodeFor s r o w d coord ((upTo 256).map (SMap.get 0#32 values)) fun s => endOp s gk id none
      | .copyTile x d _, _ => match engineRead s w (blkSource x) 1024 with
        | .error e => stopHeld s r o w e
        | .ok (bs, s) =>
          encodeFor s r o w d (blkCoord x) ((upTo 256).map fun n => BitVec.ofNat 32 (natOfBytes ((bs.drop (4 * n)).take 4)))
            fun s => itemDone s r o w id
      | _, _ => s)

/-! ### View refreshes -/

/-- The view tile that an operation binds next: its descriptor and coordinate. -/
def Op.bindsTile (o : Op) : Option (Desc × Nat) :=
  match o.kind with
  | .tload d cs _ => some (d, cs.getD o.next 0)
  | .ldt d coord .. => some (d, coord)
  | .copyTile x d none => some (d, blkCoord x)
  | _ => none

/-- Whether a decode that waits for its stream has bound an entry of a view block which names a place (R219, R241). -/
def placeBound (s : State) (b : ViewBlock) (v : View) (place : Nat) : Bool :=
  let holds := fun (o : Op) => !o.ended && match o.entry, o.bindsTile with
    | some (x, _), some (d, coord) => d.vkind = 2 && d.view = b.view && decide (tileIndex d (unpackCoord coord) = b.tile)
      && decide (copyFor v o.core b.tile = b.stack) && decide ((entryOfNat x).offset = place)
    | _, _ => false
  s.groups.any (fun p => p.2.ctx = b.ctx && !ctxAway s b.ctx && p.2.ops.any holds)
  || s.queues.any fun p => p.2.bound = some b.ctx && match p.2.stage with
    | .copying ops => ops.any holds
    | _ => false

/-- Whether a refresh that would write its stream now waits for a decode of the place that it writes (R241). -/
def placeWaits (s : State) (r : Refresh) : Bool :=
  match engineRead s (r.block.who s) (viewPlace r.view.desc r.view r.block.stack r.block.tile).entry 16 with
  | .ok (bs, _) => placeBound s r.block r.view (refreshPlace r.view r.block.tile (natOfBytes bs))
  | .error _ => false

/-- Whether a refresh waits for a request that came to the port or the encode path of its core before it (R15), or for a decode that has
bound the place that it writes (R241). -/
def refreshWaits (s : State) (k : Nat) (r : Refresh) : Bool :=
  let older := fun (ok : OpRef → Op → Bool) =>
    (firstOp s (viewCore s k) ok).any (fun x => decide (x.2.cyc = r.cyc) || decide (x.2.stamp < r.stamp))
      || splitThat s (viewCore s k) fun n cyc => cyc = r.cyc || n < r.stamp
  r.cause.isNone && (if r.values.isNone then older (portTakes s 1) else r.cleared && (older (encodeTakes s) || placeWaits s r))

/-- VIEW_REFRESH (R241, R244): the view engine of a cluster goes on with its refresh, or begins that of the oldest pending block of its
stack. -/
def execViewRefresh (cluster : Nat) (s : State) : Host.Outcome State Fault Refusal :=
  .next (match SMap.find? s.refreshing cluster with
    | some r => if refreshWaits s cluster r then s else stepRefresh s cluster r
    | none => match s.refresh.find? fun b => b.stack = cluster with
      | none => s
      | some b => match viewOf s b.ctx b.view with
        | none => clearBlock s b
        | some v =>
          let now := (s.core (viewCore s cluster)).cyc.toNat
          { s with refreshing := SMap.insert s.refreshing cluster { block := b, view := v, stamp := s.stamp, cyc := now },
                   stamp := s.stamp + 1 })


end Sys2Proof.Machine
end

