-- ==== Sys2Proof/Machine/KV.lean ====
section
/-! DEFINITION. KV sequences: records, pages, the slot allocator and snapshots (R345 to R349), and the extent instructions
(R350 to R354). -/

namespace Sys2Proof.Machine

open Sys2Proof

/-! ### Records -/

/-- An extent: log2 of its stride in 4 KiB granules, its pages, the first slot's address (R345). -/
structure KvExt where
  z     : Nat
  count : Nat
  base  : Nat
  deriving DecidableEq, Repr

/-- A LIVE record (R345). -/
structure KvRec where
  len  : Nat
  fmt  : Nat
  dt   : Nat
  fork : Bool := false
  opn  : Bool := false
  exts : List KvExt := []
  deriving DecidableEq, Repr

/-- The 8 bytes of an extent as a number. -/
def KvExt.value (e : KvExt) : Nat := e.base / 4096 % 2 ^ 44 + e.count % 2 ^ 16 * 2 ^ 46 + e.z % 4 * 2 ^ 62

/-- The extent that 8 bytes hold. -/
def extOf (x : Nat) : KvExt := ⟨bitsOf x 63 62, bitsOf x 61 46, bitsOf x 43 0 * 4096⟩

/-- The 256 bytes of a record as a number. -/
def KvRec.value (r : KvRec) : Nat :=
  let bit := fun (b : Bool) (n : Nat) => if b then 2 ^ n else 0
  r.exts.length + 2 ^ 8 + bit r.opn 9 + bit r.fork 10 + (r.dt - 1) % 4 * 2 ^ 16 + r.fmt % 16 * 2 ^ 24 + r.len % 2 ^ 32 * 2 ^ 32
    + (upTo r.exts.length).foldl (fun s i => s + (r.exts.getD i ⟨0, 0, 0⟩).value * 2 ^ (128 + 64 * i)) 0

/-- The fields of a record, whatever its other bits. -/
def recFields (x : Nat) : KvRec :=
  { len := bitsOf x 63 32, fmt := bitsOf x 27 24, dt := bitsOf x 17 16 + 1, fork := bitOf x 10, opn := bitOf x 9,
    exts := (upTo (min 16 (bitsOf x 4 0))).map fun i => extOf (bitsOf x (191 + 64 * i) (128 + 64 * i)) }

/-- The sealed extents of a record. -/
def KvRec.sealed (r : KvRec) : List KvExt := if r.opn then r.exts.dropLast else r.exts

/-- The pages of extents. -/
def pagesIn (es : List KvExt) : Nat := es.foldl (fun n e => n + e.count) 0

/-- A LIVE and consistent record from its bytes; any other raises EXTENT_HANDLE_INVALID (R345, log entry 11). -/
def parseRec (x : Nat) : Option KvRec :=
  let r := recFields x
  let ok := r.value = x && r.fmt ≤ 10 && r.exts.all (fun e => e.count != 0)
    && (!r.opn || match r.exts.getLast? with
      | some e => e.z = 3 && e.count = 1
      | none => false)
  if ok then some r else none

/-- The slot of page `p`: its address (R347). -/
def pageSlot : List KvExt → Nat → Option Nat
  | [], _ => none
  | e :: rest, p => if p < e.count then some (e.base + 4096 * 2 ^ e.z * p) else pageSlot rest (p - e.count)

/-- Every slot that extents name: its address and the log2 of its granules. -/
def slotsNamed (es : List KvExt) : List (Nat × Nat) :=
  es.flatMap fun e => (upTo e.count).map fun i => (e.base + 4096 * 2 ^ e.z * i, e.z)

/-- EXTENT_HANDLE_INVALID. -/
def badHandle (h : Nat) : Stop := .cause ⟨0x161, h, 0⟩

/-- The handles of a context: numbers below this (R345). -/
def handleCap (c : Context) : Nat := if c.seqBase = 0 && c.seqLog = 0 then 0 else 2 ^ c.seqLog

/-- The record of a handle (R345, R350). -/
def getRec (s : State) (w : Who) (h : Nat) : Except Stop (KvRec × State) :=
  match s.ctx? w.ctx with
  | none => .error (badHandle h)
  | some c =>
    if h = 0 || handleCap c ≤ h then .error (badHandle h)
    else match engineNat s w (c.seqBase + 256 * h) 256 with
      | .error e => .error e
      | .ok (x, s) => match parseRec x with
        | some r => .ok (r, s)
        | none => .error (badHandle h)

/-- Write the record of a handle, or zeros (R349). -/
def putRec (s : State) (w : Who) (h : Nat) (r : Option KvRec) : Except Stop State :=
  let base := ((s.ctx? w.ctx).map (·.seqBase)).getD 0
  engineWrite s w (base + 256 * h) (bytesOfNat ((r.map (·.value)).getD 0) 256)

/-- The lowest handle that is not LIVE, from `h` up. -/
def freeHandleFrom (s : State) (w : Who) (base h : Nat) : Nat → Except Stop (Nat × State)
  | 0 => .error (.cause ⟨0x162, 0, 0⟩)
  | fuel + 1 => match engineNat s w (base + 256 * h + 1) 1 with
    | .error e => .error e
    | .ok (b, s) => if b % 2 = 0 then .ok (h, s) else freeHandleFrom s w base (h + 1) fuel

/-- The lowest handle that is not LIVE (R351, R353). -/
def freeHandle (s : State) (w : Who) : Except Stop (Nat × State) :=
  match s.ctx? w.ctx with
  | none => .error (.cause ⟨0x162, 0, 0⟩)
  | some c => freeHandleFrom s w c.seqBase 1 (handleCap c - 1)

/-! ### The pool -/

/-- Whether `n` granules from granule `g` lie in the pool and are free (R348). -/
def Context.granulesFree (c : Context) (g n : Nat) : Bool :=
  decide (c.poolBase / 4096 ≤ g) && decide (4096 * (g + n) ≤ c.poolBase + c.poolSize)
  && c.slotSizes.all fun p => decide (p.1 + p.2 ≤ g) || decide (g + n ≤ p.1)

/-- Whether granule `g` starts a free slot of 2^z granules: free, and of no larger free slot (R348). -/
def Context.freeSlot (c : Context) (z g : Nat) : Bool :=
  let m := 2 ^ (z + 1)
  c.granulesFree g (2 ^ z) && (z = 3 || !c.granulesFree (g / m * m) m)

/-- The granules of the pool at which a slot of 2^z granules may start. -/
def Context.slotStarts (c : Context) (z : Nat) : List Nat :=
  (upTo (c.poolSize / (4096 * 2 ^ z))).map fun i => c.poolBase / 4096 + 2 ^ z * i

/-- Mark a slot allocated, with one reference. -/
def Context.takeSlot (c : Context) (z g : Nat) : Context :=
  { c with slotSizes := SMap.insert c.slotSizes g (2 ^ z), slotRefs := SMap.insert c.slotRefs g 1 }

/-- The slot that alloc(z, pref) takes (R348). -/
def Context.findSlot (c : Context) (z : Nat) (pref : Option Nat) : Option Nat :=
  let wanted := pref.bind fun p =>
    if p % (4096 * 2 ^ z) = 0 && c.granulesFree (p / 4096) (2 ^ z) then some (p / 4096) else none
  wanted.or ((upTo 4).findSome? fun k => if k < z then none else (c.slotStarts k).find? fun g => c.freeSlot k g)

/-- alloc(z, pref): the slot's address (R348). -/
def kvAlloc (s : State) (ck z : Nat) (pref : Option Nat) : Except Stop (Nat × State) :=
  match (s.ctx? ck).bind fun c => c.findSlot z pref with
  | none => .error (.cause ⟨0x162, 4096 * 2 ^ z, 0⟩)
  | some g => .ok (4096 * g, s.setCtx ck fun c => c.takeSlot z g)

/-- Allocate a run of `n` slots (R348). -/
def kvAllocRun (s : State) (ck z n : Nat) : Except Stop (Nat × State) :=
  match (s.ctx? ck).bind fun c => (c.slotStarts z).find? fun g => c.granulesFree g (2 ^ z * n) with
  | none => .error (.cause ⟨0x162, 4096 * 2 ^ z, 0⟩)
  | some g => .ok (4096 * g, s.setCtx ck fun c => (upTo n).foldl (fun c i => c.takeSlot z (g + 2 ^ z * i)) c)

/-- Return a slot that no handle and no snapshot names (R348, R349). -/
def Context.reap (c : Context) (g : Nat) : Context :=
  if SMap.get 0 c.slotRefs g = 0 && !c.snapshots.any (·.contains g) then
    { c with slotSizes := SMap.erase c.slotSizes g, slotRefs := SMap.erase c.slotRefs g }
  else c

/-- Another handle names slots: the count of each rises by 1, however often the handle names it (R348). -/
def kvHold (s : State) (ck : Nat) (slots : List (Nat × Nat)) : State :=
  s.setCtx ck fun c => slots.eraseDups.foldl (fun c p =>
    { c with slotRefs := SMap.modify c.slotRefs (p.1 / 4096) (· + 1) }) c

/-- A handle no longer names slots: the count of each falls by 1, however often the handle has named it (R348). -/
def kvDrop (s : State) (ck : Nat) (slots : List (Nat × Nat)) : State :=
  s.setCtx ck fun c => slots.eraseDups.foldl (fun c p =>
    { c with slotRefs := SMap.modify c.slotRefs (p.1 / 4096) (· - 1) }.reap (p.1 / 4096)) c

/-- Slots leave the extents of a handle that goes on with `kept`: those that these name too keep their counts (R348). -/
def kvLeave (s : State) (ck : Nat) (slots : List (Nat × Nat)) (kept : List KvExt) : State :=
  kvDrop s ck (slots.filter fun p => !(slotsNamed kept).contains p)

/-- A snapshot names its record's slots until it is dropped (R349). -/
def kvSnapshot (s : State) (ck : Nat) (r : KvRec) : State × List Nat :=
  let ks := (slotsNamed r.exts).map (·.1 / 4096)
  (s.setCtx ck fun c => { c with snapshots := c.snapshots ++ [ks] }, ks)

/-- Drop a snapshot (R349). -/
def kvRelease (s : State) (ck : Nat) (ks : List Nat) : State :=
  s.setCtx ck fun c => ks.foldl Context.reap { c with snapshots := c.snapshots.erase ks }

/-- Count a slot named by a LIVE record when the map is built (R348); none where creation is refused. -/
def Context.claimSlot (c : Context) (p : Nat × Nat) : Option Context :=
  let g := p.1 / 4096
  if p.1 % (4096 * 2 ^ p.2) != 0 then none
  else match SMap.find? c.slotSizes g with
    | some n => if n = 2 ^ p.2 then some { c with slotRefs := SMap.modify c.slotRefs g (· + 1) } else none
    | none => if c.granulesFree g (2 ^ p.2) then some (c.takeSlot p.2 g) else none

/-- The map of a context's pool from the bytes of its sequence table, record by record: every slot that a LIVE record names, also one that
is otherwise inconsistent, once for its handle (R348). -/
def Context.claimAll (c : Context) : List Nat → Option Context
  | [] => some c
  | x :: rest =>
    let slots := if bitOf x 8 then (slotsNamed (recFields x).exts).eraseDups else []
    (slots.foldl (fun c p => c.bind fun c => c.claimSlot p) (some c)).bind fun c => c.claimAll rest

/-! ### Pages -/

/-- The tiles of a page: their numbers (R346). -/
def pageTiles (r : KvRec) : List Nat := upTo (4 * r.dt)

/-- The 32 KiB of a new open page (R346). -/
def openPage (r : KvRec) : List Byte :=
  let head := (pageTiles r).flatMap fun i => IndexEntry.bytes { offset := i * rawUnits r.fmt }
  head ++ List.replicate (32768 - head.length) 0#8

/-- Read the entries of a page. -/
def pageEntries (s : State) (w : Who) (r : KvRec) (slot : Nat) : Except Stop (List IndexEntry × State) :=
  match engineRead s w slot (16 * (4 * r.dt)) with
  | .error e => .error e
  | .ok (bs, s) => .ok ((pageTiles r).map fun i => entryOfNat (natOfBytes ((bs.drop (16 * i)).take 16)), s)

/-- Copy the streams of entries to a page at `slot`, packed from unit `off` on; the entries with their offsets (R352). -/
def packStreams (s : State) (w : Who) (old slot off : Nat) : List IndexEntry → Except Stop (List IndexEntry × State)
  | [] => .ok ([], s)
  | e :: rest => do
    let (bs, s) ← engineRead s w (old + 256 + 16 * e.offset) (16 * e.length)
    let s ← engineWrite s w (slot + 256 + 16 * off) bs
    let (es, s) ← packStreams s w old slot (off + e.length) rest
    .ok ({ e with offset := off } :: es, s)

/-- Copy pages into the starts of the slots of a run, and zero the rest of each slot (R352). -/
def copyPages (s : State) (w : Who) (stride : Nat) (dst : Nat) : List (Nat × Nat) → Except Stop State
  | [] => .ok s
  | (a, z) :: rest => do
    let (bs, s) ← engineRead s w a (4096 * 2 ^ z)
    let s ← engineWrite s w dst (bs ++ List.replicate (stride - bs.length) 0#8)
    copyPages s w stride (dst + stride) rest

/-- The adjacent pair of extents whose counts sum to the least, the lower on a tie: its place (R352). -/
def leastPair (es : List KvExt) : Nat :=
  let sum := fun i => (es.getD i ⟨0, 0, 0⟩).count + (es.getD (i + 1) ⟨0, 0, 0⟩).count
  (upTo (es.length - 1)).foldl (fun b i => if sum i < sum b then i else b) 0

/-- Put one extent in place of the adjacent pair that sums to the least, where 16 sealed extents would result (R352 step 5). -/
def coalesce (s : State) (w : Who) (es : List KvExt) : Except Stop (List KvExt × State) :=
  if es.length < 16 then .ok (es, s)
  else
    let i := leastPair es
    let pair := (es.drop i).take 2
    let z := pair.foldl (fun m e => max m e.z) 0
    let n := pagesIn pair
    if 65535 < n then .error (.cause ⟨0x162, 4096 * 2 ^ z, 0⟩)
    else do
      let (a, s) ← kvAllocRun s w.ctx z n
      let s ← copyPages s w (4096 * 2 ^ z) a (slotsNamed pair)
      let kept := es.take i ++ ⟨z, n, a⟩ :: es.drop (i + 2)
      .ok (kept, kvLeave s w.ctx (slotsNamed pair) kept)

/-- Seal the open page of a record (R352). -/
def sealPage (s : State) (w : Who) (h : Nat) (r : KvRec) : Except Stop (KvRec × State) :=
  match r.opn, r.exts.getLast? with
  | true, some o =>
    if r.len != 64 * pagesIn r.exts then .error (.cause ⟨0x163, h, r.len⟩)
    else do
      let (es, s) ← pageEntries s w r o.base
      let size := 256 + 16 * es.foldl (fun n e => n + e.length) 0
      let z := if size ≤ 4096 then 0 else if size ≤ 8192 then 1 else if size ≤ 16384 then 2 else 3
      let pref := r.sealed.getLast?.bind fun l =>
        if l.z = z && l.count < 65535 then some (l.base + 4096 * 2 ^ z * l.count) else none
      let (a, s) ← kvAlloc s w.ctx z pref
      let s ← engineWrite s w a (List.replicate (4096 * 2 ^ z) 0#8)
      let (es, s) ← packStreams s w o.base a 0 es
      let s ← engineWrite s w a (es.flatMap IndexEntry.bytes)
      let sealed := if some a = pref then
          r.sealed.dropLast ++ (r.sealed.getLast?.toList.map fun l => { l with count := l.count + 1 })
        else r.sealed ++ [⟨z, 1, a⟩]
      let (sealed, s) ← coalesce (kvLeave s w.ctx [(o.base, 3)] sealed) w sealed
      .ok ({ r with opn := false, exts := sealed }, s)
  | _, _ => .ok (r, s)

/-- A record with an open page: the one it has, copied where it is shared, or a new one (R351). -/
def openForWrite (s : State) (w : Who) (r : KvRec) : Except Stop (KvRec × State) :=
  match r.opn, r.exts.getLast? with
  | true, some o =>
    let shared := match s.ctx? w.ctx with
      | some c => decide (1 < SMap.get 0 c.slotRefs (o.base / 4096))
      | none => false
    if !shared then .ok (r, s)
    else do
      let (bs, s) ← engineRead s w o.base 32768
      let (a, s) ← kvAlloc s w.ctx 3 none
      let s ← engineWrite s w a bs
      let exts := r.exts.dropLast ++ [⟨3, 1, a⟩]
      .ok ({ r with exts := exts }, kvLeave s w.ctx [(o.base, 3)] exts)
  | _, _ => do
    let (a, s) ← kvAlloc s w.ctx 3 none
    let s ← engineWrite s w a (openPage r)
    .ok ({ r with opn := true, exts := r.exts ++ [⟨3, 1, a⟩] }, s)

/-! ### Templates -/

/-- Bits [hi:lo] of a number replaced. -/
def putBits (x hi lo v : Nat) : Nat := x - bitsOf x hi lo * 2 ^ lo + v % 2 ^ (hi + 1 - lo) * 2 ^ lo

/-- A template descriptor for a page at `slot` (R351). -/
def pageTemplate (x dt slot : Nat) : Nat :=
  [(63, 0, slot + 256), (127, 64, slot), (159, 128, 16 * dt), (191, 160, 64), (223, 192, 0), (255, 224, 0), (258, 256, 2),
    (261, 260, 1), (329, 328, 0), (335, 330, 0), (338, 336, 0), (341, 340, 0)].foldl
      (fun x f => putBits x f.1 f.2.1 f.2.2) x

/-- The template at `va`, read and checked: for a new handle, or against a record (R350). -/
def getTemplate (s : State) (g : Group) (va : Nat) (r : Option KvRec) : Except Stop Nat :=
  match localBytes s g va 64 64 with
  | .error c => .error (.cause c)
  | .ok bs =>
    let x := natOfBytes bs
    let ext0 := bitsOf x 159 128
    let fmt := bitsOf x 267 264
    let bad := match r with
      | none => (if [16, 32, 48, 64].contains ext0 then [] else [0x10]) ++ (if fmt ≤ 10 then [] else [0x21])
          ++ (if bitsOf x 329 328 = 0 then [] else [0x29])
      | some r => (if ext0 = 16 * r.dt then [] else [0x10]) ++ (if fmt = r.fmt then [] else [0x21])
    match leastOf bad with
    | some off => .error (.cause (descCause va off))
    | none => .ok x

/-! ### The instructions -/

/-- An extent instruction (R349, R350): earlier accesses of the issuing thread are performed first (a release at dev), L1 is
invalidated (an acquire at dev), and the whole instruction commits in one step, or raises its cause in every member, or waits
for a translation. -/
def Act.extent (a : Act) (ad : Option (BitVec 5)) (go : State → Who → Except Stop (State × Nat)) : State :=
  let ids := (a.g.accs.filter fun x => !x.performed && x.lane = a.lead).map (·.id)
  if !ids.isEmpty then a.wait a.s (.accesses ids)
  else match go (l1Invalidate (l1WriteBack a.s a.g.core) a.g.core) a.g.who with
    | .error (.cause c) => a.raise c
    | .error (.replay code va kind) =>
      let r := reportPages a.s a.g a.st kind (a.lanes.map fun l => (l, code, va))
      a.wait r.1 (.faults r.2)
    | .ok (s, x) => a.advance (a.retire s (match ad with
      | some d => a.a1 d fun _ => BitVec.ofNat 64 x
      | none => []))

/-- The packed coordinate of a token's tile row (R351). -/
def tokenCoord (t : Nat) : Nat := t % 64 / 16 * 2 ^ 16

/-- XLMAP_NEW (R351). -/
def execXlmapNew (f : XadOps) (s : State) : Host.Outcome State Fault Refusal :=
  runWord (.xlmapNew f) s fun a => a.extent (some f.ad) fun s w => do
    let x ← getTemplate s a.g (a.a f.aa.toNat a.lead).toNat none
    let (h, s) ← freeHandle s w
    let s ← putRec s w h (some { len := 0, fmt := bitsOf x 267 264, dt := bitsOf x 159 128 / 16 })
    .ok (s, h)

/-- Write a template for the page that holds token `t` back to the window (R351). -/
def writeTemplate (s : State) (g : Group) (va x : Nat) (r : KvRec) (t : Nat) : Except Stop State :=
  match pageSlot r.exts (t / 64) with
  | none => .error (badHandle 0)
  | some slot => engineWrite s g.who va (bytesOfNat (pageTemplate x r.dt slot) 64)

/-- XLMAP_RD (R347, R351). -/
def execXlmapRd (f : XlmapOps) (s : State) : Host.Outcome State Fault Refusal :=
  runWord (.xlmapRd f) s fun a => a.extent (some f.ad) fun s w => do
    let va := (a.a f.aa.toNat a.lead).toNat
    let t := (a.a f.ab.toNat a.lead).toNat
    let h := (a.a f.hh.toNat a.lead).toNat
    let (r, s) ← getRec s w h
    let x ← getTemplate s a.g va (some r)
    if r.len ≤ t || (pageSlot r.exts (t / 64)).isNone then .error (badHandle h)
    else
      let s ← writeTemplate s a.g va x r t
      .ok (s, tokenCoord t)

/-- XLMAP_WR (R351). -/
def execXlmapWr (f : XlmapOps) (s : State) : Host.Outcome State Fault Refusal :=
  runWord (.xlmapWr f) s fun a => a.extent (some f.ad) fun s w => do
    let va := (a.a f.aa.toNat a.lead).toNat
    let t := (a.a f.ab.toNat a.lead).toNat
    let h := (a.a f.hh.toNat a.lead).toNat
    let (r, s) ← getRec s w h
    let x ← getTemplate s a.g va (some r)
    let sealed := pagesIn r.sealed
    if r.len < t then .error (badHandle h)
    else if t < 64 * sealed then .error (.cause ⟨0x163, h, t⟩)
    else
      let (r, s) ← if r.opn && t = 64 * (sealed + 1) then sealPage s w h r else .ok (r, s)
      let (r, s) ← openForWrite s w r
      let r := if t = r.len then { r with len := t + 1 } else r
      if (pageSlot r.exts (t / 64)).isNone then .error (badHandle h)
      else
        let s ← writeTemplate s a.g va x r t
        let s ← putRec s w h (some r)
        .ok (s, tokenCoord t)

/-- XLSEAL (R352). -/
def execXlseal (f : XaOps) (s : State) : Host.Outcome State Fault Refusal :=
  runWord (.xlseal f) s fun a => a.extent none fun s w => do
    let h := (a.a f.aa.toNat a.lead).toNat
    let (r, s) ← getRec s w h
    if !r.opn then .ok (s, 0)
    else
      let (r, s) ← sealPage s w h r
      let s ← putRec s w h (some r)
      .ok (s, 0)

/-- XLFORK (R353). -/
def execXlfork (f : XadOps) (s : State) : Host.Outcome State Fault Refusal :=
  runWord (.xlfork f) s fun a => a.extent (some f.ad) fun s w => do
    let (r, s) ← getRec s w (a.a f.aa.toNat a.lead).toNat
    let (h, s) ← freeHandle s w
    let s ← putRec s w h (some { r with fork := true })
    .ok (kvHold s w.ctx (slotsNamed r.exts), h)

/-- XLFREE (R353): rejection. -/
def execXlfree (f : XaOps) (s : State) : Host.Outcome State Fault Refusal :=
  runWord (.xlfree f) s fun a => a.extent none fun s w => do
    let h := (a.a f.aa.toNat a.lead).toNat
    let (r, s) ← getRec s w h
    let s ← putRec s w h none
    .ok (kvDrop s w.ctx (slotsNamed r.exts), 0)

/-- XLFREE_ACCEPT (R353): acceptance. -/
def execXlfreeAccept (f : XabOps) (s : State) : Host.Outcome State Fault Refusal :=
  runWord (.xlfreeAccept f) s fun a => a.extent none fun s w => do
    let h := (a.a f.aa.toNat a.lead).toNat
    let p := (a.a f.ab.toNat a.lead).toNat
    let (r, s) ← getRec s w h
    if p = h then .error (badHandle p)
    else
      let (old, s) ← getRec s w p
      let s ← putRec s w p (some { r with fork := false })
      let s ← putRec s w h none
      .ok (kvDrop s w.ctx (slotsNamed old.exts), 0)

/-! ### Prefixes -/

/-- The extents of the first `q` pages (R354). -/
def cutExtents : List KvExt → Nat → List KvExt
  | [], _ => []
  | e :: rest, q => if q = 0 then [] else { e with count := min e.count q } :: cutExtents rest (q - e.count)

/-- Decode tile `i` of the source page, keep its first `rows` rows, and encode it in the child's page with PFX set (R354). -/
def prefixTile (s : State) (w : Who) (src dst : Desc) (r : KvRec) (rows i : Nat) : Except Stop State := do
  let coord := packCoord [i % r.dt, i / r.dt]
  let (t, _, s) ← decodeTile s w src coord (plainPlace src coord)
  let vals := (upTo 256).map fun n => if n / 16 < rows then BitVec.ofNat 32 (t.value false n).bits else 0#32
  let s ← (encodeTile s w dst coord vals (lowestSlot (s.ctx? w.ctx) dst) (some (i * rawUnits r.fmt)) 0 false
    (plainPlace dst coord)).mapError (·.1)
  let (b, s) ← engineNat s w (dst.index + 16 * i + 12) 1
  engineWrite s w (dst.index + 16 * i + 12) [BitVec.ofNat 8 (b ||| 2)]

/-- Fill tile `i` of the child's open page from the source page, of which `rem` tokens are kept (R354). -/
def prefixFill (s : State) (w : Who) (src dst : Desc) (r : KvRec) (rem i : Nat) (e : IndexEntry) : Except Stop State :=
  let c1 := i / r.dt
  let units := rawUnits r.fmt
  if c1 < rem / 16 then
    if units < e.length then prefixTile s w src dst r 16 i
    else do
      let (bs, s) ← engineRead s w (src.data + 16 * e.offset) (16 * e.length)
      let s ← engineWrite s w (dst.data + 16 * (i * units)) bs
      engineWrite s w (dst.index + 16 * i) { e with offset := i * units, pfx := true }.bytes
  else if c1 = rem / 16 && rem % 16 != 0 then prefixTile s w src dst r (rem % 16) i
  else .ok s

/-- Fill the tiles of the child's open page. -/
def prefixAll (s : State) (w : Who) (src dst : Desc) (r : KvRec) (rem : Nat) : List (Nat × IndexEntry) → Except Stop State
  | [] => .ok s
  | (i, e) :: rest => do
    let s ← prefixFill s w src dst r rem i e
    prefixAll s w src dst r rem rest

/-- The child's open page, filled from the page of the parent at `slot` (R354). -/
def prefixPage (s : State) (w : Who) (va x : Nat) (r : KvRec) (rem slot : Nat) : Except Stop (Nat × State) := do
  let (a, s) ← kvAlloc s w.ctx 3 none
  let s ← engineWrite s w a (openPage r)
  let (es, s) ← pageEntries s w r slot
  let s ← prefixAll s w (descOf va (pageTemplate x r.dt slot)) (descOf va (pageTemplate x r.dt a)) r rem
    ((upTo es.length).zip es)
  .ok (a, s)

/-- The place of a prefix split among the arrivals at the port and the encode path of its core, number and cycle: it keeps the one with
which it waits (R15). -/
def Act.arrival (a : Act) : Nat × Nat :=
  match a.iss.entry.block with
  | .port n cyc => (n, cyc)
  | _ => (a.s.stamp, (a.s.core a.g.core).cyc.toNat)

/-- XLPFX (R354). A split that decodes and encodes tiles again waits for the requests that reached its core's
register-file port and encode path earlier (R15). -/
def execXlpfx (f : XlmapOps) (s : State) : Host.Outcome State Fault Refusal :=
  runWord (.xlpfx f) s fun a =>
   if (a.a f.ab.toNat a.lead).toNat % 64 != 0 && portBusy a.s a.g.core a.arrival then
     a.wait { a.s with stamp := a.s.stamp + 1 } (.port a.arrival.1 a.arrival.2)
   else a.extent (some f.ad) fun s w => do
    let va := (a.a f.aa.toNat a.lead).toNat
    let m := (a.a f.ab.toNat a.lead).toNat
    let h := (a.a f.hh.toNat a.lead).toNat
    let (r, s) ← getRec s w h
    let x ← getTemplate s a.g va (some r)
    if r.len < m then .error (.cause ⟨0x163, h, m⟩)
    else
      let rem := m % 64
      let shared := cutExtents r.exts (m / 64)
      let s := kvHold s w.ctx (slotsNamed shared)
      let (es, s) ← coalesce s w shared
      let (n, s) ← freeHandle s w
      let (es, s) ← match pageSlot r.exts (m / 64) with
        | some slot =>
          if rem = 0 then .ok (es, s)
          else do
            let (a, s) ← prefixPage s w va x r rem slot
            .ok (es ++ [KvExt.mk 3 1 a], s)
        | none => if rem = 0 then .ok (es, s) else .error (badHandle h)
      let s ← putRec s w n (some { r with len := m, fork := false, opn := rem != 0, exts := es })
      .ok (s, n)

end Sys2Proof.Machine
end

