-- ==== Sys2Proof/Machine/Matrix.lean ====
section
/-! DEFINITION. The matrix engine: parameter blocks (R306, R307), products and distances (R308, R309), top-k selection (R310),
attention (R311 to R313), accumulator zeroing and reads (R314, R315), engine order (R316) and proof sampling (R64, R65, R377). -/

namespace Sys2Proof.Machine

open Sys2Proof

/-! ### The parameter block -/

/-- The other fields of a parameter block (R306). -/
def matD1 (x : Nat) : Nat := bitsOf x 447 384
def matX1 (x : Nat) : Nat := bitsOf x 383 352
def matX2 (x : Nat) : Nat := bitsOf x 351 320
def matX3 (x : Nat) : Nat := bitsOf x 319 288
def matX4 (x : Nat) : Nat := bitsOf x 287 256
def matX5 (x : Nat) : Nat := bitsOf x 255 224
def matX6 (x : Nat) : Nat := bitsOf x 223 192
def matShift (x : Nat) : Nat := bitsOf x 106 104
def matOut (x : Nat) : Nat := bitsOf x 98 96
def matK (x : Nat) : Nat := bitsOf x 94 88
def matCols (x : Nat) : Nat := bitsOf x 86 80
def matRows (x : Nat) : Nat := bitsOf x 78 72
def matCol0 (x : Nat) : Nat := bitsOf x 37 32
def matRow0 (x : Nat) : Nat := bitsOf x 30 24
def matAC (x : Nat) : Nat := bitsOf x 18 16

/-- Flag bits of a parameter block: Z 8, FZ 9, TA 10, TB 11, P 12, C 13. -/
def matFlag (x n : Nat) : Bool := bitOf x n

/-- kp: K rounded up to a power of two (R307). -/
def matKp (x : Nat) : Nat := if matK x ≤ 1 then 1 else 2 ^ (Nat.log2 (matK x - 1) + 1)

/-- The reserved bit ranges of a parameter block (R306). -/
def matReserved : List (Nat × Nat) :=
  [(191, 107), (103, 99), (95, 95), (87, 87), (79, 79), (71, 70), (63, 62), (39, 38), (31, 31), (23, 19), (15, 14)]

/-- The fields that an operation does not use, which must be zero: high and low bits (R306). -/
def matUnused (op x : Nat) : List (Nat × Nat) :=
  let mm := [(69, 64), (61, 56), (55, 48), (47, 44), (43, 40), (11, 11), (10, 10)]
  let topk := [(98, 96), (94, 88), (86, 80), (78, 72)]
  let attn := [(511, 448), (351, 320), (319, 288), (287, 256), (255, 224), (223, 192), (106, 104), (13, 13)]
  match op with
  | 0 => topk ++ attn ++ [(383, 352)] ++ (if matFlag x 12 then [] else [(447, 384)])
  | 1 => topk ++ attn ++ [(383, 352), (447, 384), (12, 12)]
  | 2 => mm ++ attn
  | _ => topk ++ [(69, 64), (55, 48), (11, 11), (10, 10)]

/-- The byte offsets of the offending fields of a block (R307 step 1). (DEDUCED, log entry 43.) -/
def matBreaches (op x : Nat) : List Nat :=
  let when := fun (c : Bool) (off : Nat) => if c then [off] else []
  let out := fun (v lo hi off : Nat) => when (v < lo || hi < v) off
  when (bitsOf x 7 0 != op) 0
  ++ reservedBytes x matReserved
  ++ ((matUnused op x).filterMap fun f => if bitsOf x f.1 f.2 = 0 then none else some (f.2 / 8))
  ++ (if op = 2 then out (matK x) 1 64 11 ++ out (matCols x) 1 64 10 ++ out (matRows x) 1 128 9
    else out (matNT x) 1 4 5 ++ out (matMT x) 1 8 5 ++ (if op ≤ 1 then out (matKT x) 1 64 6 else out (matX4 x) 1 (2 ^ 31) 32)
      ++ when (matRow0 x % 16 != 0) 3 ++ when (matCol0 x % 16 != 0) 4
      ++ when (64 < matSA x + matMT x * (if op ≤ 1 then matKT x else matNT x)) 7
      ++ when (op ≤ 1 && decide (64 < matSB x + matKT x * matNT x)) 8)

/-- ACC_RANGE of a block (R307 step 3). -/
def matRange (op x : Nat) : Option Cause :=
  let rows := if op = 2 then matRows x else 16 * matMT x
  let cols := if op = 2 then matCols x else 16 * matNT x
  if 128 < matRow0 x + rows then some ⟨0x143, matAC x, 128⟩
  else if 64 < matCol0 x + cols then some ⟨0x143, matAC x, matRow0 x⟩
  else if op = 2 && decide (512 < matRows x * matKp x) then some ⟨0x143, matAC x, matRow0 x + 512 / matKp x⟩
  else none

/-- The checks of steps 1 to 3 (R307). (DEDUCED, log entry 23.) -/
def matCause (s : State) (core gk op va x : Nat) : Option Cause :=
  match leastOf (matBreaches op x) with
  | some off => some ⟨0x140, va, off⟩
  | none => (slotsRefused s core gk (matSlots op x)).or (matRange op x)

/-- A descriptor of an mattn (R307 step 4). -/
def attnDesc (a : Act) (va x addr : Nat) (go : Act → Desc → State) : State :=
  a.readDesc addr fun a d =>
    if d.vkind != 0 then a.raise (descCause addr 0x29)
    else if d.ext.getD 0 0 != 16 * matNT x then a.raise ⟨0x140, va, 5⟩
    else go a d

/-- A handle of an mattn, which must map every token (R307 step 4, R347): its snapshot. -/
def attnHandle (s : State) (w : Who) (x h : Nat) (d : Desc) : Except Stop (State × List Nat) :=
  match getRec s w h with
  | .error e => .error e
  | .ok (r, s) =>
    if r.dt != matNT x || r.fmt != d.fmt || r.len < matX3 x + matX4 x || 64 * pagesIn r.exts < matX3 x + matX4 x then
      .error (badHandle h)
    else .ok (kvSnapshot s w.ctx r)

/-- Accept a matrix operation. -/
def Act.acceptMat (a : Act) (s : State) (op va x count : Nat) (ds : List Desc) (snaps : List (List Nat)) : State :=
  a.advance (acceptOp (a.retire s []) a.gk 2 [a.lead] count 0 (.mat op va x ds snaps []))

/-- The token tiles of an mattn (R311). -/
def attnTiles (x : Nat) : Nat := (matX3 x + matX4 x - 1) / 16 - matX3 x / 16 + 1

/-- The issue of a matrix operation (R306, R307). -/
def Act.matIssue (a : Act) (op : Nat) (aa : BitVec 5) : State :=
  let va := (a.a aa.toNat a.lead).toNat
  a.localRead va 64 64 fun bs =>
    let x := natOfBytes bs
    if 63 ≤ a.g.count 2 then a.wait a.s (.engine 2)
    else match matCause a.s a.g.core a.gk op va x with
      | some c => a.raise c
      | none =>
        if op != 3 then a.acceptMat a.s op va x 1 [] []
        else attnDesc a va x (matD1 x) fun a kd => attnDesc a va x (bitsOf x 511 448) fun a vd =>
          let both : Except Stop (State × List (List Nat)) := do
            let (s, ks) ← attnHandle a.s a.g.who x (matX1 x) kd
            let (s, vs) ← attnHandle s a.g.who x (matX2 x) vd
            .ok (s, [ks, vs])
          match both with
          | .ok (s, snaps) => a.acceptMat s op va x (attnTiles x) [kd, vd] snaps
          | .error (.cause c) => a.raise c
          | .error (.replay code va kind) =>
            let r := reportPages a.s a.g a.st kind (a.lanes.map fun l => (l, code, va))
            a.wait r.1 (.faults r.2)

/-- MMA (R306, R307). -/
def execMma (f : XaOps) (s : State) : Host.Outcome State Fault Refusal := runWord (.mma f) s fun a => a.matIssue 0 f.aa

/-- MDIST (R306, R307). -/
def execMdist (f : XaOps) (s : State) : Host.Outcome State Fault Refusal := runWord (.mdist f) s fun a => a.matIssue 1 f.aa

/-- MTOPK (R306, R307). -/
def execMtopk (f : XaOps) (s : State) : Host.Outcome State Fault Refusal := runWord (.mtopk f) s fun a => a.matIssue 2 f.aa

/-- MATTN (R306, R307). -/
def execMattn (f : XaOps) (s : State) : Host.Outcome State Fault Refusal := runWord (.mattn f) s fun a => a.matIssue 3 f.aa

/-! ### Values -/

/-- The value of FP32 bits, read through FIN under FZ (R308). A NaN is quiet. -/
def engineV (fz : Bool) (b : Nat) : FVal :=
  match decodeF fmt32 (flushIn fmt32 fz b) with
  | .nan _ => .nan false
  | v => v

/-- A value rounded to FP32 under RNE, with FOUT under FZ (R309). -/
def engineR (fz : Bool) (v : FVal) (flags : Word) : FRes := packF fmt32 ⟨.rne, false, fz⟩ v flags

/-- The 256 values of a slot and their flags; a slot that is not filled reads as zeros (R305, R308). -/
def slotValues (x : Slot) (fz : Bool) : List FVal × Word :=
  match x.state, x.tile with
  | 2, some t =>
    let rs := (upTo 256).map (t.value fz)
    (rs.map fun r => engineV fz r.bits, rs.foldl (fun f r => f ||| r.flags) 0#32)
  | _, _ => (List.replicate 256 (.fin false 0 0), 0#32)

/-- The values of a run of slots. -/
def slotsValues (s : State) (core first n : Nat) (fz : Bool) : List (List FVal) × Word :=
  let xs := (upTo n).map fun i => slotValues (slotOf s core (first + i)) fz
  (xs.map (·.1), xs.foldl (fun f x => f ||| x.2) 0#32)

/-- Element `e` of tile `t` of some values. -/
def valueAt (xs : List (List FVal)) (t e : Nat) : FVal := (xs.getD t []).getD e (.fin false 0 0)

/-- Element (row, column) of a matrix of 16 × 16 tiles, `w` tiles a row, its tiles transposed or not (R308). -/
def matrixAt (xs : List (List FVal)) (w : Nat) (transposed : Bool) (r c : Nat) : FVal :=
  valueAt xs (r / 16 * w + c / 16) (if transposed then 16 * (c % 16) + r % 16 else 16 * (r % 16) + c % 16)

/-- One accumulator tile of a core (R198). -/
def accOf (s : State) (core t : Nat) : AccTile := SMap.get {} (s.core core).acc t

/-- Change an accumulator tile. -/
def setAccTile (s : State) (core t : Nat) (f : AccTile → AccTile) : State :=
  s.setCore core fun c => { c with acc := SMap.put {} c.acc t (f (SMap.get {} c.acc t)) }

/-- The bits of MSTAT that flags set: OF and NV (R287, R316). -/
def mstatOf (flags : Word) : BitVec 5 :=
  (if flags &&& flagOF = 0#32 then 0#5 else 1#5) ||| (if flags &&& flagNV = 0#32 then 0#5 else 2#5)

/-- An engine operation's flags reach its group: MSTAT, and ZS in the elected thread's fmode (R308, R316). -/
def matFlags (s : State) (gk : Nat) (o : Op) (flags : Word) (bits : BitVec 5) : State :=
  s.setGroup gk fun g =>
    { g with mstat := g.mstat ||| mstatOf flags ||| bits }.setThread o.lane fun t =>
      { t with fmode := t.fmode ||| (flags &&& flagZS) }

/-- A matrix operation ends, and its snapshots with it (R349). -/
def matEnd (s : State) (gk : Nat) (o : Op) (failed : Option Cause) : State :=
  let c := ((s.group? gk).map (·.ctx)).getD 0
  let s := match o.kind with
    | .mat _ _ _ _ snaps _ => snaps.foldl (fun s ks => kvRelease s c ks) s
    | _ => s
  endOp s gk o.id failed

/-- A matrix operation cannot go on: it fails, or waits for a translation (R167, R168). -/
def matStop (s : State) (gk : Nat) (g : Group) (o : Op) (e : Stop) : State :=
  match e with
  | .cause c => if fatalCode c.code then opFatal s g o c else matEnd s gk o (some c)
  | .replay code va kind => opFault s gk g o code va kind

/-! ### Proof sampling -/

/-- The quotient of two finite values, its last bit sticky: it rounds as the exact quotient does. The divisor is not zero. -/
def divFin (na : Bool) (ma : Nat) (ea : Int) (nb : Bool) (mb : Nat) (eb : Int) : FVal :=
  let k := Nat.log2 mb + 256
  let q := ma * 2 ^ k / mb
  .fin (na != nb) (2 * q + (if ma * 2 ^ k % mb = 0 then 0 else 1)) (ea - eb - k - 1)

/-- The quotient of two values and NV. -/
def divV (a b : FVal) : FVal × Word :=
  match a, b with
  | .nan s, _ => (.nan s, 0#32)
  | _, .nan s => (.nan s, 0#32)
  | .inf _, .inf _ => (.nan false, flagNV)
  | .inf x, .fin y _ _ => (.inf (x != y), 0#32)
  | .fin x _ _, .inf y => (.fin (x != y) 0 0, 0#32)
  | .fin x m e, .fin y n f =>
    if n = 0 then (if m = 0 then (.nan false, flagNV) else (.inf (x != y), 0#32)) else (divFin x m e y n f, 0#32)

/-- The magnitude of a value. -/
def absV : FVal → FVal
  | .nan s => .nan s
  | .inf _ => .inf false
  | .fin _ m e => .fin false m e

/-- The absolute deviation of an engine result from its reference, exact: infinite where exactly one is NaN, or where they
differ and one is infinite (R64). -/
def deviation (e r : Nat) : FVal :=
  let a := engineV false e
  let b := engineV false r
  if a.isNan && b.isNan then .fin false 0 0
  else if a.isNan || b.isNan then .inf false
  else if cmpV a b = 0 then .fin false 0 0
  else absV (addV .rne a b.negate).1

/-- The relative deviation (R64); none where the reference is zero. -/
def relative (e r : Nat) : Option FVal :=
  match deviation e r, engineV false r with
  | d, .fin _ m f => if m = 0 then none else some (divV d (.fin false m f)).1
  | .fin .., .inf _ => some (.fin false 0 0)
  | .inf x, .inf _ => some (.inf x)
  | .nan _, .inf _ => some (.inf false)
  | d, .nan _ => some d

/-- A deviation rounded up to FP32 (R377). -/
def roundUp (v : FVal) : Nat := (packF fmt32 ⟨.rup, false, false⟩ v 0#32).bits

/-- The PROOF_SAMPLE record of a 16 × 16 tile: engine and reference results by row and column (R377). -/
def proofRecord (s : State) (g : Group) (o : Op) (op ac tr tc count : Nat) (eng ref : Nat → Nat → Nat) : Rec :=
  let at_ := (upTo 256).map fun n => (n / 16, n % 16)
  let dev := fun (p : Nat × Nat) => deviation (eng p.1 p.2) (ref p.1 p.2)
  let worst := at_.foldl (fun b p => if cmpV (dev b) (dev p) < 0 then p else b) (0, 0)
  let rel := at_.foldl (fun m p => match relative (eng p.1 p.2) (ref p.1 p.2) with
    | some d => if cmpV m d < 0 then d else m
    | none => m) (.fin false 0 0)
  let nan := at_.any fun p => (engineV false (eng p.1 p.2)).isNan != (engineV false (ref p.1 p.2)).isNan
  mkRec 0x20 0 o.core
    [g.gid % 2 ^ 32 + (4 + op) * 2 ^ 32 + ac * 2 ^ 36 + (if nan then 2 ^ 39 else 0) + tr * 2 ^ 40 + tc * 2 ^ 43,
     o.seq % 2 ^ 32 + treeNumber s g * 2 ^ 32, count,
     roundUp (dev worst) + (if nan then fmt32.infBits else roundUp rel) * 2 ^ 32,
     eng worst.1 worst.2 + ref worst.1 worst.2 * 2 ^ 32,
     16 * tr + worst.1 + (16 * tc + worst.2) * 2 ^ 8, 0]

/-- Whether a record of a sampled tile of a core waits for space in its context's telemetry ring (R65). -/
def proofHeld (s : State) (core c : Nat) : Bool :=
  match s.ctx? c with
  | none => false
  | some x =>
    let r := x.ring 2
    r.held.any (fun p => p.getD 0 0 = 0x20 && p.getD 2 0 = core)
    || ((r.full || !r.held.isEmpty) && (s.core core).proofs.any fun p => p.1 = c)

/-- Count the output tiles of an operation and keep the records of those sampled (R64); the count holds while a record waits for ring
space (R65). Results are by accumulator row and column. (DEDUCED, log entry 22.) -/
def proofTiles (s : State) (g : Group) (o : Op) (op ac row0 col0 mt nt : Nat) (eng ref : Nat → Nat → Nat) : State :=
  (upTo (mt * nt)).foldl (fun s i =>
    match s.ctx? g.ctx with
    | none => s
    | some c => if proofHeld s o.core g.ctx then s else
      let n := (SMap.get 0 c.samples o.core + 1) % 2 ^ 32
      let s := s.setCtx g.ctx fun c => { c with samples := SMap.put 0 c.samples o.core n }
      if c.sampling = 0 || n % 2 ^ c.sampling != 0 then s
      else
        let tr := row0 / 16 + i / nt
        let tc := col0 / 16 + i % nt
        let r := proofRecord s g o op ac tr tc n (fun y x => eng (16 * tr + y) (16 * tc + x))
          (fun y x => ref (16 * tr + y) (16 * tc + x))
        s.setCore o.core fun c => { c with proofs := c.proofs ++ [(g.ctx, r)] }) s

/-- PROOF_SAMPLE (R64, R65): the record of the oldest sampled tile of a core goes to its context's telemetry ring, which holds it
until there is space. -/
def execProofSample (core : Nat) (s : State) : Host.Outcome State Fault Refusal :=
  .next (match (s.core core).proofs with
    | [] => s
    | (c, r) :: rest => ringEmit (s.setCore core fun x => { x with proofs := rest }) c 2 r)

/-! ### Products and distances -/

/-- The values of B under the INT4 prologue, by k × N + n, and their flags (R308); the group scale is not read through FIN (DESIGN CHOICE,
log entry 53). -/
def prologue (s : State) (w : Who) (o : Op) (va x : Nat) : Except Stop (List FVal × Word × State) :=
  let n16 := 16 * matNT x
  let one := fun (s : State) (k n : Nat) => do
    let (ent, s) ← engineNat s w (matD1 x + 4 * (k / 32 * n16 + n)) 4
    if bitsOf ent 31 20 != 0 then .error (Stop.cause ⟨0x140, va, 48⟩)
    else
      let slot := slotOf s o.core (matSB x + k / 16 * matNT x + n / 16)
      let e := if matFlag x 11 then 16 * (n % 16) + k % 16 else 16 * (k % 16) + n % 16
      match slot.state, slot.tile with
      | 2, some t =>
        let q : Int := Int.ofNat (t.elems.getD e 0 % 16) - Int.ofNat (bitsOf ent 19 16)
        let p := mulV (intV q) (match decodeF fmtBf16 (bitsOf ent 15 0) with
          | .nan _ => .nan false
          | v => v)
        let r := packF fmtBf16 ⟨.rne, false, false⟩ p.1 p.2
        .ok (engineV (matFlag x 9) (r.bits * 65536), r.flags, s)
      | _, _ => .ok (.fin false 0 0, 0#32, s)
  let rec go (s : State) (i : Nat) : Nat → Except Stop (List FVal × Word × State)
    | 0 => .ok ([], 0#32, s)
    | fuel + 1 => do
      let (v, f, s) ← one s (i / n16) (i % n16)
      let (vs, fs, s) ← go s (i + 1) fuel
      .ok (v :: vs, f ||| fs, s)
  go s 0 (16 * matKT x * n16)

/-- The cause that stops a product when it starts (R308). -/
def productCause (s : State) (core op va x : Nat) : Option Cause :=
  let fmtsOf := fun (first n : Nat) => (upTo n).filterMap fun i =>
    let sl := slotOf s core (first + i)
    if sl.state = 2 then sl.tile.map fun t => (t.fmt, t.zrule) else none
  let as_ := fmtsOf (matSA x) (matMT x * (if op ≤ 1 then matKT x else matNT x))
  let bs := if op ≤ 1 then fmtsOf (matSB x) (matKT x * matNT x) else []
  if as_.any (·.1 = 0) then some ⟨0x140, va, 7⟩
  else if bs.any (·.1 = 0) then some ⟨0x140, va, 8⟩
  else if op ≤ 1 && bs.any (fun b => (b.1 = 7 && b.2 = 2) != matFlag x 12) then some ⟨0x140, va, 1⟩
  else none

/-- The term of one k of a product or distance: exact, with NV (R60, R309). -/
def matTerm (op : Nat) (a b : FVal) : FVal × Word :=
  if op = 0 then mulV a b
  else
    let d := addV .rne a b.negate
    let p := mulV d.1 d.1
    (p.1, d.2 ||| p.2)

/-- One output: the groups of 16 terms added in ascending k to `acc` (R60, R309). -/
def matOutput (fz : Bool) (kt acc : Nat) (term : Nat → FVal × Word) : FRes :=
  (upTo kt).foldl (fun r g =>
    let y := accGroup false fz r.bits ((upTo 16).map fun j => term (16 * g + j))
    ⟨y.bits, r.flags ||| y.flags⟩) ⟨acc, 0#32⟩

/-- One output on the reference path: sequential fused multiply-adds (R64). The manual does not say whether FOUT applies to the
reference under FZ, nor what mdist's fused step takes: no step is flushed, and the exact square of the exact difference is added
(DESIGN CHOICE, log entry 50). -/
def refOutput (k acc : Nat) (term : Nat → FVal × Word) : Nat :=
  (upTo k).foldl (fun r j => (packF fmt32 ⟨.rne, false, false⟩ (addV .rne (term j).1 (engineV false r)).1 0#32).bits) acc

/-- Perform an mma or mdist (R308, R309). -/
def matProduct (s : State) (gk : Nat) (g : Group) (o : Op) (w : Who) (op va x : Nat) : State :=
  match productCause s o.core op va x with
  | some c => matStop s gk g o (.cause c)
  | none =>
    let fz := matFlag x 9
    let kt := matKT x
    let n16 := 16 * matNT x
    let a := slotsValues s o.core (matSA x) (matMT x * kt) fz
    let plain := slotsValues s o.core (matSB x) (kt * matNT x) fz
    let b : Except Stop ((Nat → Nat → FVal) × Word × State) :=
      if matFlag x 12 then (prologue s w o va x).map fun p => (fun k n => p.1.getD (k * n16 + n) (.fin false 0 0), p.2.1, p.2.2)
      else .ok (fun k n => matrixAt plain.1 (matNT x) (matFlag x 11) k n, plain.2, s)
    match b with
    | .error e => matStop s gk g o e
    | .ok (bv, bf, s) =>
      let old := accOf s o.core (matAC x)
      let start := fun (r c : Nat) => if matFlag x 8 then 0 else (SMap.get 0#32 old.elems (64 * r + c)).toNat
      let term := fun (m n k : Nat) => matTerm op (matrixAt a.1 kt (matFlag x 10) m k) (bv k n)
      let outs := (upTo (16 * matMT x)).flatMap fun m => (upTo n16).map fun n =>
        let at_ := 64 * (matRow0 x + m) + matCol0 x + n
        (at_, matOutput fz kt (start (matRow0 x + m) (matCol0 x + n)) (term m n))
      let s := setAccTile s o.core (matAC x) fun t =>
        { t with elems := outs.foldl (fun e p => SMap.put 0#32 e p.1 (BitVec.ofNat 32 p.2.bits)) t.elems }
      let s := matFlags s gk o (outs.foldl (fun f p => f ||| p.2.flags) (a.2 ||| bf)) 0#5
      let now := accOf s o.core (matAC x)
      let s := proofTiles s g o op (matAC x) (matRow0 x) (matCol0 x) (matMT x) (matNT x)
        (fun r c => (SMap.get 0#32 now.elems (64 * r + c)).toNat)
        (fun r c => refOutput (16 * kt) (start r c) (term (r - matRow0 x) (c - matCol0 x)))
      matEnd s gk o none

/-! ### Top-k -/

/-- Whether entry `a` ranks before entry `b`, each a value and an index (R310). -/
def ranksBefore (largest : Bool) (a b : Nat × Nat) : Bool :=
  let x := engineV false a.1
  let y := engineV false b.1
  if x.isNan || y.isNan then (!x.isNan && y.isNan) || (x.isNan && y.isNan && decide (a.2 < b.2))
  else
    let c := if largest then cmpV y x else cmpV x y
    c < 0 || (c = 0 && decide (a.2 < b.2))

/-- Insert an entry after those that it does not rank before. -/
def rankInsert (largest : Bool) (x : Nat × Nat) : List (Nat × Nat) → List (Nat × Nat)
  | [] => [x]
  | y :: rest => if ranksBefore largest x y then x :: y :: rest else y :: rankInsert largest x rest

/-- Perform an mtopk (R310). -/
def matTopk (s : State) (gk : Nat) (g : Group) (o : Op) (w : Who) (x : Nat) : State :=
  let bitmap : Except Stop (Nat × State) := if matD1 x = 0 then .ok (2 ^ 64 - 1, s) else engineNat s w (matD1 x) 8
  match bitmap with
  | .error e => matStop s gk g o e
  | .ok (mask, s) =>
    let largest := matFlag x 12
    let kp := matKp x
    let fill := (fmt32.infBits + (if largest then fmt32.signBit else 0), 2 ^ 32 - 1)
    let src := accOf s o.core (matAC x)
    let row := fun (st : SMap Word) (r : Nat) =>
      let base := 2 * (r * kp)
      let held := (upTo (matK x)).map fun i => if matFlag x 8 then fill else
        ((SMap.get 0#32 st (base + 2 * i)).toNat, (SMap.get 0#32 st (base + 2 * i + 1)).toNat)
      let cands := ((upTo (matCols x)).filter mask.testBit).map fun c =>
        ((SMap.get 0#32 src.elems (64 * (matRow0 x + r) + matCol0 x + c)).toNat, (matX1 x + c) % 2 ^ 32)
      let best := ((held ++ cands).foldl (fun l e => rankInsert largest e l) []).take (matK x)
      let all := best ++ List.replicate (kp - best.length) fill
      ((upTo kp).zip all).foldl (fun st p =>
        SMap.put 0#32 (SMap.put 0#32 st (base + 2 * p.1) (BitVec.ofNat 32 p.2.1)) (base + 2 * p.1 + 1)
          (BitVec.ofNat 32 p.2.2)) st
    let s := setAccTile s o.core (matOut x) fun t => { t with stats := (upTo (matRows x)).foldl row t.stats }
    matEnd s gk o none

/-! ### Attention -/

/-- The KV tiles that each token tile of an operation decodes (R311). -/
def OpKind.kvTiles : OpKind → Nat
  | .mat 3 _ x .. => 2 * matNT x
  | _ => 0

/-- Decode a tile of K or V into the staging of an attention pass: the one of dimension tile `c0` for the tokens from `tok` on, under the
entry that it binds or has bound (R219, R220, R311). -/
def stageTile (s : State) (w : Who) (d : Desc) (snap : List Nat) (dt tok c0 : Nat) (kept : Option (Nat × Option (Nat × List Nat))) :
    Except (Stop × Option (Nat × Option (Nat × List Nat)) × State) (Tile × State) :=
  let slot := 4096 * snap.getD (tok / 64) 0
  let c1 := tok % 64 / 16
  match decodeKept s w d (packCoord [c0, c1]) ⟨slot + 16 * (c0 + dt * c1), slot + 256⟩ kept with
  | .error x => .error x
  | .ok (t, b, s) => .ok (t, sampleBits s (.ofGroup 0 0) w.core w b.2 t)

/-- The values of the tiles that an attention pass has staged, by dimension tile, with their flags (R308, R311). -/
def stagedValues (ts : List Tile) (fz : Bool) : List (List FVal) × Word :=
  let vs := ts.map fun t => slotValues { state := 2, tile := some t } fz
  (vs.map (·.1), vs.foldl (fun f v => f ||| v.2) 0#32)

/-- What one row of an attention pass becomes: outputs, maximum, sum, row flags, and the reference outputs. -/
structure RowState where
  o     : List Nat
  max   : Nat
  sum   : Nat
  flags : Nat
  ref   : List Nat
  deriving DecidableEq, Repr

/-- Round a sum of two values. -/
def sumR (fz : Bool) (a b : FVal) : FRes := (fun r => engineR fz r.1 r.2) (addV .rne a b)

/-- Round a product of two values. -/
def mulR (fz : Bool) (a b : FVal) : FRes := (fun r => engineR fz r.1 r.2) (mulV a b)

/-- The score of a row and a token (R311): none where it is masked. -/
def attnScore (fz : Bool) (dt x5 : Nat) (q k : Nat → FVal) : FRes :=
  let grp := fun (g : Nat) => (upTo 16).map fun j => mulV (q (16 * g + j)) (k (16 * g + j))
  let g := if dt = 1 then groupSum fz (grp 0)
    else (upTo dt).foldl (fun r i =>
      let y := accGroup false fz r.bits (grp i)
      (⟨y.bits, r.flags ||| y.flags⟩ : FRes)) ⟨0, 0#32⟩
  let r := mulR fz (engineV fz g.bits) (engineV fz x5)
  ⟨r.bits, g.flags ||| r.flags⟩

/-- fexp2 of a rounded difference (R62, R312). -/
def attnExp (fz : Bool) (a b : FVal) : FRes :=
  let d := sumR fz a b.negate
  let e := exp2F ⟨.rne, fz, fz⟩ d.bits
  ⟨e.bits, (d.flags ||| e.flags) &&& (flagOF ||| flagNV)⟩

/-- One row's update by a token tile (R312): its scores, the values v[t][j], the row; the row, its flags, and MSTAT bits. The manual
does not say how mattn's reference path reaches an output (R64): it shares the engine's scores, maximum, fexp2 factors and sum, and
only the sums over v are recomputed, by sequential fused adds (DESIGN CHOICE, log entry 50). -/
def attnRow (fz : Bool) (scores : List FRes) (v : Nat → Nat → FVal) (r : RowState) : RowState × Word × BitVec 5 :=
  let ss := scores.map fun x => engineV fz x.bits
  let sflags := scores.foldl (fun f x => f ||| x.flags) 0#32
  let nan := fmt32.nanBits
  if ss.any FVal.isNan then
    ({ r with o := r.o.map fun _ => nan, max := nan, sum := nan, flags := r.flags ||| 1, ref := r.ref.map fun _ => nan },
      sflags, 4#5)
  else
    let inf := ss.any (· == .inf false)
    let mx := engineV fz r.max
    let mn := ss.foldl (fun m x => if cmpV m x < 0 then x else m) mx
    let one : FRes := ⟨0x3F800000, 0#32⟩
    let f := if cmpV mx mn = 0 then one else if mx = .inf true then ⟨0, 0#32⟩ else attnExp fz mx mn
    let ps := ss.map fun x =>
      if x = .inf false && mn = .inf false then one
      else if x = .inf true || mn = .inf false then ⟨0, 0#32⟩ else attnExp fz x mn
    let fv := engineV fz f.bits
    let pv := ps.map fun p => engineV fz p.bits
    let part := groupSum fz (pv.map fun p => (p, 0#32))
    let scaled := mulR fz (engineV fz r.sum) fv
    let sum := sumR fz (engineV fz scaled.bits) (engineV fz part.bits)
    let outs := (upTo r.o.length).map fun j =>
      let a := mulR fz (engineV fz (r.o.getD j 0)) fv
      let b := groupSum fz ((upTo 16).map fun t => mulV (pv.getD t (.fin false 0 0)) (v t j))
      let c := sumR fz (engineV fz a.bits) (engineV fz b.bits)
      (⟨c.bits, a.flags ||| b.flags ||| c.flags⟩ : FRes)
    let refs := (upTo r.ref.length).map fun j =>
      (upTo 16).foldl (fun acc t =>
        (packF fmt32 ⟨.rne, false, false⟩
          (addV .rne (mulV (pv.getD t (.fin false 0 0)) (v t j)).1 (engineV false acc)).1 0#32).bits)
        (mulR false (engineV false (r.ref.getD j 0)) fv).bits
    let newMax := match mn with
      | .fin .. => (engineR false mn 0#32).bits
      | _ => if mn = .inf false then fmt32.infBits else fmt32.infBits + fmt32.signBit
    let flags := ps.foldl (fun f p => f ||| p.flags) (sflags ||| f.flags ||| part.flags ||| scaled.flags ||| sum.flags)
    ({ o := outs.map (·.bits), max := newMax, sum := sum.bits, flags := if inf then r.flags ||| 4 else r.flags, ref := refs },
      outs.foldl (fun f x => f ||| x.flags) flags, if inf then 16#5 else 0#5)

/-- One row finished under P (R313). -/
def attnFinish (fz : Bool) (r : RowState) : RowState × Word × BitVec 5 :=
  if r.flags.testBit 0 then (r, 0#32, 0#5)
  else
    let s := engineV fz r.sum
    if cmpV s (.fin false 0 0) = 0 && !s.isNan then
      ({ r with o := r.o.map fun _ => 0, flags := r.flags ||| 2, ref := r.ref.map fun _ => 0 }, 0#32, 8#5)
    else
      let div := fun (fz : Bool) (b : Nat) => (fun q => engineR fz q.1 q.2) (divV (engineV fz b) s)
      let qs := r.o.map (div fz)
      ({ r with o := qs.map (·.bits), ref := r.ref.map fun b => (div false b).bits },
        qs.foldl (fun f q => f ||| q.flags) 0#32, 0#5)

/-- The state of row `m` of an attention pass as the accumulator holds it (R198, R311). -/
def readRow (t : AccTile) (x : Nat) (ref : SMap Word) (m : Nat) : RowState :=
  let row := matRow0 x + m
  let stat := fun i => (SMap.get 0#32 t.stats (8 * row + i)).toNat
  let d := 16 * matNT x
  { o := (upTo d).map fun j => (SMap.get 0#32 t.elems (64 * row + matCol0 x + j)).toNat,
    max := stat 0, sum := stat 1, flags := stat 2 % 8,
    ref := (upTo d).map fun j => (SMap.get 0#32 ref (d * m + j)).toNat }

/-- Write row `m` back, the reserved bytes of its record zero (R198). -/
def writeRow (x m : Nat) (r : RowState) (t : AccTile) : AccTile :=
  let row := matRow0 x + m
  { t with
    elems := ((upTo r.o.length).zip r.o).foldl (fun e p =>
      SMap.put 0#32 e (64 * row + matCol0 x + p.1) (BitVec.ofNat 32 p.2)) t.elems,
    stats := [(0, r.max), (1, r.sum), (2, r.flags), (3, 0), (4, 0), (5, 0), (6, 0), (7, 0)].foldl (fun e p =>
      SMap.put 0#32 e (8 * row + p.1) (BitVec.ofNat 32 p.2)) t.stats }

/-- Rows changed by `f` in turn, with the flags and the MSTAT bits they set. -/
def eachRow (x : Nat) (f : Nat → RowState → RowState × Word × BitVec 5) (t : AccTile) (ref : SMap Word) :
    AccTile × SMap Word × Word × BitVec 5 :=
  let d := 16 * matNT x
  (upTo (16 * matMT x)).foldl (fun (a : AccTile × SMap Word × Word × BitVec 5) m =>
    let r := f m (readRow a.1 x a.2.1 m)
    (writeRow x m r.1 a.1,
      ((upTo d).zip r.1.ref).foldl (fun e p => SMap.put 0#32 e (d * m + p.1) (BitVec.ofNat 32 p.2)) a.2.1,
      a.2.2.1 ||| r.2.1, a.2.2.2 ||| r.2.2)) (t, ref, 0#32, 0#5)

/-- The reference outputs and the row states before the first tile: under Z they are set afresh (R312). -/
def attnStart (s : State) (o : Op) (x : Nat) : AccTile × SMap Word :=
  let t := accOf s o.core (matAC x)
  let r := eachRow x (fun _ r =>
    (if matFlag x 8 then
      { o := r.o.map fun _ => 0, max := fmt32.infBits + fmt32.signBit, sum := 0, flags := 0, ref := r.o.map fun _ => 0 }
    else { r with ref := r.o }, 0#32, 0#5)) t []
  (r.1, r.2.1)

/-- The rows after one token tile (R311, R312). -/
def attnTile (fz : Bool) (x tile : Nat) (q k v : List (List FVal)) (t : AccTile) (ref : SMap Word) :
    AccTile × SMap Word × Word × BitVec 5 :=
  let dt := matNT x
  eachRow x (fun m r =>
    if r.flags.testBit 0 then (r, 0#32, 0#5)
    else
      let scores := (upTo 16).map fun i =>
        let tok := 16 * tile + i
        if tok < matX3 x || matX3 x + matX4 x ≤ tok
            || (matFlag x 13 && decide (matX6 x + m / 2 ^ matShift x < tok)) then
          (⟨fmt32.infBits + fmt32.signBit, 0#32⟩ : FRes)
        else attnScore fz dt (matX5 x) (fun j => matrixAt q dt false m j) (fun j => valueAt k (j / 16) (16 * i + j % 16))
      attnRow fz scores (fun i j => valueAt v (j / 16) (16 * i + j % 16)) r) t ref

/-- Whether a tload that arrived before an operation waits for the operand-memory port of its core (R15). -/
def portFirst (s : State) (o : Op) : Bool := (firstOp s o.core (portTakes s 0)).any fun x => x.2.before o

/-- Apply one token tile, whose K and V tiles have been decoded, to every row of an attention pass, and finish the pass with the last
(R311 to R313). -/
def attendTile (s : State) (gk : Nat) (g : Group) (o : Op) (va x : Nat) (kd vd : Desc) (ks vs : List Nat) (b : AccTile × SMap Word)
    (staged : List Tile) : State :=
  let fz := matFlag x 9
  let dt := matNT x
  let k := stagedValues (staged.take dt) fz
  let v := stagedValues (staged.drop dt) fz
  let q := slotsValues s o.core (matSA x) (matMT x * dt) fz
  let r := attnTile fz x (matX3 x / 16 + o.next) q.1 k.1 v.1 b.1 b.2
  let last := o.next + 1 = o.count
  let e := if last && matFlag x 12 then eachRow x (fun _ r => attnFinish fz r) r.1 r.2.1 else (r.1, r.2.1, 0#32, 0#5)
  let s := setAccTile s o.core (matAC x) fun _ => e.1
  let s := matFlags s gk o (q.2 ||| (k.2 ||| v.2) ||| r.2.2.1 ||| e.2.2.1) (r.2.2.2 ||| e.2.2.2)
  let s := s.setGroup gk fun g => g.setOp o.id fun o =>
    { o with stall := .passed, next := o.next + 1, entry := none, staged := [], kind := .mat 3 va x [kd, vd] [ks, vs] e.2.1 }
  if !last then s
  else
    let s := proofTiles s g o 3 (matAC x) (matRow0 x) (matCol0 x) (matMT x) dt
      (fun y c => (SMap.get 0#32 e.1.elems (64 * y + c)).toNat)
      (fun y c => (SMap.get 0#32 e.2.1 (16 * dt * (y - matRow0 x) + (c - matCol0 x))).toNat)
    matEnd s gk o none

/-- An attention pass decodes the next of its KV tiles, K before V and the dimension tiles in ascending order, and with the last of a token
tile applies it (R15, R311). Where a fault holds the decode of a tile up, those before it stay staged, and it its binding (R168, R219). -/
def matAttend (s : State) (gk : Nat) (g : Group) (o : Op) (w : Who) (va x : Nat) (kd vd : Desc) (ks vs : List Nat)
    (ref : SMap Word) : State :=
  match productCause s o.core 3 va x with
  | some c => matStop s gk g o (.cause c)
  | none =>
   if portFirst s o then s
   else
    let dt := matNT x
    let n := o.staged.length
    let first := o.next = 0 && n = 0
    let b := if first then attnStart s o x else (accOf s o.core (matAC x), ref)
    let s := if first then setAccTile s o.core (matAC x) fun _ => b.1 else s
    let mark := fun (s : State) (f : Op → Op) => s.setGroup gk fun g => g.setOp o.id fun o =>
      f { o with stall := .passed, kind := .mat 3 va x [kd, vd] [ks, vs] b.2 }
    match stageTile s w (if n < dt then kd else vd) (if n < dt then ks else vs) dt (16 * (matX3 x / 16 + o.next)) (n % dt) o.entry with
    | .error (e, kept, s) => matStop (mark s fun o => { o with entry := kept }) gk g o e
    | .ok (t, s) =>
      if n + 1 < 2 * dt then mark s fun o => { o with entry := none, staged := o.staged ++ [t] }
      else attendTile s gk g o va x kd vd ks vs b (o.staged ++ [t])

/-! ### Engine order -/

/-- Whether a matrix operation reads a slot or an accumulator tile that holds an uncorrectable error (R189). -/
def Op.meetsError (s : State) (o : Op) : Bool :=
  match o.kind with
  | .mat op _ x .. => o.slots.any (fun k => (slotOf s o.core k).bad)
    || ((accOf s o.core (matAC x)).bad && !(op ≤ 1 && matFlag x 8))
    || (op = 2 && (accOf s o.core (matOut x)).bad && !matFlag x 8)
  | _ => false

/-- The matrix engine of a core takes an operation of the kinds that pass a test; one that reads an uncorrectable error fails
(R189). -/
def withMat (s : State) (core : Nat) (ok : OpKind → Bool) (go : Nat → Group → Op → Who → State) : State :=
  match nextOp s core fun r o => matReady s r o && ok o.kind with
  | some (.ofGroup gk _, o, w) => match s.group? gk with
    | some g => if o.meetsError s then matStop s gk g o (.cause ⟨0x0A2, 0, 0⟩) else go gk g o w
    | none => s
  | _ => s

/-- MATRIX_PRODUCT_EXECUTE (R309). -/
def execMatrixProductExecute (core : Nat) (s : State) : Host.Outcome State Fault Refusal :=
  .next (withMat s core (fun k => k.matOp = some 0 || k.matOp = some 1) fun gk g o w => match o.kind with
    | .mat op va x .. => matProduct s gk g o w op va x
    | _ => s)

/-- TOPK_EXECUTE (R310). -/
def execTopkExecute (core : Nat) (s : State) : Host.Outcome State Fault Refusal :=
  .next (withMat s core (fun k => k.matOp = some 2) fun gk g o w => match o.kind with
    | .mat _ _ x .. => matTopk s gk g o w x
    | _ => s)

/-- One token tile of an attention pass (R312). -/
def attendStep (s : State) (core : Nat) : State :=
  withMat s core (fun k => k.matOp = some 3) fun gk g o w => match o.kind with
    | .mat _ va x [kd, vd] [ks, vs] ref => matAttend s gk g o w va x kd vd ks vs ref
    | _ => s

/-- ATTENTION_EXECUTE (R312): one token tile of an attention pass. -/
def execAttentionExecute (core : Nat) (s : State) : Host.Outcome State Fault Refusal := .next (attendStep s core)

/-! ### macz and macrd -/

/-- MACZ (R314). -/
def execMacz (f : MaczOps) (s : State) : Host.Outcome State Fault Refusal :=
  runWord (.macz f) s fun a =>
    let before := (a.g.ops.filter fun o => o.cls = 2 && !o.ended).map (·.id)
    let waited := match a.iss.entry.block with
      | .opsEnd _ => true
      | _ => false
    if (!before.isEmpty && !waited) || matBegun a.s a.g.core then a.wait a.s (.opsEnd before)
    else a.advance (setAccTile (a.retire a.s []) a.g.core f.tile.toNat fun _ => {})

/-- The place that macrd reads for register `i` of lane `l`: whether it lies in the row statistics, and its index; none where it is
outside its area (R315). -/
def macrdPlace (mode row col kp nr i l : Nat) : Option (Bool × Nat) :=
  match mode with
  | 0 => if row + l ≤ 127 && col + nr ≤ 64 then some (false, 64 * (row + l) + col + i) else none
  | 1 => if row + l ≤ 127 && col + nr ≤ 8 then some (true, 8 * (row + l) + col + i) else none
  | _ =>
    let e := (row + l) * 2 ^ kp + col + i / 2
    if e ≤ 511 then some (true, 2 * e + i % 2) else none

/-- MACRD (R110, R315): its destinations are empty until the engine performs it. -/
def execMacrd (f : MacrdOps) (s : State) : Host.Outcome State Fault Refusal :=
  runWord (.macrd f) s fun a =>
    let x := (a.a f.aa.toNat a.lead).toNat
    let mode := f.mode.toNat
    let row := bitsOf x 6 0
    let col := bitsOf x 13 8
    let kp := bitsOf x 18 16
    let nr := runLen f.w
    let spare := bitOf x 7 || bitsOf x 15 14 != 0 || 2 ^ 19 ≤ x || (mode != 2 && kp != 0)
    let bad := a.lanes.any fun l => (upTo nr).any fun i => (macrdPlace mode row col kp nr i l).isNone
    if 63 ≤ a.g.count 2 then a.wait a.s (.engine 2)
    else if spare || bad then a.raise ⟨0x143, f.tile.toNat, row⟩
    else
      let s := acceptOp (a.retire a.s []) a.gk 2 [a.lead] 1 0
        (.macrd a.lanes f.vd.toNat nr f.tile.toNat mode row col kp)
      a.advance (s.setGroup a.gk fun g => g.setEmpty ((upTo nr).flatMap fun i => a.lanes.map (vCode (f.vd.toNat + i))))

/-- ACCUMULATOR_READ (R315). A macrd of a tile with an uncorrectable error fails, and its registers take free values (R189,
log entry 2). -/
def execAccumulatorRead (core : Nat) (s : State) : Host.Outcome State Fault Refusal :=
  .next (withMat s core (fun k => match k with
      | .macrd .. => true
      | _ => false) fun gk _ o _ => match o.kind with
    | .macrd members d n tile mode row col kp =>
      let t := accOf s core tile
      let word := fun (l i : Nat) => if t.bad then (Config.freeWord s.free (64 * i + l)).truncate 32
        else match macrdPlace mode row col kp n i l with
        | some (true, k) => SMap.get 0#32 t.stats k
        | some (false, k) => SMap.get 0#32 t.elems k
        | none => 0#32
      let ws := members.flatMap fun l => (upTo n).map fun i => (vCode (d + i) l, (word l i).zeroExtend 64)
      let s := if t.bad then { s with free := s.free + 1 } else s
      syncImage (deliverAll (endOp s gk o.id (if t.bad then some ⟨0x0A2, 0, 0⟩ else none)) gk ws) gk (ws.map (·.1))
    | _ => s)

end Sys2Proof.Machine
end

