-- ==== Sys2Proof/Machine/Segments.lean ====
section
/-! DEFINITION. Starter segments: the directory, the segment instructions (R226, R231, R278 to R280), drops (R228), moves between a
core and the backing area or another core (R229, R433). -/

namespace Sys2Proof.Machine

open Sys2Proof

/-! ### The directory -/

/-- The place of no core (R225 shows it as 0xFF). -/
def noCore : Nat := 0xFFFF

/-- Change a directory entry. -/
def State.setSeg (s : State) (c k : Nat) (f : Segment → Segment) : State :=
  s.setCtx c fun x => { x with segments := SMap.modify x.segments k f }

/-- A directory entry as the host reads it in a save area, 32 bytes, from its reserved and state bits up (R225): the core is shown where
the banks of a segment that is RESIDENT, EVICTING or RESTORING lie, or are to lie. More than 255 attachments show as 255 (DESIGN CHOICE, log
entry 53). -/
def Segment.entry (x : Segment) : List Byte :=
  let core := if x.state = 2 || x.state = 4 then 0xFF else if x.core = noCore then x.target else x.core
  let first := if x.state = 3 && x.core = noCore then x.targetFirst else x.first
  bytesOfNat (x.state + x.cls * 2 ^ 4 + x.banks * 2 ^ 46 + first * 2 ^ 51 + core % 256 * 2 ^ 56
    + min x.attachments 255 * 2 ^ 64 + x.tree % 2 ^ 32 * 2 ^ 96 + x.name % 2 ^ 64 * 2 ^ 128 + x.backing * 2 ^ 192) 32

/-- The banks of a segment on a core. -/
def Segment.bankList (x : Segment) : List Nat := (upTo x.banks).map (x.first + ·)

/-- Zero banks of a core. -/
def zeroBanks (s : State) (core : Nat) (bs : List Nat) : State := bs.foldl (fun s b => lsZeroBank s core b) s

/-- Free a directory entry: its banks are zeroed and freed (R229). -/
def freeSegment (s : State) (c k : Nat) : State :=
  match s.seg? c k with
  | none => s
  | some x =>
    let s := if x.state = 2 || x.core = noCore then s else zeroBanks s x.core x.bankList
    s.setCtx c fun y => { y with segments := SMap.erase y.segments k }

/-- Drop a segment (R228, R229): at once, or when the move in progress finishes. -/
def dropSegment (s : State) (c k : Nat) : State :=
  match s.seg? c k with
  | none => s
  | some x =>
    if x.state = 1 || x.state = 3 then s.setSeg c k fun x => { x with dropAfter := true }
    else if x.attachments = 0 then freeSegment s c k
    else s.setSeg c k fun x => { x with state := 4 }

/-- A tree is complete: the TREE segments it made are dropped (R228). -/
def dropTreeSegments (s : State) (c number : Nat) : State :=
  match s.ctx? c with
  | none => s
  | some x => (x.segments.filter fun p => p.2.cls = 0 && p.2.tree = number).foldl (fun s p => dropSegment s c p.1) s

/-- The 32 bytes of entry `n` of a context's segment directory as the host reads them: a free entry reads zero in every field (R225). -/
def directoryEntry (s : State) (c n : Nat) : List Byte :=
  match s.seg? c n with
  | some x => x.entry
  | none => List.replicate 32 0#8

/-- The segment directory of a context as the host reads it: its 256 entries in order (R225). -/
def directoryImage (s : State) (c : Nat) : List Byte := (upTo 256).flatMap (directoryEntry s c)

/-- A group attaches a directory entry (R231). -/
def attachSegment (s : State) (gk c k : Nat) : State :=
  match s.group? gk with
  | none => s
  | some g =>
    if g.attach.contains k then s
    else (s.setGroup gk fun g => { g with attach := g.attach ++ [k] }).setSeg c k fun x =>
      { x with attachments := x.attachments + 1 }

/-- A group detaches a directory entry (R231); a DROPPED one that nothing attaches is freed (R229). -/
def detachSegment (s : State) (gk c k : Nat) : State :=
  match s.group? gk, s.seg? c k with
  | some g, some x =>
    if !g.attach.contains k then s
    else
      let s := (s.setGroup gk fun g => { g with attach := g.attach.filter (· != k) }).setSeg c k fun x =>
        { x with attachments := x.attachments - 1, stamp := s.stamp }
      let s := { s with stamp := s.stamp + 1 }
      if x.state = 4 && x.attachments = 1 then freeSegment s c k else s
  | _, _ => s

/-! ### Moves -/

/-- Begin a restore or a move of a segment to a core (R229): true where banks are free. -/
def beginMove (s : State) (c k core : Nat) (mover : Option Nat) : Bool × State :=
  match s.seg? c k with
  | none => (false, s)
  | some x => match scrRun s (fun _ => false) core x.banks with
    | none => (false, s)
    | some b => (true, s.setSeg c k fun x => { x with state := 3, target := core, targetFirst := b, mover := mover })

/-- The segment that the scheduler evicts first from a core: TREE before CONTEXT, then the one without attachments for longest
(R233): its context and place. -/
def evictionVictim (s : State) (core : Nat) : Option (Nat × Nat × Segment) :=
  let all := s.ctxs.flatMap fun c => (c.2.segments.filter fun p => p.2.evictable core).map fun p => (c.1, p.1, p.2)
  all.foldl (fun best p => match best with
    | none => some p
    | some b => if p.2.2.cls < b.2.2.cls || (p.2.2.cls = b.2.2.cls && p.2.2.stamp < b.2.2.stamp) then some p else some b) none

/-- The bytes of a segment's banks on a core. -/
def bankBytes (s : State) (core first n : Nat) : List Byte := lsRead s core (first * 65536) (n * 65536)

/-- A move cannot reach the backing area: it waits for the answer to a translation fault, or its context ends with
SAVE_AREA_FAULT (R433). -/
def moveStop (s : State) (c k : Nat) (x : Segment) (e : Stop) : State :=
  match e with
  | .cause f => contextFatal s c (areaCause 2 f) {}
  | .replay code va kind =>
    let site : FaultSite := match x.mover.bind s.group? with
      | some g => groupSite s g 0 4
      | none => { core := if x.core = noCore then x.target else x.core, strand := 4 }
    let r := reportFault s c code va kind site
    r.1.setSeg c k fun x => { x with faultIds := [r.2] }

/-- A segment has come to a core: the teams of its context that are being placed on the core's pair have it placed, and do not bring it
there again should another placement evict it (R232 steps 3 and 4). -/
def markPlaced (s : State) (c : Nat) (x : Segment) : State :=
  let mine := fun (t : Team) => t.placing && t.core.any (· / 2 = x.core / 2) && t.groups.any fun k => (s.group? k).any (·.ctx = c)
  { s with teams := s.teams.map fun p =>
      (p.1, if mine p.2 then { p.2 with names := p.2.names.filter (· != x.name) } else p.2) }

/-- A move has ended with the segment in a new state; one that was dropped meanwhile is dropped now (R229). -/
def endMove (s : State) (c k : Nat) (f : Segment → Segment) : State :=
  let s := s.setSeg c k fun x => { f x with faultIds := [], mover := none }
  match s.seg? c k with
  | some x =>
    let s := if x.state = 0 then markPlaced s c x else s
    if x.dropAfter then dropSegment (s.setSeg c k fun x => { x with dropAfter := false }) c k else s
  | none => s

/-- SEGMENT_EVICTION_COMPLETE (R229): every byte reaches the backing area; the banks are zeroed and freed. -/
def execSegmentEvictionComplete (c k : Nat) (s : State) : Host.Outcome State Fault Refusal :=
  .next (match s.seg? c k with
    | none => s
    | some x =>
      if x.state != 1 || !x.faultIds.isEmpty || !ctxRuns s c then s
      else
        let s := settleBanks s x.core x.first x.banks
        if !ctxRuns s c then s
        else match areaWrite s c x.backing (bankBytes s x.core x.first x.banks) with
          | .error e => moveStop s c k x e
          | .ok s => endMove (zeroBanks s x.core x.bankList) c k fun x => { x with state := 2, core := noCore })

/-- Put the bytes of a segment into its target banks. -/
def landSegment (s : State) (x : Segment) (bs : List Byte) : State :=
  lsWrite (zeroBanks s x.target ((upTo x.banks).map (x.targetFirst + ·))) x.target (x.targetFirst * 65536) bs

/-- The segatt with the pull modifier that an entry waits in. -/
def pullOf (s : State) (g : Group) (name : Nat) (e : Entry) : Option SegattOps :=
  if e.block != .segment name then none
  else match (fetchWord s g e.pc).2 with
    | .word w => match decodeOp w with
      | some (.segatt f) => if f.pull then some f else none
      | _ => none
    | _ => none

/-- The base of a segment in the windows of a group (R191, R279). -/
def Group.segBase (g : Group) (x : Segment) : Nat := (if x.core = g.core then coreWindow else peerWindow) + x.first * 65536

/-- A pull completes when the bytes have landed: the segatt that waits for it attaches the segment, acquires where it says so, writes the
base and is done (R231, R279). -/
def endPull (s : State) (c k : Nat) (x : Segment) : State :=
  match x.mover.bind fun gk => (s.group? gk).map fun g => (gk, g), s.seg? c k with
  | some (gk, g), some y =>
    match g.frA.entries.findSome? fun e => (pullOf s g x.name e).map fun f => (e, f) with
    | some (e, f) =>
      if y.state != 0 then s
      else
        let ws := (e.acting g .addr).map fun l => (aCode f.ad.toNat l, BitVec.ofNat 64 (g.segBase y))
        let s := attachSegment (if f.acq then l1Invalidate s g.core else s) gk c k
        syncImage (s.setGroup gk fun g => g.completeEntry .addr e ws) gk (ws.map (·.1))
    | none => s
  | _, _ => s

/-- SEGMENT_RESTORE_COMPLETE (R229): the bytes of a restore, or of a move from another core, are in place. -/
def execSegmentRestoreComplete (c k : Nat) (s : State) : Host.Outcome State Fault Refusal :=
  .next (match s.seg? c k with
    | none => s
    | some x =>
      let land := fun (x : Segment) => { x with state := 0, core := x.target, first := x.targetFirst }
      if x.state != 3 || !x.faultIds.isEmpty || !ctxRuns s c then s
      else if x.core != noCore then
        let s := settleBanks s x.core x.first x.banks
        if !ctxRuns s c then s
        else
          let bs := bankBytes s x.core x.first x.banks
          endPull (endMove (landSegment (zeroBanks s x.core x.bankList) x bs) c k land) c k x
      else match igierRead s c x.backing (x.banks * 65536) with
        | .error e => moveStop s c k x e
        | .ok bs => endPull (endMove (landSegment s x bs) c k land) c k x)

/-! ### The instructions -/

/-- The lowest free place of a directory. -/
def freePlace (s : State) (c : Nat) : Option Nat :=
  (upTo 256).find? fun k => (s.seg? c k).isNone

/-- The refusals of segmk that need no banks (R226), in the model's order (DESIGN CHOICE, log entry 53). -/
def segmkRefused (s : State) (g : Group) (name backing cls n : Nat) : Option Cause :=
  let all := match s.ctx? g.ctx with
    | some x => x.segments
    | none => []
  if name = 0 then some ⟨0x101, 0, 0⟩
  else if all.any fun p => p.2.name = name then some ⟨0x102, name, 0⟩
  else if n = 0 || 24 < n || cls = 3 || backing % 65536 != 0 then some ⟨0x105, backing, 0⟩
  else if cls = 2 && 4 ≤ (all.filter fun p => p.2.cls = 2 && p.2.core = g.core && p.2.state != 2).length then
    some ⟨0x103, name, g.core⟩
  else if (freePlace s g.ctx).isNone then some ⟨0x104, name, 0⟩
  else none

/-- The number of a group's tree, of a segment's creator. -/
def newSegment (s : State) (g : Group) (name backing cls n b : Nat) : Segment :=
  { backing := backing, name := name, tree := treeNumber s g, attachments := 0, core := g.core, first := b, banks := n,
    cls := cls, state := 0 }

/-- SEGMK (R226, R278). -/
def execSegmk (f : SegmkOps) (s : State) : Host.Outcome State Fault Refusal :=
  runWord (.segmk f) s fun a =>
    let name := (a.a f.aa.toNat a.lead).toNat
    let backing := (a.a f.ab.toNat a.lead).toNat
    let n := f.n.toNat
    match segmkRefused a.s a.g name backing f.cls.toNat n with
    | some c => a.raise c
    | none => match scrRun a.s (fun _ => false) a.g.core n, freePlace a.s a.g.ctx with
      | some b, some k =>
        let s := a.retire a.s (a.a1 f.ad fun _ => BitVec.ofNat 64 (coreWindow + b * 65536))
        let x := newSegment a.s a.g name backing f.cls.toNat n b
        let s := (zeroBanks s a.g.core x.bankList).setCtx a.g.ctx fun y => { y with segments := SMap.insert y.segments k x }
        a.advance (attachSegment s a.gk a.g.ctx k)
      | _, _ =>
        if (scrRun a.s (Segment.leaves a.g.core) a.g.core n).isSome then a.wait a.s (.banks n true)
        else a.raise ⟨0x104, name, n⟩

/-- SEGATT on a segment that is RESIDENT on the issuing core or its pair: the base (R231, R279). -/
def Act.attach (a : Act) (f : SegattOps) (k : Nat) (x : Segment) : State :=
  let s := a.retire a.s (a.a1 f.ad fun _ => BitVec.ofNat 64 (a.g.segBase x))
  a.advance (attachSegment (if f.acq then l1Invalidate s a.g.core else s) a.gk a.g.ctx k)

/-- SEGATT (R230, R231, R279). -/
def execSegatt (f : SegattOps) (s : State) : Host.Outcome State Fault Refusal :=
  runWord (.segatt f) s fun a =>
    let name := (a.a f.aa.toNat a.lead).toNat
    match segByName a.s a.g.ctx name with
    | none => a.raise ⟨0x101, name, 0⟩
    | some (k, x) =>
      if x.state = 4 || x.dropAfter then a.raise ⟨0x101, name, 0⟩
      else if x.state = 1 || x.state = 3 then a.wait a.s (.segment name)
      else if x.state = 0 && x.core / 2 = a.g.core / 2 then a.attach f k x
      else if !f.pull || (x.state = 0 && x.attachments != 0) then a.raise ⟨0x100, name, 0⟩
      else match beginMove a.s a.g.ctx k a.g.core (some a.gk) with
        | (true, s) => a.wait s (.segment name)
        | (false, _) => a.wait a.s (.banks x.banks false)

/-- The copies that a group has issued and that name window addresses (R279). -/
def Group.windowCopies (g : Group) : List Nat :=
  (g.ops.filter fun o => o.cls = 0 && !o.ended && match o.kind with
    | .cpl items .. => items.any fun i => windowBase ≤ i.2.1 || windowBase ≤ i.2.2
    | .copy x .. => windowBase ≤ blkSource x || windowBase ≤ blkDest x
    | .copyTile x .. => windowBase ≤ blkSource x || windowBase ≤ blkDest x
    | _ => false).map (·.id)

/-- The accesses of a group to the banks of a segment that are still to be performed. -/
def Group.bankAccesses (g : Group) (x : Segment) : List Nat := (g.accs.filter fun a => a.inBanks x.core x.first x.banks).map (·.id)

/-- SEGDET (R231, R279): it waits for the accesses to the segment's banks and the copies that the group issued before it. -/
def execSegdet (f : XaOps) (s : State) : Host.Outcome State Fault Refusal :=
  runWord (.segdet f) s fun a =>
    let name := (a.a f.aa.toNat a.lead).toNat
    match segByName a.s a.g.ctx name with
    | none => a.complete []
    | some (k, x) =>
      let waited := match a.iss.entry.block with
        | .opsEnd _ => true
        | _ => false
      if x.state = 1 || x.state = 3 then a.wait a.s (.segment name)
      else if !a.g.attach.contains k then a.complete []
      else if !(a.g.bankAccesses x).isEmpty then a.wait a.s (.accesses (a.g.bankAccesses x))
      else if !a.g.windowCopies.isEmpty && !waited then a.wait a.s (.opsEnd a.g.windowCopies)
      else a.advance (detachSegment (a.retire a.s []) a.gk a.g.ctx k)

/-- What segdrop and segseal meet: no live entry, or one that moves (R230, R280). -/
def Act.liveSegment (a : Act) (aa : BitVec 5) (go : Nat → Segment → State) : State :=
  let name := (a.a aa.toNat a.lead).toNat
  match segByName a.s a.g.ctx name with
  | none => a.raise ⟨0x101, name, 0⟩
  | some (k, x) =>
    if x.state = 4 || x.dropAfter then a.raise ⟨0x101, name, 0⟩
    else if x.state = 1 || x.state = 3 then a.wait a.s (.segment name)
    else go k x

/-- SEGDROP (R280). (DEDUCED, log entry 26.) -/
def execSegdrop (f : XaOps) (s : State) : Host.Outcome State Fault Refusal :=
  runWord (.segdrop f) s fun a => a.liveSegment f.aa fun k _ => a.advance (dropSegment (a.retire a.s []) a.g.ctx k)

/-- SEGSEAL (R235, R280): it completes once every write in flight to the segment's banks has been performed. -/
def execSegseal (f : XaOps) (s : State) : Host.Outcome State Fault Refusal :=
  runWord (.segseal f) s fun a => a.liveSegment f.aa fun _ x =>
    if x.state != 0 then a.complete []
    else match a.g.bankAccesses x with
      | [] => a.advance (a.retire (settleBanks a.s x.core x.first x.banks) [])
      | ids => a.wait a.s (.accesses ids)

end Sys2Proof.Machine
end

