-- ==== Sys2Proof/Machine/Spawn.lean ====
section
/-! DEFINITION. Kernel records (R325), the candidates and capacity of a placement (R31, R32, R432), spawn (R327, R328), the making of
groups and teams (R18, R33) and the acceptance of a spawn (R329). -/

namespace Sys2Proof.Machine

open Sys2Proof

/-! ### Kernel records -/

/-- The offending byte offsets of a kernel record (R325). -/
def kernelBreaches (x : Nat) : List Nat :=
  let when := fun (c : Bool) (off : Nat) => if c then [off] else []
  let entry := fun (e : Nat) => e % 4 != 0 || 2 ^ 56 ≤ e
  let args := bitsOf x 191 128
  let regs := bitsOf x 207 200
  reservedBytes x [(199, 194), (255, 240), (1023, 512)]
  ++ when (entry (bitsOf x 63 0)) 0 ++ when (entry (bitsOf x 127 64)) 8
  ++ when (args % 64 != 0 || (args = 0 && bitsOf x 239 232 != 0)) 16
  ++ when (regs = 0 || 16 < regs) 25 ++ when (10 < bitsOf x 215 208) 26 ++ when (24 < bitsOf x 223 216) 27
  ++ when (8 < bitsOf x 227 224) 28 ++ when (20 < bitsOf x 239 232) 29

/-- The fields of a kernel record at `va` (R325). -/
def kernelOf (va x : Nat) : Kernel :=
  { addr := va, starters := (upTo 4).filterMap fun i =>
      let n := bitsOf x (64 * i + 319) (64 * i + 256)
      if n = 0 then none else some n,
    argLog := bitsOf x 239 232, urg := bitOf x 231, prio := bitsOf x 230 228, turn := bitsOf x 227 224,
    scratch := bitsOf x 223 216, scal := 8 * bitsOf x 215 208, regs := 8 * bitsOf x 207 200, width := 8 * 2 ^ bitsOf x 193 192,
    args := bitsOf x 191 128, centry := bitsOf x 127 64, aentry := bitsOf x 63 0 }

/-- The cause of a bad kernel record. -/
def kernelCause (va off : Nat) : Cause := ⟨0x1A2, va, off⟩

/-- A kernel record from its bytes: a record that is not 128-aligned, or has an offending field, is invalid (R325). -/
def parseKernel (va : Nat) (bs : List Byte) : Except Stop Kernel :=
  match leastOf (kernelBreaches (natOfBytes bs)) with
  | some off => .error (.cause (kernelCause va off))
  | none => .ok (kernelOf va (natOfBytes bs))

/-- The chunks of a window of a kernel's groups (R105). -/
def Kernel.chunks (k : Kernel) : Nat := chunksFor k.regs k.width k.scal

/-! ### Candidates and capacity -/

/-- The cores of a partition in the logical core map (R379, R392). -/
def partCores (s : State) (part : Nat) : List Nat :=
  (upTo 256).filter fun c => partOfCore s c = part && !(s.core c).removed

/-- The candidates of a placement hint for a spawner's core: single cores, or pairs by their lower core (R31, R32). -/
def hintCores (s : State) (part core hint : Nat) (pair : Bool) : List Nat :=
  let near := fun (c : Nat) => match hint with
    | 0 => decide (c = core)
    | 1 => decide (c / 2 = core / 2)
    | 2 => decide (clusterOf c = clusterOf core)
    | _ => true
  let cs := (partCores s part).filter near
  if pair then
    (cs.map fun c => c / 2 * 2).eraseDups
  else cs

/-- The cores of a candidate. A core that has left the logical core map leaves its partner to serve pairs alone (R392). (DEDUCED, log
entry 41.) -/
def candCores (s : State) (cand : Nat) (pair : Bool) : List Nat :=
  if pair then [cand, cand + 1].filter fun c => !(s.core c).removed else [cand]

/-- Whether a team of `n` groups of a kernel fits a candidate, whatever occupies it (R32). -/
def teamFits (s : State) (k : Kernel) (n cand : Nat) (pair : Bool) : Bool :=
  let holds := fun (c : Nat) => min (min 64 (4096 / k.width)) (regCapacity (s.core c) / k.chunks)
  let cs := candCores s cand pair
  let scr := fun (c : Nat) => ((s.core c).modes.filter (· = 1)).length
  decide (n ≤ cs.foldl (fun m c => m + holds c) 0) && cs.any fun c => decide (k.scratch ≤ scr c) && holds c != 0

/-- The live directory entries of a context with the names given: an entry that is DROPPED, or still moves and is to be dropped then, is
none, here as for segatt, segdrop and segseal (R228 to R230, R232). (DEDUCED, log entry 26.) -/
def namedSegments (s : State) (c : Nat) (names : List Nat) : List (Nat × Segment) :=
  match s.ctx? c with
  | none => []
  | some x => x.segments.filter fun p => names.contains p.2.name && p.2.state != 4 && !p.2.dropAfter

/-- The candidates that a team of `n` groups of a kernel fits: only these are ranked (R32, R38, R432). (DEDUCED, log entry 24.) -/
def fitCores (s : State) (k : Kernel) (n : Nat) (pair : Bool) (cands : List Nat) : List Nat :=
  cands.filter fun c => teamFits s k n c pair

/-- The threads that R432 counts on a core: of groups of priority class `prio` or higher. -/
def threadsOn (s : State) (prio core : Nat) : Nat :=
  s.groups.foldl (fun n p =>
    let g := p.2
    let counted := match g.status with
      | .pending => match s.team? g.team with
          | some t => g.spawner = 0xFFFFFFFF && !t.placing
          | none => false
      | _ => true
    if g.core = core && counted && prio ≤ g.kernel.prio then n + g.width else n) 0

/-- The order of R432 as a list of numbers, least first: named segments RESIDENT, threads of equal or higher class, all threads,
the core. -/
def placeKey (s : State) (c : Nat) (names : List Nat) (prio : Nat) (pair : Bool) (cand : Nat) : List Nat :=
  let segs := (namedSegments s c names).filter fun p => p.2.state = 0 && p.2.core / 2 = cand / 2
  let sum := fun (p : Nat) => (candCores s cand pair).foldl (fun n c => n + threadsOn s p c) 0
  [256 - segs.length, sum prio, sum 0, cand]

/-- Whether a core carries a group, a segment or saved state of a context (R185, R384). -/
def ctxKeeps (s : State) (c core : Nat) : Bool :=
  (s.groups.any fun p => p.2.ctx = c && p.2.core = core && p.2.status != .pending)
  || match s.ctx? c with
    | none => false
    | some x => (SMap.find? x.savedModes core).isSome
        || x.segments.any fun p => (p.2.state != 2 && p.2.core = core) || (p.2.state = 3 && p.2.target = core)

/-- Whether a core is free for a context, or held by it: another context gives it up only once it is out or has ended, and keeps
nothing there (R185, R392). -/
def coreOpen (s : State) (c core : Nat) : Bool :=
  let k := s.core core
  let gone := fun (x : Nat) => match s.ctx? x with
    | none => true
    | some y => (y.status = .out || y.status = .ended) && !ctxKeeps s x core
  partOfCore s core = (ctxOwner s c).1 && !k.removed && !k.scanning && match k.ctx with
    | none => true
    | some x => x = c || gone x

/-- The number of a list whose key is least. -/
def leastBy (key : Nat → List Nat) : List Nat → Option Nat
  | [] => none
  | x :: rest => match leastBy key rest with
    | none => some x
    | some y => if keyLess (key y) (key x) then some y else some x

/-- The candidate that R432 chooses of those that the team fits: a core under scan and one that another context holds are ranked too (R185,
R392). -/
def chooseCore (s : State) (c : Nat) (names : List Nat) (prio : Nat) (pair : Bool) (cands : List Nat) : Option Nat :=
  leastBy (placeKey s c names prio pair) cands

/-! ### The spawn instruction -/

/-- The offending byte offsets of a spawn block (R327). -/
def spawnBreaches (x : Nat) : List Nat :=
  let when := fun (c : Bool) (off : Nat) => if c then [off] else []
  reservedBytes x [(191, 89)]
  ++ when (4 < bitsOf x 87 85 || bitsOf x 84 80 = 0 || 16 < bitsOf x 84 80) 10 ++ when (bitsOf x 79 64 = 0) 8

/-- The number of groups of a spawn's largest team. -/
def largestTeam (x : Nat) : Nat := min (bitsOf x 84 80) (bitsOf x 79 64)

/-- Put a checked spawn into the queue of the issuing core's cluster (R328 step 7). -/
def Act.enqueueSpawn (a : Act) (x : Nat) (k : Kernel) (args : List Byte) : State :=
  let s := l1WriteBack a.s a.g.core
  let part := (ctxOwner s a.g.ctx).1
  let e : SpawnEntry :=
    { group := a.gk, op := a.g.nextId, ctx := a.g.ctx, tree := a.g.tree, part := part, core := a.g.core,
      count := bitsOf x 79 64, team := bitsOf x 84 80, pair := bitOf x 88, hint := bitsOf x 87 85, kernel := k, args := args,
      gid := a.g.gid, depth := a.g.depth + 1 }
  let cl := clusterOf a.g.core
  let s := acceptOp (a.retire s []) a.gk 5 [a.lead] 1 0 (.spawn x)
  a.advance { s with spawnQ := SMap.insert s.spawnQ cl (SMap.get [] s.spawnQ cl ++ [e]) }

/-- SPAWN (R328): the elected thread's earlier accesses are performed first, since the spawn is its release. -/
def execSpawn (f : XaOps) (s : State) : Host.Outcome State Fault Refusal :=
  runWord (.spawn f) s fun a =>
    let va := (a.a f.aa.toNat a.lead).toNat
    let ids := (a.g.accs.filter fun x => !x.performed && x.lane = a.lead).map (·.id)
    if !ids.isEmpty then a.wait a.s (.accesses ids)
    else match localBytes a.s a.g va 64 64 with
      | .error c => a.raise c
      | .ok bs =>
        let x := natOfBytes bs
        let rec_ := bitsOf x 63 0
        let pair := bitOf x 88
        match leastOf (spawnBreaches x) with
        | some off => a.raise ⟨0x140, va, off⟩
        | none =>
          if rec_ % 128 != 0 then a.raise (kernelCause rec_ 0)
          else match engineRead a.s a.g.who rec_ 128 with
            | .error (.cause c) => a.raise c
            | .error (.replay code va kind) =>
              let r := reportPages a.s a.g a.st kind (a.lanes.map fun l => (l, code, va))
              a.wait r.1 (.faults r.2)
            | .ok (kb, s) => match parseKernel rec_ kb with
              | .error (.cause c) => a.raise c
              | .error _ => a.s
              | .ok k =>
                let n := largestTeam x
                let cands := hintCores s (ctxOwner s a.g.ctx).1 a.g.core (bitsOf x 87 85) pair
                if 32 ≤ a.g.depth then a.raise ⟨0x1A1, 32, 0⟩
                else if (fitCores s k n pair cands).isEmpty then a.raise ⟨0x1A0, n, 0⟩
                else if 63 ≤ a.g.count 5 || 256 ≤ (SMap.get [] s.spawnQ (clusterOf a.g.core)).length then
                  a.wait s (.engine 5)
                else { a with s := s }.enqueueSpawn x k (bs.drop 24)

/-! ### Groups and teams -/

/-- A key that no group, team or tree has used since `stamp` passed it. -/
def freshKey {α : Type} (s : State) (m : SMap α) : Nat := max s.stamp (SMap.fresh m)

/-- A group before its first admission (R30). -/
def newGroup (c tree gid team core : Nat) (k : Kernel) (depth first count spawner hint : Nat) (args : List Byte) : Group :=
  { ctx := c, tree := tree, gid := gid, team := team, core := core, status := .pending, width := k.width, vAlloc := k.regs,
    sAlloc := k.scal, kernel := k, depth := depth, firstGid := first, groupCount := count, spawner := spawner, hint := hint,
    args := args }

/-- The team number `i` of an accepted spawn, its groups PENDING (R327). The core of a PENDING group is its spawner's. -/
def addTeam (s : State) (e : SpawnEntry) (first i : Nat) (fixed : Option Nat) (names : List Nat) : State × List Nat :=
  let n := min e.team (e.count - i * e.team)
  let tk := freshKey s s.teams
  let gk := freshKey s s.groups
  let gid := first + i * e.team
  let groups := (upTo n).foldl (fun m j => SMap.insert m (gk + j)
    (newGroup e.ctx e.tree (gid + j) tk e.core e.kernel e.depth first e.count e.gid e.hint e.args)) s.groups
  let keys := (upTo n).map (gk + ·)
  let t : Team := { groups := keys, gid := gid, pair := e.pair, core := fixed, placing := !names.isEmpty, names := names }
  ({ s with groups := groups, teams := SMap.insert s.teams tk t, stamp := max (gk + n) (max (tk + 1) s.stamp) }, keys)

/-- Give an accepted spawn its numbers, groups and teams (R31, R33, R232, R329). -/
def acceptSpawn (s : State) (e : SpawnEntry) : State × SpawnEntry :=
  match SMap.find? s.trees e.tree with
  | none => (s, { e with accepted := true })
  | some t =>
    let near := if e.hint = 3 then
        chooseCore s e.ctx e.kernel.starters e.kernel.prio e.pair
          (fitCores s e.kernel (min e.team e.count) e.pair (hintCores s e.part e.core 3 e.pair))
      else none
    let names := if near.isSome then e.kernel.starters else []
    let r := (upTo (ceilDiv e.count e.team)).foldl (fun (r : State × List Nat) i =>
      let x := addTeam r.1 e t.nextGid i near names
      (x.1, r.2 ++ x.2)) (s, [])
    let s := { r.1 with trees := SMap.modify r.1.trees e.tree fun t =>
      { t with nextGid := t.nextGid + e.count, rise := t.rise + e.count } }
    (endOp s e.group e.op none, { e with accepted := true, waiting := r.2 })

/-- The oldest spawn of a cluster's queue that has not been accepted (R329). -/
def nextSpawn (s : State) (cluster : Nat) : Option SpawnEntry :=
  (SMap.get [] s.spawnQ cluster).find? fun e => !e.accepted

/-- Change the entries of a cluster's spawn queue; those whose last group has been admitted leave (R329). -/
def setSpawns (s : State) (cluster : Nat) (f : SpawnEntry → SpawnEntry) : State :=
  let es := ((SMap.get [] s.spawnQ cluster).map f).filter fun e => !e.accepted || !e.waiting.isEmpty
  { s with spawnQ := SMap.put [] s.spawnQ cluster es }

/-- Whether the rise counter of its tree has room for a spawn (R370). -/
def riseRoom (s : State) (e : SpawnEntry) : Bool :=
  match SMap.find? s.trees e.tree with
  | some t => decide (t.rise + e.count < 2 ^ 32)
  | none => true

/-- SPAWN_ACCEPT (R329): the dispatcher accepts a spawn that is next in its cluster's queue; one for which the rise counter has no room
waits (R370). -/
def execSpawnAccept (gk op : Nat) (s : State) : Host.Outcome State Fault Refusal :=
  .next (match s.group? gk with
    | none => s
    | some g => match nextSpawn s (clusterOf g.core) with
      | none => s
      | some e =>
        if e.group != gk || e.op != op || !riseRoom s e then s
        else
          let r := acceptSpawn s e
          setSpawns r.1 (clusterOf g.core) fun x => if x.group = gk && x.op = op then r.2 else x)

end Sys2Proof.Machine
end

