-- ==== Sys2Proof/Machine/Admission.lean ====
section
/-! DEFINITION. How groups enter and leave a core: the core a context holds (R185, R193), the placement of named segments (R232, R233),
admission and readmission (R30 to R34, R326), parking (R35, R113, R114) and retirement (R36). -/

namespace Sys2Proof.Machine

open Sys2Proof

/-! ### Cores and contexts -/

/-- A core passes to a context that does not hold it: zeroed, in the context's bank profile (R193, R204). -/
def takeCore (s : State) (c core : Nat) : State :=
  if (s.core core).ctx = some c then s
  else
    let profile := match s.ctx? c with
      | some x => if x.profile.isEmpty then defaultProfile else x.profile
      | none => defaultProfile
    (zeroCore s core).setCore core fun k => { k with ctx := some c, modes := profile }

/-! ### Placement of named segments -/

/-- Put one named segment on its way to a core (R232 step 3): whether it needs no move, and the machine. -/
def placeSegment (s : State) (c core k : Nat) : Bool × State :=
  match s.seg? c k with
  | none => (true, s)
  | some x =>
    let go := if coreOpen s c core then (false, (beginMove (takeCore s c core) c k core none).2) else (false, s)
    if x.state = 2 then go
    else if x.state = 0 then (if x.core / 2 != core / 2 && x.attachments = 0 then go else (true, s))
    else (x.state = 4, s)

/-- Put named segments on their way to a core: the names that are still to be placed (R232). -/
def placeNamed (s : State) (c core : Nat) (names : List Nat) : List Nat × State :=
  (namedSegments s c names).foldl (fun (r : List Nat × State) p =>
    let x := placeSegment r.2 c core p.1
    (if x.1 then r.1 else r.1 ++ [p.2.name], x.2)) ([], s)

/-- A placing team takes a step: each of its segments is placed once, and with none left it waits for admission (R232 steps 3 and 4). -/
def placeTeam (s : State) (tk : Nat) (t : Team) (c : Nat) : State :=
  match t.core with
  | none => s
  | some core =>
    let r := placeNamed s c core t.names
    { r.2 with teams := SMap.modify r.2.teams tk fun t => { t with names := r.1, placing := !r.1.isEmpty } }

/-! ### Groups that wait to enter RESIDENT -/

/-- A team that waits, with its groups that wait. -/
structure Waiter where
  tk   : Nat
  team : Team
  gs   : List (Nat × Group)
  deriving DecidableEq, Repr

/-- The entries of a group with their strands. -/
def Group.strandEntries (g : Group) : List (Strand × Entry) :=
  g.frC.entries.map (fun e => (.comp, e)) ++ g.frA.entries.map fun e => (.addr, e)

/-- Whether an entry of a PARKED group is still blocked in what it waits for. -/
def stillWaits (s : State) (g : Group) (st : Strand) (e : Entry) : Bool :=
  match e.block with
  | .event .. | .faults .. | .barrier _ _ _ _ none => true
  | .counter .. => !entryReady s g st e
  | _ => false

/-- Whether an entry of a PARKED group is no longer blocked (R356, R369). -/
def Group.stirs (s : State) (g : Group) : Bool := g.strandEntries.any fun e => !stillWaits s g e.1 e.2

/-- The teams that wait to enter RESIDENT (R30, R33, R232). -/
def waiters (s : State) : List Waiter :=
  s.teams.filterMap fun p =>
    let all := p.2.groups.filterMap fun k => (s.group? k).map fun g => (k, g)
    match all.filter fun g => g.2.status = .pending || g.2.status = .parked with
    | [] => none
    | (k, g) :: rest =>
      let gs := (k, g) :: rest
      let turn := match SMap.find? s.trees g.tree with
        | some t => decide (t.admitted = g.gid)
        | none => false
      let may := if g.status = .pending then turn && !p.2.placing
        else (gs.any fun x => x.2.stirs s) && gs.all fun x => x.2.attached s
      if ctxRuns s g.ctx && may then some ⟨p.1, p.2, gs⟩ else none

/-- The lead group of a waiting team. -/
def Waiter.lead (w : Waiter) : Option Group := w.gs.head?.map (·.2)

/-- The candidates of a waiting team: the core or pair of a PARKED one, the fixed core, or those of its hint that it fits (R31, R32). -/
def Waiter.cands (s : State) (w : Waiter) : List Nat :=
  match w.lead with
  | none => []
  | some g =>
    if g.status = .parked then [if w.team.pair then g.core / 2 * 2 else g.core]
    else match w.team.core with
      | some c => [c]
      | none => fitCores s g.kernel w.gs.length w.team.pair (hintCores s (ctxOwner s g.ctx).1 g.core g.hint w.team.pair)

/-- Whether a team has waited 2^20 cycles or more (R34). -/
def Waiter.overdue (w : Waiter) : Bool := w.lead.any fun g => g.waitDue || 2 ^ 20 ≤ g.waited

/-- The order of R34 as a list of numbers, least first. -/
def Waiter.key (s : State) (w : Waiter) : List Nat :=
  match w.lead with
  | none => []
  | some g =>
    if w.overdue then [0, 2 ^ 64 - g.waited]
    else if g.status = .parked then [1, 7 - g.kernel.prio, 0, g.order]
    else [1, 7 - g.kernel.prio, 1, ((SMap.find? s.trees g.tree).map (·.order)).getD 0, g.gid]

/-- The names that R432 counts for a team. -/
def Waiter.names (w : Waiter) : List Nat :=
  match w.lead with
  | some g => g.kernel.starters
  | none => []

/-- The candidate on which a waiting team is to enter (R31, R432). -/
def Waiter.target (s : State) (w : Waiter) : Option Nat :=
  match w.lead with
  | some g => chooseCore s g.ctx w.names g.kernel.prio w.team.pair (w.cands s)
  | none => none

/-- The teams that wait to enter RESIDENT on a core which serves their context, or may (R185). -/
def waitersOn (s : State) (core : Nat) : List Waiter :=
  (waiters s).filter fun w => (w.target s).any fun c =>
    (candCores s c w.team.pair).contains core && ((w.lead.map fun g => coreOpen s g.ctx core).getD false)

/-- The team of a list that comes first in the order of R34. -/
def leastWaiter (s : State) (ws : List Waiter) : Option Waiter :=
  ws.foldl
    (fun best w => match best with
      | none => some w
      | some b => if keyLess (w.key s) (b.key s) then some w else some b) none

/-- The scratchpad banks that a team still needs (R193). -/
def Waiter.scratch (w : Waiter) : Nat :=
  match w.lead with
  | some g => if g.status = .pending then g.kernel.scratch else 0
  | none => 0

/-- Whether a team cannot have its scratchpad at its candidate, even once every segment that may be evicted has left: other teams, which may
be PARKED, keep the banks (R193, R233). -/
def Waiter.lacksBanks (s : State) (w : Waiter) : Bool :=
  match w.lead, w.target s with
  | some g, some cand => w.scratch != 0 && (candCores s cand w.team.pair).all fun c =>
      decide ((freeBanks (takeCore s g.ctx c) (Segment.leaves c) c).length < w.scratch)
  | _, _ => false

/-- The waiting team that a core takes first (R34). A team that no eviction can give its scratchpad, because other teams keep the banks,
lets pass those that can have theirs, for R38 has each of them enter in the end, and the teams that keep the banks may be waiting for
them; but once it has waited 2^20 cycles no team that takes scratchpad passes it before having waited as long. (DEDUCED, log entry 46.) -/
def firstWaiter (s : State) (core : Nat) : Option Waiter :=
  let ws := waitersOn s core
  match leastWaiter s ws with
  | none => none
  | some w =>
    if w.lacksBanks s then
      (leastWaiter s (ws.filter fun x => !x.lacksBanks s && (x.scratch = 0 || !w.overdue || x.overdue))).or (some w)
    else some w

/-! ### Room -/

/-- The room of a core: groups, threads, chunks (R12, R30, R107). -/
structure Room where
  core   : Nat
  groups : Nat
  threads : Nat
  chunks : Nat
  deriving DecidableEq, Repr

/-- The room of a core. -/
def roomOf (s : State) (core : Nat) : Room :=
  let hs := holdersOn s core
  ⟨core, 64 - hs.length, 4096 - hs.foldl (fun n p => n + p.2.width) 0, freeChunks s core⟩

/-- Seat one group at the first core that has room for it; a PARKED group only on its own (R31). -/
def seat (g : Group) : List Room → Option (Nat × List Room)
  | [] => none
  | r :: rest =>
    if (g.status = .pending || g.core = r.core) && 1 ≤ r.groups && g.width ≤ r.threads && g.chunks ≤ r.chunks then
      some (r.core, { r with groups := r.groups - 1, threads := r.threads - g.width, chunks := r.chunks - g.chunks } :: rest)
    else (seat g rest).map fun x => (x.1, r :: x.2)

/-- Seat every group of a team, or none (R32). -/
def seatAll (rooms : List Room) : List (Nat × Group) → Option (List (Nat × Nat))
  | [] => some []
  | (k, g) :: rest => match seat g rooms with
    | none => none
    | some (c, rooms) => (seatAll rooms rest).map fun xs => (k, c) :: xs

/-- Where the groups of a team would enter at a candidate now, with the machine in which its cores belong to the context; none
without room, or before a register waiter (R30, R32, R113, R193). The scratchpad of a team on a core pair lies in the core that
receives its first group, the lower one where it can (R191). -/
def planAt (s : State) (w : Waiter) (cand : Nat) : Option (List (Nat × Nat) × State) :=
  match w.lead with
  | none => none
  | some g =>
    let cs := candCores s cand w.team.pair
    if cs.all fun c => coreOpen s g.ctx c && (holdersOn s c).all fun p => !p.2.growWaits then
      let t := cs.foldl (fun s c => takeCore s g.ctx c) s
      let seats := fun (cs : List Nat) => match seatAll (cs.map (roomOf t)) w.gs with
        | some ((k, c) :: rest) =>
          if w.scratch ≤ (freeBanks t (fun _ => false) c).length then some ((k, c) :: rest, t) else none
        | _ => none
      (seats cs).or (seats cs.reverse)
    else none

/-- Whether a team is the first of R34 at every core of a candidate. -/
def isFirst (s : State) (w : Waiter) (cand : Nat) : Bool :=
  (candCores s cand w.team.pair).all fun c => match firstWaiter s c with
    | some x => x.tk = w.tk
    | none => false

/-! ### Admission -/

/-- The address of a group's argument slot (R326). -/
def Group.argSlot (g : Group) : Nat := g.kernel.args + 64 * (g.gid % 2 ^ g.kernel.argLog)

/-- The bytes of a group's argument slot (R326). -/
def Group.argBytes (g : Group) : List Byte :=
  (upTo 40).map (fun i => g.args.getD i 0#8)
    ++ [g.firstGid, g.groupCount, g.spawner, g.depth].flatMap (fun x => bytesOfNat x 4) ++ List.replicate 8 0#8

/-- The slot is not written: the cause is raised in the address strand of every thread (R326). -/
def argsFail (s : State) (gk : Nat) (g : Group) (code info : Nat) : State :=
  if fatalCode code then contextFatal s g.ctx ⟨code, g.argSlot, info⟩ { core := g.core, gid := g.gid, strand := 1 }
  else trapHeld s gk .addr (BitVec.ofNat 56 g.kernel.aentry) ((upTo g.width).map fun l => (l, ⟨code, g.argSlot, info⟩))

/-- Write a group's argument slot, or wait for the answer to a translation fault (R326). -/
def writeArgs (s : State) (gk : Nat) : State :=
  match s.group? gk with
  | none => s
  | some g =>
    if g.kernel.args = 0 then s
    else match engineWrite s g.who g.argSlot g.argBytes with
      | .ok s => s
      | .error (.cause c) => argsFail s gk g c.code c.info
      | .error (.replay code va kind) =>
        let r := reportFault s g.ctx code va kind (groupSite s g 0 1)
        r.1.setGroup gk fun g => { g with argFaults := [r.2] }

/-- A group as it first enters RESIDENT (R20, R30, R169). -/
def Group.enter (g : Group) (core order : Nat) (tvecC tvecA : DWord) : Group :=
  let fr := fun (id pc : Nat) => ({ hw := [{ id := id, pc := BitVec.ofNat 56 pc, members := upTo g.width }] } : Frontier)
  { g with core := core, status := .resident, order := order, waited := 0, waitDue := false, resided := 0, idle := 0,
           threads := List.replicate g.width { comp := { tvec := tvecC }, addr := { tvec := tvecA } },
           frC := fr 0 g.kernel.centry, frA := fr 1 g.kernel.aentry, nextId := 2 }

/-- A group as it enters RESIDENT again: barrier waits that were released complete (R369). -/
def Group.reenter (g : Group) (order : Nat) : Group :=
  let g := { g with status := .resident, order := order, waited := 0, waitDue := false, resided := 0, idle := 0,
                    spillSlot := none }
  g.frA.entries.foldl (fun g e => match e.block with
    | .barrier _ _ _ d (some low) =>
      g.completeEntry .addr e (e.members.map fun l => (aCode d l, BitVec.ofNat 64 low))
    | _ => g) g

/-- The groups of a team first enter RESIDENT on the cores planned (R32 to R34, R191, R204, R326, R328). -/
def admitTeam (s0 : State) (w : Waiter) (cand : Nat) (seats : List (Nat × Nat)) : State :=
  match w.lead with
  | none => s0
  | some lead =>
    let home := ((seats.head?).map (·.2)).getD cand
    let banks := (freeBanks s0 (fun _ => false) home).take w.scratch
    let s := zeroBanks s0 home banks
    let vecs := match s.ctx? lead.ctx with
      | some x => (x.tvecC, x.tvecA)
      | none => (0#64, 0#64)
    let s := seats.foldl (fun s k =>
      { s with stamp := s.stamp + 1 }.setGroup k.1 fun g => g.enter k.2 s.stamp vecs.1 vecs.2) s
    let keys := seats.map (·.1)
    let s := { s with
      teams := SMap.modify s.teams w.tk fun t => { t with core := some cand, banks := banks.map fun b => (home, b) }
      trees := SMap.modify s.trees lead.tree fun t => { t with admitted := t.admitted + seats.length } }
    let s := setSpawns s (clusterOf lead.core) fun e => { e with waiting := e.waiting.filter fun k => !keys.contains k }
    let s := (seats.map (·.2)).eraseDups.foldl l1Invalidate s
    keys.foldl writeArgs s

/-- The waiting team of a group. -/
def waiterOf (s : State) (gk : Nat) : Option Waiter := (waiters s).find? fun w => w.gs.any fun g => g.1 = gk

/-- GROUP_ADMIT (R31 to R34): a PENDING team enters at the candidate that R432 chooses, once it has room there and is first; a team whose
named segments are not yet in place goes on placing them (R232). -/
def execGroupAdmit (gk core : Nat) (s : State) : Host.Outcome State Fault Refusal :=
  .next (match s.group? gk with
    | none => s
    | some g =>
      if g.status != .pending then s
      else match waiterOf s gk with
        | none => match s.team? g.team with
          | some t => if t.placing && g.spawner != 0xFFFFFFFF && ctxRuns s g.ctx then placeTeam s g.team t g.ctx else s
          | none => s
        | some w =>
          if w.target s != some core || !isFirst s w core then s
          else match planAt s w core with
            | none => s
            | some (seats, t) => admitTeam t w core seats)

/-- Free the image slots of groups that leave the spill area. -/
def freeSpill (s : State) (c : Nat) (slots : List Nat) : State :=
  s.setCtx c fun x => { x with spillUsed := x.spillUsed.filter fun n => !slots.contains n }

/-- A field of a window image: `n` bytes at `off`. -/
def imageField (img : Nat) (off n : Nat) : Nat := bitsOf img (8 * (off + n) - 1) (8 * off)

/-- The register codes of a group with the places of their values in its window image, lowest code first (R105). -/
def Group.imagePlaces (g : Group) : List (Nat × Nat × Nat) :=
  let w := g.width
  ((upTo g.vAlloc).flatMap fun i => (upTo w).map fun l => (vCode i l, 4 * (i * w + l), 4))
  ++ ((upTo 31).flatMap fun j => (upTo w).map fun l => (aCode (j + 1) l, 0x8000 + 8 * ((j + 1) * w + l), 8))
  ++ ((upTo g.sAlloc).map fun k => (sCode k, 0xC000 + 4 * k, 4))
  ++ (upTo g.sAlloc).map fun k => (sCode (80 + k), 0xC140 + 4 * k, 4)

/-- The predicate values of a window image (R105). -/
def Group.imagePreds (g : Group) (img : Nat) : SMap DWord :=
  [(Strand.comp, 0xC400), (Strand.addr, 0xC440)].flatMap fun p => (upTo 8).flatMap fun k =>
    let bits := imageField img (p.2 + 8 * k) 8
    (upTo g.width).filterMap fun l => if bitOf bits l then some (pCode p.1 k l, 1#64) else none

/-- The registers that a window image shows empty (R170). -/
def Group.imageEmpty (g : Group) (img : Nat) : SMap Bool :=
  let row := fun (off code : Nat) =>
    let bits := imageField img off 8
    (upTo g.width).filterMap fun l => if bitOf bits l then none else some (code + l, true)
  ((upTo g.vAlloc).flatMap fun i => row (0xC480 + 8 * i) (vCode i 0)) ++ (upTo 31).flatMap fun j => row (0xC888 + 8 * j) (aCode (j + 1) 0)

/-- The trap registers of a strand from a control record at `off`, its mark in byte `mark` (R170). Fields are written as csrw writes
them (R5). -/
def Thread.loadStrand (t : Thread) (img : Nat) (st : Strand) (off mark : Nat) : Thread :=
  let t := (upTo 5).foldl (fun t i => t.csrWrite st (0x010 + i) (BitVec.ofNat 64 (imageField img (off + 8 * i) 8))) t
  let m := imageField img mark 1
  t.setStrand st fun r => { r with th := bitOf m 0, sprio := BitVec.ofNat 4 (m / 16) }

/-- The control registers of a thread from its control record at `off` (R170). -/
def Thread.loadImage (t : Thread) (img off : Nat) : Thread :=
  let t := t.csrWrite .comp 0x000 (BitVec.ofNat 64 (imageField img off 4))
  let t := t.csrWrite .comp 0x001 (BitVec.ofNat 64 (imageField img (off + 4) 4))
  let t := t.csrWrite .comp 0x040 (BitVec.ofNat 64 (imageField img (off + 8) 8))
  (t.loadStrand img .comp (off + 16) (off + 96)).loadStrand img .addr (off + 56) (off + 97)

/-- A group with its window as an image holds it (R105, R170, R183). -/
def Group.loadImage (g : Group) (bs : List Byte) : Group :=
  let img := natOfBytes bs
  let values := (g.imagePlaces.filterMap fun p =>
      let x := imageField img p.2.1 p.2.2
      if x = 0 then none else some (p.1, BitVec.ofNat 64 x)) ++ g.imagePreds img
  { g with
    regs := values, bank := values, empty := g.imageEmpty img, loose := [], stores := [],
    threads := (upTo g.width).map fun l => (g.thread l).loadImage img (0xC980 + 128 * l) }

/-- The image of a PARKED group as its slot holds it; or the machine in which the group waits for the answer to a translation
fault, or its context has ended (R183, R433). -/
def readImage (s : State) (gk : Nat) (g : Group) : Except State (List Byte) :=
  match g.spillSlot with
  | none => .ok g.image
  | some n => match igierRead s g.ctx (spillSlotVa s g.ctx n) 65536 with
    | .ok bs => .ok bs
    | .error e => .error (spillStop s gk g e)

/-- The images of the groups of a team, read in turn. -/
def readImages (s : State) : List (Nat × Group) → Except State (List (Nat × List Byte))
  | [] => .ok []
  | (k, g) :: rest => match readImage s k g, readImages s rest with
    | .error t, _ => .error t
    | _, .error t => .error t
    | .ok bs, .ok xs => .ok ((k, bs) :: xs)

/-- GROUP_READMIT (R31, R32, R34, R183, R433): the windows come from their images. -/
def execGroupReadmit (gk : Nat) (s : State) : Host.Outcome State Fault Refusal :=
  .next (match waiterOf s gk, s.group? gk with
    | some w, some g =>
      match (if g.status = .parked then w.target s else none) with
      | some cand =>
        if !isFirst s w cand || w.gs.any (fun k => !k.2.parkFaults.isEmpty || !k.2.owed.isEmpty) then s
        else match planAt s w cand, readImages s w.gs with
          | none, _ => s
          | some _, .error t => t
          | some (_, t), .ok images =>
            let t := freeSpill t g.ctx (w.gs.filterMap fun k => k.2.spillSlot)
            images.foldl (fun s k => { s with stamp := s.stamp + 1 }.setGroup k.1 fun g => (g.loadImage k.2).reenter s.stamp) t
      | none => s
    | _, _ => s)

/-! ### Who is parked -/

/-- Whether an empty register is owed by an engine: a macrd in progress (R37, R111). -/
def Group.owedByEngine (g : Group) (code : Nat) : Bool :=
  g.ops.any fun o => !o.ended && match o.kind with
    | .macrd members d n .. => (upTo n).any fun k => members.any fun l => vCode (d + k) l = code
    | _ => false

/-- Whether an entry is blocked in a cause of kind (a) (R35, R37, R324). -/
def blockedA (s : State) (g : Group) (st : Strand) (e : Entry) : Bool :=
  match e.block with
  | .event .. | .rendezvous .. | .lanes .. | .grow _ _ false | .barrier _ _ _ _ none => true
  | .sleep n => n != 0
  | .counter .. | .fifo .. => !entryReady s g st e
  | .regs codes => let es := codes.filter fun c => !g.isFull c
    !es.isEmpty && es.all g.owedByEngine
  | _ => false

/-- Whether a count has reached the swap threshold of a group's context (R35). -/
def swapDue (s : State) (g : Group) (n : Nat) : Bool :=
  match s.ctx? g.ctx with
  | some x => decide (2 ^ x.swap ≤ n)
  | none => false

/-- Whether a group of the priority class of `g`, or of a higher one, waits to enter RESIDENT on its core (R35 (c)). -/
def waitedFor (s : State) (g : Group) : Bool :=
  (waitersOn s g.core).any fun w => w.gs.any fun p => decide (g.kernel.prio ≤ p.2.kernel.prio)

/-- The kind under which a RESIDENT group may be parked: 0 (a), 1 (b), 2 (c) (R35). A thread counts as blocked under (a) where every entry
that it stands in, of both its strands, is (DESIGN CHOICE, log entry 54). -/
def parkKind (s : State) (g : Group) : Option Nat :=
  if !g.strandEntries.isEmpty && g.strandEntries.all fun e => blockedA s g e.1 e.2 then some 0
  else if g.idleDue || swapDue s g g.idle then some 1
  else if (g.residedDue || swapDue s g g.resided) && waitedFor s g then some 2
  else none

/-- What a core parks groups for: the group it must not park, whether every other group counts as eligible, and whether the youngest
goes first. -/
structure Demand where
  keep  : Option Nat := none
  all   : Bool := false
  young : Bool := false
  deriving DecidableEq, Repr

/-- The groups RESIDENT on a core. -/
def residentsOn (s : State) (core : Nat) : List (Nat × Group) :=
  s.groups.filter fun p => p.2.core = core && p.2.status = .resident

/-- The group of a list that entered RESIDENT first, of those of one cycle the one that the model seated first (DESIGN CHOICE, log
entry 53). -/
def oldestOf (gs : List (Nat × Group)) : Option (Nat × Group) :=
  gs.foldl (fun best p => match best with
    | none => some p
    | some b => if p.2.order < b.2.order then some p else some b) none

/-- The chunks that the first request of a group waits for (R113, R137). -/
def Group.wanted (g : Group) : Nat :=
  ((g.frC.entries ++ g.frA.entries).filterMap fun e => match e.block with
    | .grow k stamp false => if leastOf g.requests = some stamp then some (g.extraChunks (g.vAlloc + 8 * k)) else none
    | _ => none).headD 0

/-- The need of register waiters for room on a core (R113). -/
def registerDemand (s : State) (core : Nat) : Option Demand :=
  let rs := residentsOn s core
  let ws := rs.filter fun p => p.2.growWaits
  match oldestOf ws with
  | none => none
  | some w =>
    if w.2.wanted ≤ freeChunks s core then none
    else some { keep := some w.1, all := (oldestOf rs).map (·.1) = some w.1, young := ws.length = rs.length }

/-- The need of a mode change for room on a core (R194). -/
def modeDemand (s : State) (core : Nat) : Option Demand :=
  match (s.core core).switch with
  | some (b, _) =>
    if bankMode (s.core core) b = 0 && !modeReady s core b then
      some { keep := ((modeWaiters s core b).head?).map (·.1), all := true }
    else none
  | none => none

/-- Whether the groups of a team find admission places and register banks at a candidate that serves their context, whatever scratchpad
they need (R35). -/
def Waiter.seated (s : State) (w : Waiter) (cand : Nat) : Bool :=
  match w.lead with
  | none => true
  | some g =>
    let cs := candCores s cand w.team.pair
    let t := cs.foldl (fun s c => takeCore s g.ctx c) s
    !cs.all (coreOpen s g.ctx) || (seatAll (cs.map (roomOf t)) w.gs).isSome || (seatAll (cs.reverse.map (roomOf t)) w.gs).isSome

/-- The need for admission places or register banks of the team that comes first on a core in the order of R34, and of the one that the core
takes first (R35). Nothing is parked for scratchpad banks, which a PARKED team keeps (R193). -/
def admissionDemand (s : State) (core : Nat) : Option Demand :=
  if ((leastWaiter s (waitersOn s core)).toList ++ (firstWaiter s core).toList).any fun w => (w.target s).any fun c => !w.seated s c then
    some {}
  else none

/-- What a core parks groups for (R35, R113, R194). -/
def parkDemand (s : State) (core : Nat) : Option Demand :=
  (registerDemand s core).or ((modeDemand s core).or (admissionDemand s core))

/-- The rank of a team for parking, least first; none where a group of it may not be parked (R32, R35). A team whose groups are
eligible under different kinds counts under the latest of them (DESIGN CHOICE, log entry 51). A group whose argument slot waits for an
answer stays RESIDENT (R326), but where every other group counts as eligible (R113, R194). The team of the oldest register waiter is not
parked, nor that of the group whose mode change waits: a team is parked as a whole, its other groups included (R32; DESIGN CHOICE, log
entries 53 and 54). -/
def parkRank (s : State) (d : Demand) (t : Team) : Option (List Nat) :=
  let rs := t.groups.filterMap fun k => match s.group? k with
    | some g => if g.status = .resident then some (k, g) else none
    | none => none
  let kinds := rs.map fun p => match parkKind s p.2 with
    | some k => some k
    | none => if d.all || d.young then some 3 else none
  let newest := rs.foldl (fun n p => max n p.2.order) 0
  let kind := kinds.foldl (fun n k => max n (k.getD 0)) 0
  let held := rs.any fun p =>
    d.keep = some p.1 || !p.2.parkFaults.isEmpty || (!p.2.argFaults.isEmpty && !(d.all || d.young))
  if rs.isEmpty || held || kinds.contains none then none
  else some [if d.young then 0 else kind, 2 ^ 64 - newest]

/-- The team that a core parks next. -/
def nextPark (s : State) (core : Nat) : Option Nat :=
  match parkDemand s core with
  | none => none
  | some d =>
    let here := s.teams.filter fun p => (residentsOn s core).any fun g => g.2.team = p.1
    (here.filterMap fun p => (parkRank s d p.2).map fun r => (p.1, r)).foldl (fun (best : Option (Nat × List Nat)) p =>
      match best with
      | none => some p
      | some b => if keyLess p.2 b.2 then some p else some b) none |>.map (·.1)

/-! ### Parking -/

/-- The registers that an xrecv holds empty are full again (R111). -/
def Group.unreceive (g : Group) (e : Entry) : Group :=
  match e.block with
  | .rendezvous false _ _ reg w lanes => g.setFull ((upTo (2 ^ w)).flatMap fun j => lanes.map (vCode (reg + j)))
  | _ => g

/-- An entry opens at the first word of its sequence again (R85, R175). -/
def Group.rewind (g : Group) (st : Strand) (e : Entry) : Group := g.reopen st e e.seqPc []

/-- What parking does to one entry: arrivals and rgrow are undone, a sleep ends, a sequence of hints begins again, other waits stay
(R42, R85, R113, R115, R135). -/
def Group.parkEntry (g : Group) (st : Strand) (e : Entry) : Group :=
  match e.block with
  | .lanes .. | .rendezvous .. | .grow .. => (g.unreceive e).rewind st e
  | .sleep _ => g.completeEntry st e []
  | .ready | .regs _ | .pop .. | .push .. => if e.hints.isEmpty then g else g.rewind st e
  | _ => g

/-- A group without the effect of its yields, in no issue slot, and with its deadlock counts at 0 (R23, R136). -/
def Group.calm (g : Group) : Group :=
  let clear := fun (f : Frontier) => { f.map fun e => { e with yieldFor := [] } with beats := 0 }
  { g with frC := clear g.frC, frA := clear g.frA, threads := g.threads.map fun t => { t with deadlock := 0 } }

/-- Outstanding reads of pmval complete (R111). -/
def answerSlow (s : State) (gk : Nat) : State :=
  match s.group? gk with
  | none => s
  | some g => g.slow.foldl (fun s r => deliverAll (s.setGroup gk fun g => { g with slow := g.slow.erase r }) gk
      (csrResult r.strand ⟨BitVec.ofNat 7 r.reg, 0x041#12⟩ r.lane (monitorItem s g.core g.ctx r.pmsel))) s

/-- A group as it leaves RESIDENT for a slot of the spill area. -/
def Group.leave (g : Group) (slot order : Nat) : Group :=
  let g := g.frC.entries.foldl (fun g e => g.parkEntry .comp e) g
  let g := g.frA.entries.foldl (fun g e => g.parkEntry .addr e) g
  let g := ((g.flushWindow .comp).flushWindow .addr).calm
  { g with status := .parked, order := order, waited := 0, waitDue := false, idle := 0, resided := 0, idleDue := false,
           residedDue := false, spillSlot := some slot, parkFaults := [], owed := [] }

/-- The lowest free image slots of a context, one for each of some groups. -/
def spillSlots (s : State) (c n : Nat) : List Nat :=
  match s.ctx? c with
  | none => []
  | some x => ((upTo (min x.spillSlots (n + x.spillUsed.length))).filter fun k => !x.spillUsed.contains k).take n

/-- Park one group into an image slot. -/
def parkGroup (s0 : State) (gk slot : Nat) : State :=
  let s := answerSlow s0 gk
  let s := { s with stamp := s.stamp + 1 }.setGroup gk fun g => g.leave slot s.stamp
  match s.group? gk with
  | none => s
  | some g =>
    let s := s.setCtx g.ctx fun x => { x with spillUsed := x.spillUsed ++ [slot] }
    match areaWrite s g.ctx (spillSlotVa s g.ctx slot) g.image with
    | .ok s => s
    | .error (.cause c) => contextFatal s g.ctx (areaCause 1 c) g.spillSite
    | .error (.replay ..) => s

/-- Park the RESIDENT groups of a team (R32, R35, R114, R433). A translation fault on an image slot is reported, and nothing is
parked until it is answered. (DEDUCED, log entry 25.) -/
def parkTeam (s : State) (tk : Nat) : State :=
  let gs := s.groups.filter fun p => p.2.team = tk && p.2.status = .resident
  match gs with
  | [] => s
  | (k, g) :: _ =>
    let slots := spillSlots s g.ctx gs.length
    if slots.length < gs.length then
      let last := ((gs.drop slots.length).headD (k, g)).2
      contextFatal s g.ctx ⟨0x046, last.gid, 0⟩ last.spillSite
    else
      match slots.findSome? fun n => areaCheck s g.ctx (spillSlotVa s g.ctx n) 65536 with
      | some e => spillStop s k g e
      | none => (gs.zip slots).foldl (fun s p => parkGroup s p.1.1 p.2) s

/-- GROUP_PARK (R35, R113, R194): the core of a group parks it, where its team is the next that the core parks. -/
def execGroupPark (gk : Nat) (s : State) : Host.Outcome State Fault Refusal :=
  .next (match s.group? gk with
    | none => s
    | some g =>
      if g.status = .resident && ctxRuns s g.ctx && nextPark s g.core = some g.team then parkTeam s g.team else s)

/-! ### Retirement -/

/-- Whether the counters of a DRAINING group read zero and its accesses have been performed (R36). -/
def Group.mayRetire (g : Group) : Bool :=
  g.status = .draining && g.ops.all (·.ended) && g.accs.all fun a => a.performed

/-- The slots that a group has claimed are released (R197). -/
def releaseSlots (s : State) (gk core : Nat) : State :=
  s.setCore core fun c => { c with slots := c.slots.filter fun p => !(p.2.owner = gk && p.2.state != 0) }

/-- A group leaves its team; the last frees the team's scratchpad and slots (R36). -/
def leaveTeam (s : State) (gk tk : Nat) : State :=
  match s.team? tk with
  | none => s
  | some t =>
    let gs := t.groups.filter (· != gk)
    { s with teams := if gs.isEmpty then SMap.erase s.teams tk else SMap.modify s.teams tk fun t => { t with groups := gs } }

/-- GROUP_RETIRE (R33, R36, R228, R231). -/
def execGroupRetire (gk : Nat) (s : State) : Host.Outcome State Fault Refusal :=
  .next (match s.group? gk with
    | none => s
    | some g =>
      if !g.mayRetire || ctxAway s g.ctx then s
      else
        let s := g.attach.foldl (fun s k => detachSegment s gk g.ctx k) s
        let s := leaveTeam (releaseSlots s gk g.core) gk g.team
        let s := { s with groups := SMap.erase s.groups gk,
                          trees := SMap.modify s.trees g.tree fun t => { t with rise := t.rise - 1 } }
        match SMap.find? s.trees g.tree with
        | some t => if t.rise = 0 then dropTreeSegments s g.ctx t.number else s
        | none => s)

/-! ### Evictions and seeds -/

/-- The banks that a core lacks for the context that holds it: of entries blocked for them, the team that comes first in the order of R34 or
is taken first, or a placement (R226, R230, R232, R233). -/
def banksWanted (s : State) (core : Nat) : Bool :=
  let lacks := fun (n : Nat) => (scrRun s (fun _ => false) core n).isNone
  (s.groups.any fun p => p.2.core = core && p.2.status = .resident
    && (p.2.frC.entries ++ p.2.frA.entries).any fun e => match e.block with
      | .banks n _ => lacks n
      | _ => false)
  || (((leastWaiter s (waitersOn s core)).toList ++ (firstWaiter s core).toList).any fun w =>
      (w.lead.map (·.ctx) = (s.core core).ctx) && (w.target s).any fun c => (candCores s c w.team.pair).all fun k =>
        decide ((freeBanks s (fun _ => false) k).length < w.scratch))
  || s.teams.any fun t => t.2.placing && t.2.core = some core && (t.2.groups.filterMap s.group?).any fun g =>
      (s.core core).ctx = some g.ctx && (namedSegments s g.ctx t.2.names).any fun p =>
        (p.2.state = 2 || (p.2.state = 0 && p.2.core / 2 != core / 2 && p.2.attachments = 0)) && lacks p.2.banks

/-- SEGMENT_EVICT (R233): with banks wanted, and no eviction in progress on the core, the scheduler starts one. -/
def execSegmentEvict (core : Nat) (s : State) : Host.Outcome State Fault Refusal :=
  let busy := s.ctxs.any fun c => c.2.segments.any fun p => p.2.core = core && p.2.state = 1
  .next (match evictionVictim s core with
    | some (c, k, _) =>
      if banksWanted s core && !busy && ctxRuns s c then s.setSeg c k fun x => { x with state := 1 } else s
    | none => s)

/-- SEED_START (R232 steps 3 and 4): the named segments of the launch in progress are placed, and its seed then waits for
admission. -/
def execSeedStart (q : Nat) (s : State) : Host.Outcome State Fault Refusal :=
  .next (match (s.queue q).stage with
    | .placing tree =>
      match s.groups.find? fun p => p.2.tree = tree with
      | none => s
      | some (_, g) => match s.team? g.team with
        | none => s
        | some t =>
          if !ctxRuns s g.ctx then s
          else
            let s := placeTeam s g.team t g.ctx
            match s.team? g.team with
            | some t => if t.placing then s else s.setQueue q fun h => { h with stage := .running tree }
            | none => s
    | _ => s)

end Sys2Proof.Machine
end

