-- ==== Sys2Proof/Machine/Events.lean ====
section
/-! DEFINITION. Events: residency and waiters (R355, R356) and the event instructions (R357). -/

namespace Sys2Proof.Machine

open Sys2Proof

/-! ### Events at their home -/

/-- The resident entry of an event. -/
def eventRec (s : State) (c n : Nat) : Option EventRec := s.events.find? fun e => e.ctx = c && e.name = n

/-- The state of an event, at its resident entry or in the context's event image (R355). -/
def eventState (s : State) (c n : Nat) : Bool :=
  match eventRec s c n, s.ctx? c with
  | some e, _ => e.state
  | none, some x => SMap.get false x.eventBits n
  | none, none => false

/-- Change the image of an event. -/
def setImage (s : State) (c n : Nat) (b : Bool) : State :=
  s.setCtx c fun x => { x with eventBits := SMap.put false x.eventBits n b }

/-- Change the resident entry of an event. -/
def setEventRec (s : State) (c n : Nat) (f : EventRec → EventRec) : State :=
  { s with events := s.events.map fun e => if e.ctx = c && e.name = n then f e else e }

/-- Whether a waiter still waits for event `n` of a context. -/
def waitsFor (s : State) (c n : Nat) : EvWaiter → Bool
  | .entry g id => match (s.group? g).bind fun x => if x.ctx = c then x.entry? .addr id else none with
    | some e => match e.block with
      | .event m _ _ => m = n
      | _ => false
    | none => false
  | .queue q => (s.queue q).stage = .event n && (s.queue q).bound = some c

/-- Whether a resident entry may be freed: it has no waiter, in hardware or in the overflow area (R356). -/
def EventRec.idle (s : State) (e : EventRec) : Bool :=
  !(e.waiters.any (waitsFor s e.ctx e.name)) && match s.ctx? e.ctx with
    | some x => !x.overflow.any fun w => w.1 = e.name && waitsFor s e.ctx e.name w.2
    | none => true

/-- The entries of the resident event table (R355). -/
def residentMax : Nat := 4096

/-- An instruction or packet reaches an event: it becomes resident where an entry is free, or can be freed (R356). -/
def reachEvent (s : State) (c n : Nat) : State :=
  if (eventRec s c n).isSome then s
  else
    let add := fun (s : State) => { s with events := s.events ++ [{ ctx := c, name := n, state := eventState s c n }] }
    if s.events.length < residentMax then add s
    else match s.events.find? (·.idle s) with
      | some e => add { setImage s e.ctx e.name e.state with events := s.events.filter fun x => !(x = e) }
      | none => s

/-- The 16-byte record of a waiter at place `i` of the overflow area, whose layout no rule gives (R339; DESIGN CHOICE, log entry 30). -/
def writeRecord (s : State) (c : Nat) (x : Context) (i : Nat) : State :=
  let t := { s with free := s.free + 1 }
  match igierWrite t c (x.ovBase + 16 * i) (openBytes s i 16) with
  | .ok t => t
  | .error _ => t

/-- List a waiter in the overflow area of its context, where a record is free (R339, R356). -/
def listWaiter (s : State) (c n : Nat) (w : EvWaiter) : Bool × State :=
  match s.ctx? c with
  | none => (false, s)
  | some x =>
    let live := x.overflow.filter fun o => waitsFor s c o.1 o.2
    if live.length < x.ovCount then
      (true, (writeRecord s c x live.length).setCtx c fun x => { x with overflow := live ++ [(n, w)] })
    else (false, s)

/-- Register a waiter: in the resident entry, else in the overflow list, else nowhere (R356). -/
def addWaiter (s : State) (c n : Nat) (w : EvWaiter) : Bool × State :=
  let live := fun (ws : List EvWaiter) => ws.filter (waitsFor s c n)
  match eventRec s c n with
  | some e => if (live e.waiters).length < 8 then
      (true, setEventRec s c n fun e => { e with waiters := live e.waiters ++ [w] })
    else listWaiter s c n w
  | none => listWaiter s c n w

/-- One waiter goes on: an entry at the next word with an acquire at its scope, a WAIT packet ends (R357, R332). -/
def releaseWaiter (s : State) (c n : Nat) (w : EvWaiter) : State :=
  if !waitsFor s c n w then s
  else match w with
    | .queue q => s.setQueue q fun h => { h with stage := .ended }
    | .entry gk id => match (s.group? gk).bind fun g => (g.entry? .addr id).map fun e => (g, e) with
      | some (g, e) =>
        let scope := match e.block with
          | .event _ sc _ => sc
          | _ => 0
        let s := if beyondCore scope (pairOf s g) then l1Invalidate s g.core else s
        s.setGroup gk fun g => g.completeEntry .addr e []
      | none => s

/-- The waiters of an event in the order of their release: hardware first, then the overflow list (R356). -/
def eventWaiters (s : State) (c n : Nat) : List EvWaiter :=
  ((eventRec s c n).map (·.waiters)).getD [] ++ match s.ctx? c with
    | some x => (x.overflow.filter fun o => o.1 = n).map (·.2)
    | none => []

/-- Write an event's state at its home (R355). -/
def writeEvent (s0 : State) (c n : Nat) (b : Bool) : State :=
  let s := reachEvent s0 c n
  if (eventRec s c n).isSome then setEventRec s c n fun e => { e with state := b } else setImage s c n b

/-- Set an event: every waiter and every overflow waiter is released (R357). -/
def setEvent (s0 : State) (c n : Nat) : State :=
  let s := writeEvent s0 c n true
  let ws := eventWaiters s c n
  let s := ws.foldl (fun s w => releaseWaiter s c n w) s
  (setEventRec s c n fun e => { e with waiters := [] }).setCtx c fun x =>
    { x with overflow := x.overflow.filter fun o => o.1 != n }

/-- The cycles between two reads of a waiter that found the overflow area full (R356). -/
def pollCycles : Nat := 65536

/-! ### The instructions -/

/-- The event that an instruction names (R355, R357). -/
def Act.eventName (a : Act) (aa : BitVec 5) : Nat := (a.a aa.toNat a.lead).toNat % 65536

/-- An event instruction acts once the accesses that order it have been performed (R249, R357). -/
def Act.ordered (a : Act) (releases : Bool) (go : State) : State :=
  let ids := waitsBefore a.g.accs a.lanes true releases false
  if ids.isEmpty then go else a.wait a.s (.accesses ids)

/-- An acquire at a scope by the issuing group (R252). -/
def Act.acquire (a : Act) (s : State) (scope : Nat) : State :=
  if beyondCore scope (pairOf s a.g) then l1Invalidate s a.g.core else s

/-- EVWAIT (R357). -/
def execEvwait (f : EvOps) (s : State) : Host.Outcome State Fault Refusal :=
  runWord (.evwait f) s fun a => a.ordered false (
    let n := a.eventName f.aa
    let scope := f.scope.toNat
    let s := reachEvent a.s a.g.ctx n
    if eventState s a.g.ctx n then a.advance (a.retire (a.acquire s scope) [])
    else
      let s := a.wait s (.event n scope none)
      let r := addWaiter s a.g.ctx n (.entry a.gk a.iss.entry.id)
      if r.1 then r.2
      else r.2.setGroup a.gk fun g => g.setBlock .addr a.iss.entry.id (.event n scope (some pollCycles)))

/-- EVSET (R357). -/
def execEvset (f : EvOps) (s : State) : Host.Outcome State Fault Refusal :=
  runWord (.evset f) s fun a => a.ordered (f.scope != 0#3) (
    let s := if f.scope = 0#3 then a.s
      else passOn a.s a.g.core (beyondCore f.scope.toNat (pairOf a.s a.g))
    a.advance (setEvent (a.retire s []) a.g.ctx (a.eventName f.aa)))

/-- EVCLR (R357). -/
def execEvclr (f : XaOps) (s : State) : Host.Outcome State Fault Refusal :=
  runWord (.evclr f) s fun a => a.ordered false (
    a.advance (writeEvent (a.retire a.s []) a.g.ctx (a.eventName f.aa) false))

/-- EVTEST (R357). -/
def execEvtest (f : EvdOps) (s : State) : Host.Outcome State Fault Refusal :=
  runWord (.evtest f) s fun a => a.ordered false (
    let n := a.eventName f.aa
    let s := reachEvent a.s a.g.ctx n
    let b := eventState s a.g.ctx n
    a.advance (a.retire (a.acquire s f.scope.toNat) (a.a1 f.ad fun _ => if b then 1#64 else 0#64)))

/-- EVENT_OVERFLOW_POLL (R356): a waiter that found the overflow area full reads the state again. -/
def execEventOverflowPoll (gk : Nat) (st : Strand) (id : Nat) (s : State) : Host.Outcome State Fault Refusal :=
  .next (match (s.group? gk).bind fun g => (g.entry? st id).map fun e => (g, e) with
    | none => s
    | some (g, e) => match e.block with
      | .event n scope (some 0) =>
        if st != .addr || !ctxRuns s g.ctx then s
        else
          let s := reachEvent s g.ctx n
          if eventState s g.ctx n then releaseWaiter s g.ctx n (.entry gk id)
          else s.setGroup gk fun g => g.setBlock .addr id (.event n scope (some pollCycles))
      | _ => s)

end Sys2Proof.Machine
end

