-- ==== Sys2Proof/Machine/Packets.lean ====
section
/-! DEFINITION. Igier: the doorbell (R330, R382), the service of packets (R331 to R335, R262, R371), and the polls of semaphores and of
ring CONS (R332, R338). -/

namespace Sys2Proof.Machine

open Sys2Proof

/-! ### Faults of packet work -/

/-- A packet's work cannot go on: a translation fault is reported and waits for its answer, any other cause fails the packet
(R335). -/
def igierStop (s : State) (q c : Nat) (e : Stop) : State :=
  match e with
  | .cause x => if fatalCode x.code then contextFatal s c x { strand := 2 } else failPacket s q x
  | .replay code va kind =>
    let r := reportFault s c code va kind { queue := q, strand := 2 }
    r.1.setQueue q fun h => { h with faultIds := [r.2], qcbFault := false }

/-- The QCB cannot be reached: a translation fault waits for its answer, any other cause loses the queue (R382). -/
def qcbStop (s : State) (q c : Nat) (e : Stop) (kind : Nat) : State :=
  match e with
  | .cause x => loseQueue s c q x.code kind
  | .replay code va kind =>
    let r := reportFault s c code va kind { queue := q, strand := 2 }
    r.1.setQueue q fun h => { h with faultIds := [r.2], qcbFault := true }

/-! ### Doorbells -/

/-- A bad doorbell or restart latches BLOCK_INVALID; a packet in progress runs to its end (R382). -/
def badQueue (s : State) (q off : Nat) : State :=
  let h := s.queue q
  let t := latchError s q ⟨0x140, h.qcb, off, h.ridx⟩
  if (t.queue q).lost then t else t.setQueue q fun x => { x with stage := h.stage, header := h.header }

/-- Take WIDX from a QCB (R382). -/
def takeWidx (s : State) (q x : Nat) : State :=
  let h := s.queue q
  let w := bitsOf x 191 128
  if w < h.ridx || h.ridx + 2 ^ h.log < w then badQueue s q 16 else s.setQueue q fun h => { h with widx := w }

/-- Igier reads the QCB after a doorbell: a halted queue whose HALT and ERR are clear restarts; WIDX is checked whether or not the queue is
halted (R330, R382). -/
def ringBell (s : State) (q c : Nat) : State :=
  let h := s.queue q
  match igierRead s c h.qcb 64 with
  | .error e =>
    let t := qcbStop s q c e 4
    if (t.queue q).lost then t else t.setQueue q fun h => { h with bell := true }
  | .ok bs =>
    let x := natOfBytes bs
    let s := s.setQueue q fun h => { h with bell := false }
    if bitOf x 256 || bitOf x 257 then takeWidx (s.setQueue q fun h => { h with halted := true }) q x
    else if !h.halted then takeWidx s q x
    else if bitsOf x 63 0 % 64 != 0 then badQueue s q 0
    else if bitsOf x 68 64 < 4 || 16 < bitsOf x 68 64 then badQueue s q 8
    else takeWidx (s.setQueue q fun h =>
      { h with halted := false, log := bitsOf x 68 64, ring := bitsOf x 63 0, vec := bitsOf x 95 80 }) q x

/-- DOORBELL (R330, R379, R380, R382): a store to the register of queue `n % 32` in the page of function `n / 32`; ignored for a queue that
is not the function's, is not bound, is being unbound, or is lost; one that waits for an answer about its QCB takes it then. -/
def execDoorbell (n : Nat) (s : State) : Host.Outcome State Fault Refusal :=
  let part := n / 32
  let q := n % 32
  let h := s.queue q
  .next (match h.bound with
    | none => s
    | some c =>
      if !s.up || h.unbinding || h.lost || SMap.get 0 s.queuePart q != part || h.part != part then s
      else if h.qcbFault then s.setQueue q fun h => { h with bell := true }
      else ringBell s q c)

/-! ### The service of packets -/

/-- Whether a record of a completed packet of the queue is still held for space (R338). -/
def doneHeldBack (s : State) (q c : Nat) : Bool :=
  match s.ctx? c with
  | some x => (x.ring 0).held.any fun r => r.getD 0 0 = 1 && r.getD 1 0 = q
  | none => false

/-- Whether Igier may begin the queue's next packet, as far as it knows without reading the QCB (R333). -/
def mayBegin (s : State) (q c : Nat) : Bool :=
  let h := s.queue q
  ctxRuns s c && !h.halted && !h.unbinding && h.faultIds.isEmpty && h.stage = .idle && h.ridx < h.widx && !doneHeldBack s q c

/-- The offending byte offsets of a packet (R331, R332, R335). (DEDUCED, log entry 27.) -/
def packetBreaches (s : State) (part x : Nat) : List Nat :=
  let when := fun (c : Bool) (off : Nat) => if c then [off] else []
  let scope := fun (c : Nat) => c = 1 || c = 2 || c = 7
  let type := bitsOf x 7 0
  when (5 < type) 0 ++ when (scope (bitsOf x 10 8) || scope (bitsOf x 13 11)) 1 ++ reservedBytes x [(63, 32)]
  ++ match type with
    | 0 => reservedBytes x [(511, 64)]
    | 2 | 3 => reservedBytes x [(191, 136), (511, 256)] ++ when (1 < bitsOf x 135 128) 16
        ++ (if bitsOf x 135 128 = 1 then reservedBytes x [(127, 80)] else [])
    | 4 => reservedBytes x [(135, 134), (511, 140)] ++ when (bitsOf x 133 128 = 0) 16
        ++ when (SMap.get 0 s.clusterPart (bitsOf x 139 136) != part) 17
    | 5 => reservedBytes x [(511, 128)]
    | _ => []

/-- Igier serves the next packet of a queue where its type is `type`: it reads HALT, reads the packet and checks it; `go` begins the
work (R333, R335). -/
def serve (s : State) (q type : Nat) (go : State → Nat → Nat → Except Stop State) : State :=
  let h := s.queue q
  match h.bound with
  | none => s
  | some c =>
    if !mayBegin s q c then s
    else match igierRead s c (h.qcb + 32) 1 with
      | .error e => qcbStop s q c e 4
      | .ok b =>
        if bitOf (natOfBytes b) 0 then s.setQueue q fun h => { h with halted := true }
        else
          let va := (h.ring + 64 * (h.ridx % 2 ^ h.log)) % 2 ^ 64
          match igierRead s c va 64 with
          | .error e => igierStop s q c e
          | .ok bs =>
            let x := natOfBytes bs
            match leastOf (packetBreaches s (ctxOwner s c).1 x) with
            | some off => failPacket s q ⟨0x140, va, off⟩
            | none =>
              if bitsOf x 7 0 != type then s
              else match go (s.setQueue q fun h => { h with header := bitsOf x 63 0 }) c x with
                | .ok s => s
                | .error e => igierStop s q c e

/-- The work of the packet in progress has ended. -/
def endWork (s : State) (q : Nat) : State := s.setQueue q fun h => { h with stage := .ended }

/-- NOP (R332). -/
def execNopPacket (q : Nat) (s : State) : Host.Outcome State Fault Refusal :=
  .next (serve s q 0 fun s _ _ => .ok (endWork s q))

/-- Start a launch: a tree, its seed as a team of one, and the core that R232 chooses (R334); a seed that fits no core of the partition is
fixed on the one that R432 ranks first of all, and waits there. (DEDUCED, log entry 24.) -/
def startLaunch (s : State) (q c : Nat) (k : Kernel) (names : List Nat) (args : List Byte) : State :=
  match s.ctx? c with
  | none => s
  | some x =>
    let tree := freshKey s s.trees
    let tk := freshKey s s.teams
    let gk := freshKey s s.groups
    let rank := chooseCore s c names k.prio false
    let core := ((rank (fitCores s k 1 false (partCores s x.part))).or (rank (partCores s x.part))).getD 0
    let s := s.setCtx c fun x => { x with launches := (x.launches + 1) % 2 ^ 32 }
    let g := newGroup c tree 0 tk core k 0 0 1 0xFFFFFFFF 4 args
    { s with
      trees := SMap.insert s.trees tree { ctx := c, number := x.launches, rise := 1, queue := q, order := s.stamp }
      teams := SMap.insert s.teams tk { groups := [gk], core := some core, placing := true, names := names }
      groups := SMap.insert s.groups gk g
      stamp := max s.stamp (max tree (max tk gk)) + 1 }.setQueue q fun h => { h with stage := .placing tree }

/-- LAUNCH (R232, R325, R334). -/
def execLaunch (q : Nat) (s : State) : Host.Outcome State Fault Refusal :=
  .next (serve s q 1 fun s c x => do
    let va := bitsOf x 127 64
    if va % 128 != 0 then throw (.cause (kernelCause va 0))
    let k ← parseKernel va (← igierRead s c va 128)
    let at_ := bitsOf x 191 128
    let listed ← if at_ = 0 then pure [] else do
      let y := natOfBytes (← igierRead s c at_ 32)
      pure (((upTo 4).map fun i => bitsOf y (64 * i + 63) (64 * i)).filter (· != 0))
    let names := if listed.isEmpty then k.starters else listed
    match names.find? fun n => (namedSegments s c [n]).isEmpty with
    | some n => throw (.cause ⟨0x101, n, 0⟩)
    | none => pure (startLaunch s q c k names ((bytesOfNat x 64).drop 24)))

/-- The physical place of a semaphore or block run: aligned, and in device memory, which no window and no address beyond the virtual space
is (R332, R335). -/
def devicePlace (s : State) (c va align kind : Nat) : Except Stop Nat :=
  if va % align != 0 then .error (.cause ⟨0x0A0, va, align⟩)
  else if windowBase ≤ va then .error (.cause ⟨0x0A3, va, 0⟩)
  else match igierRun s c kind [(va, 8)] with
    | .error e => .error e
    | .ok ps =>
      let pa := ((ps.head?).map (·.1)).getD 0
      match tierOf (normPA s pa) with
      | .hbm | .cxl => .ok pa
      | _ => .error (.cause ⟨0x0A3, va, 0⟩)

/-- Read the semaphore of a WAIT: its work ends where the value is at least `n` (R332, R371). -/
def readSemaphore (s : State) (q c va n : Nat) : Except Stop State :=
  (devicePlace s c va 8 4).map fun pa =>
    let r := readHome s pa 8
    r.2.setQueue q fun h => { h with stage := if n ≤ natOfBytes r.1 then .ended else .semaphore va n }

/-- Read the event of a WAIT, or wait for it (R332, R356). -/
def readEvent (s0 : State) (q c n : Nat) : State :=
  let s := reachEvent s0 c n
  if eventState s c n then endWork s q
  else
    let s := s.setQueue q fun h => { h with stage := .event n }
    if (eventWaiters s c n).contains (.queue q) then s else (addWaiter s c n (.queue q)).2

/-- WAIT (R332). -/
def execWait (q : Nat) (s : State) : Host.Outcome State Fault Refusal :=
  .next (serve s q 2 fun s c x =>
    if bitsOf x 135 128 = 1 then .ok (readEvent s q c (bitsOf x 79 64))
    else readSemaphore s q c (bitsOf x 127 64) (bitsOf x 255 192))

/-- Read a waiting queue's semaphore or event again (R332, R356). -/
def pollQueue (s : State) (q : Nat) : State :=
  let h := s.queue q
  match h.bound with
  | none => s
  | some c =>
    if !ctxRuns s c || !h.faultIds.isEmpty then s
    else match h.stage with
      | .semaphore va n => match readSemaphore s q c va n with
        | .ok s => s
        | .error e => igierStop s q c e
      | .event n => readEvent s q c n
      | _ => s

/-- SEMAPHORE_POLL (R332, R356). -/
def execSemaphorePoll (q : Nat) (s : State) : Host.Outcome State Fault Refusal := .next (pollQueue s q)

/-- The release of a packet at its REL scope: the L1s of the context's cores are written back (R252, R262). (DEDUCED, log entry 31.) -/
def packetRelease (s : State) (c header : Nat) : State :=
  if bitsOf header 13 11 = 0 then s
  else s.cores.foldl (fun s p => if p.2.ctx = some c then l1WriteBack s p.1 else s) s

/-- The queues that wait for a semaphore at a physical address read it again (R332). -/
def wakeSemaphores (s : State) (pa : Nat) : State :=
  s.queues.foldl (fun s p => match p.2.stage, p.2.bound with
    | .semaphore va _, some c => match devicePlace s c va 8 4 with
      | .ok x => if normPA s x = normPA s pa then pollQueue s p.1 else s
      | .error _ => s
    | _, _ => s) s

/-- SIGNAL (R332, R371): the release comes before the add or the set. -/
def execSignal (q : Nat) (s : State) : Host.Outcome State Fault Refusal :=
  .next (serve s q 3 fun s c x =>
    if bitsOf x 135 128 = 1 then .ok (endWork (setEvent (packetRelease s c x) c (bitsOf x 79 64)) q)
    else (devicePlace s c (bitsOf x 127 64) 8 3).map fun pa =>
      let s := packetRelease s c x
      let v := (readNat s pa 8 + bitsOf x 255 192) % 2 ^ 64
      wakeSemaphores (endWork (writeLine s (some c) pa (bytesOfNat v 8)) q) pa)

/-- Whether an address lies in the top 4 GiB of the canonical space, which holds the windows; one that is not canonical names none (R190).
-/
def namesWindow (va : Nat) : Bool := decide (windowBase ≤ va) && decide (va < 2 ^ 56)

/-- The offending bytes of a block of a COPY packet under R332: its flags, its Mask, and its window addresses, the bitmap's of a sparse copy
among them. -/
def copyPacketBreaches (x : Nat) : List Nat :=
  let when := fun (c : Bool) (off : Nat) => if c then [off] else []
  when ([368, 369, 370, 371, 372].any (blkFlag x)) 0x2E ++ reservedBytes x [(359, 344)]
  ++ when (namesWindow (blkSource x)) 0 ++ when (namesWindow (blkDest x)) 8 ++ when (blkFlag x 373 && namesWindow (blkAux x)) 0x30

/-- The operations of a COPY packet's blocks, or why one is refused (R293, R335). -/
def packetOps (core cyc stamp : Nat) : List (Nat × Nat) → Except Stop (List Op)
  | [] => .ok []
  | (va, x) :: rest =>
    match (leastOf (blockBreaches x)).or (leastOf (copyPacketBreaches x)) with
    | some off => .error (.cause ⟨0x140, va, off⟩)
    | none => (packetOps core cyc (stamp + 1) rest).map fun os =>
        { id := va, cls := 0, seq := 0, stamp := stamp, lane := 0, core := core, cyc := cyc, kind := .copy x 0 0 0 0,
          count := blockItems x } :: os

/-- COPY (R332, R335). -/
def execCopy (q : Nat) (s : State) : Host.Outcome State Fault Refusal :=
  .next (serve s q 4 fun s c x => do
    let va := bitsOf x 127 64
    let n := bitsOf x 133 128
    let _ ← devicePlace s c va 64 4
    let bs ← igierRead s c va (64 * n)
    let core := viewCore s (bitsOf x 139 136)
    let ops ← packetOps core (s.core core).cyc.toNat s.stamp
      ((upTo n).map fun i => (va + 64 * i, natOfBytes ((bs.drop (64 * i)).take 64)))
    pure ({ s with stamp := s.stamp + n }.setQueue q fun h => { h with stage := .copying ops }))

/-- VIEW_REG (R237, R239). -/
def execViewReg (q : Nat) (s : State) : Host.Outcome State Fault Refusal :=
  .next (serve s q 5 fun s c x => (viewPacket s c (bitsOf x 127 64)).map fun s => endWork s q)

/-! ### The end of a packet -/

/-- The tree of a launch whose work has ended, or none for another packet that has ended; an error while work remains (R333). -/
def workEnded (s : State) (h : HwQueue) : Option (Option (Nat × Tree)) :=
  match h.stage with
  | .ended => some none
  | .copying ops => if ops.all (·.ended) then some none else none
  | .running tree => match SMap.find? s.trees tree with
    | some t => if t.rise = 0 then some (some (tree, t)) else none
    | none => some none
  | _ => none

/-- PACKET_COMPLETE (R333): the release, the completion record, the interrupt, and RIDX. While the ring has no room for the record it is
held, and neither the interrupt nor RIDX comes before it is written (R338). A QCB that cannot be reached loses the queue; while the queue is
being unbound, one that does not translate holds the end of the packet up no longer (R382). (DEDUCED, log entry 28.) -/
def execPacketComplete (q : Nat) (s : State) : Host.Outcome State Fault Refusal :=
  let h := s.queue q
  .next (match h.bound, workEnded s h with
    | some c, some tree =>
      let done := fun (s : State) => match tree with
        | some t => { s with trees := SMap.erase s.trees t.1 }
        | none => s
      if !ctxRuns s c || (!h.faultIds.isEmpty && !(h.unbinding && h.qcbFault)) || doneHeldBack s q c then s
      else match reachQcb s c (h.qcb + 24), h.unbinding with
        | .bad e _, _ => done (loseQueue s c q e 5)
        | .replay code, false => qcbStop s q c (.replay code (h.qcb + 24) 5) 5
        | _, _ =>
          let s := packetRelease s c h.header
          let number := (tree.map fun t => t.2.number).getD 0
          let s := if bitOf h.header 15 then
              ringEmit s c 0 (mkRec 0x01 q 0xFFFF [h.ridx, bitsOf h.header 31 16, number, 0, 0, 0, 0])
            else s
          if doneHeldBack s q c then s.setQueue q fun h => { h with header := h.header % 2 ^ 11 + 2 ^ 14 * bitsOf h.header 14 14 }
          else
            let s := if bitOf h.header 14 then signalMsix s h.part h.vec else s
            let s := match igierWrite s c (h.qcb + 24) (bytesOfNat (h.ridx + 1) 8) with
              | .ok s => s
              | .error _ => s
            (done s).setQueue q fun h => { h with ridx := h.ridx + 1, stage := .idle, header := 0 }
    | _, _ => s)

/-- RING_CONS_POLL (R336, R338). -/
def execRingConsPoll (c r : Nat) (s : State) : Host.Outcome State Fault Refusal :=
  .next (if r < 4 then ringPoll s c r else s)

end Sys2Proof.Machine
end

