-- ==== Sys2Proof/Machine/Answers.lean ====
section
/-! DEFINITION. The answers to translation faults (R168, R424) and the invalidation of translations (R344). -/

namespace Sys2Proof.Machine

open Sys2Proof

/-! ### What an answer opens -/

/-- Whether every fault of a list has been answered. -/
def allAnswered (s : State) (c : Nat) (ids : List Nat) : Bool := ids.all fun i => (faultAnswer s c i).isSome

/-- The fault of a list that was refused, where one was. -/
def refusedOf (s : State) (c : Nat) (ids : List Nat) : Option FaultRec :=
  match s.ctx? c with
  | none => none
  | some x => x.faults.find? fun f => ids.contains f.id && f.answer = some true

/-- Whether a list of faults has been answered in full. -/
def answered (s : State) (c : Nat) (ids : List Nat) : Bool := !ids.isEmpty && allAnswered s c ids

/-- The cause of a refused fault (R168). -/
def FaultRec.cause (f : FaultRec) : Cause := ⟨0x0C4, f.va, f.kind⟩

/-- An entry whose faults have all been answered: it opens to issue again, the registers `held` are full as they were, and the members
with a refused page take PAGE_REFUSED (R111, R168). -/
def answerEntry (s : State) (gk : Nat) (st : Strand) (c : Nat) (e : Entry) (who : List FaultWait) (held : List Nat) : State :=
  if !answered s c (who.map (·.id)) then s
  else
    let s := syncImage (s.setGroup gk fun g => g.setFull held) gk held
    let bad := e.members.filterMap fun l =>
      (who.find? fun w => w.lane = l && faultAnswer s c w.id = some true).map fun w => (l, (⟨0x0C4, w.va, w.kind⟩ : Cause))
    let s := trapHeld s gk st e.seqPc bad
    s.setGroup gk fun g => match g.entry? st e.id with
      | some x => g.undo st x
      | none => g

/-- The entries of one strand of a group that wait for answers. -/
def answerStrand (s : State) (gk : Nat) (st : Strand) (c : Nat) : State :=
  match s.group? gk with
  | none => s
  | some g => (g.frontier st).entries.foldl (fun s e => match e.block with
      | .faults who mem => answerEntry s gk st c e who (mem.getD [])
      | _ => s) s

/-- An operation of a group whose fault was refused fails as its kind lays down (R167, R168, R273, R304). -/
def refuseOp (s : State) (gk : Nat) (g : Group) (o : Op) (f : FaultRec) : State :=
  match o.kind with
  | .mat .. => matStop s gk g o (.cause f.cause)
  | .ldt .. | .tload .. => decodeStop s (.ofGroup gk o.id) o { g.who with core := o.core } (.cause f.cause)
  | _ => failOp s gk o f.cause

/-- An operation whose faults have all been answered goes on, and no address of it has faulted any more, or fails (R168, R180). -/
def answerOp (s : State) (gk : Nat) (g : Group) (o : Op) : State :=
  if o.ended || !answered s g.ctx o.faultIds then s
  else
    let bad := refusedOf s g.ctx o.faultIds
    let s := s.setGroup gk fun g => g.setOp o.id fun o =>
      { o with faultIds := [], faultVa := if bad.isSome then o.faultVa else 0 }
    match bad with
    | none => s
    | some f => refuseOp s gk g { o with faultIds := [] } f

/-- A group whose argument slot waits: it is written again, or its address strands take PAGE_REFUSED (R326). -/
def answerArgs (s : State) (gk : Nat) (g : Group) : State :=
  if !answered s g.ctx g.argFaults then s
  else
    let bad := refusedOf s g.ctx g.argFaults
    let s := s.setGroup gk fun g => { g with argFaults := [] }
    match bad with
    | none => writeArgs s gk
    | some f => argsFail s gk g 0x0C4 f.kind

/-- A group whose image slot waits: it may be parked or readmitted again, deliveries reach its image, or its context ends with
SAVE_AREA_FAULT (R433). -/
def answerPark (s : State) (gk : Nat) (g : Group) : State :=
  if !answered s g.ctx g.parkFaults then s
  else match refusedOf s g.ctx g.parkFaults with
    | none => syncImage (s.setGroup gk fun g => { g with parkFaults := [] }) gk []
    | some f => contextFatal s g.ctx ⟨0x047, f.va, 1⟩ g.spillSite

/-- What answers open in a group. -/
def answerGroup (s : State) (gk : Nat) : State :=
  match s.group? gk with
  | none => s
  | some g0 =>
    let s := answerStrand (answerStrand s gk .comp g0.ctx) gk .addr g0.ctx
    let s := g0.ops.foldl (fun s o => match s.group? gk with
      | some g => answerOp s gk g o
      | none => s) s
    match s.group? gk with
    | none => s
    | some g =>
      let s := answerArgs s gk g
      match s.group? gk with
      | none => s
      | some g => answerPark s gk g

/-- What an answer opens in the move of a segment (R433). -/
def answerSegment (s : State) (c k : Nat) (x : Segment) : State :=
  if !answered s c x.faultIds then s
  else match refusedOf s c x.faultIds with
    | none => s.setSeg c k fun x => { x with faultIds := [] }
    | some f => contextFatal s c ⟨0x047, f.va, 2⟩ {}

/-- What answers open in a queue about its QCB: a latch or a doorbell is taken again; a refusal loses the queue (R382). -/
def answerQcb (s : State) (q c : Nat) : State :=
  let h := s.queue q
  match refusedOf s c h.faultIds with
  | some f => loseQueue s c q 0x0C4 f.kind
  | none =>
    let s := s.setQueue q fun h => { h with faultIds := [], qcbFault := false }
    match h.latch with
    | some l => latchError s q l
    | none => if h.bell then ringBell s q c else s

/-- What answers open in a queue: its packet's work goes on, or the packet fails with PAGE_REFUSED (R335). -/
def answerQueue (s : State) (q c : Nat) : State :=
  let h := s.queue q
  if h.bound != some c then s
  else if answered s c h.faultIds then
    if h.qcbFault then answerQcb s q c
    else
      let s1 := s.setQueue q fun h => { h with faultIds := [] }
      match refusedOf s c h.faultIds with
      | some f => failPacket s1 q f.cause
      | none => s1
  else match h.stage with
    | .copying ops => match ops.find? fun o => !o.ended && answered s c o.faultIds with
      | none => s
      | some o => match refusedOf s c o.faultIds with
        | some f => failPacket s q f.cause
        | none => s.setQueue q fun h => { h with stage := h.stage.mapOps fun x =>
            if x.id = o.id then { x with faultIds := [] } else x }
    | _ => s

/-- What an answer opens in the refresh of a view engine (R244): a page refused to the publication of a failure ends the refresh. -/
def answerRefresh (s : State) (c k : Nat) (r : Refresh) : State :=
  if r.block.ctx != c || !answered s c r.faultIds then s
  else match refusedOf s c r.faultIds, r.cause with
    | none, _ => setRefresh s k fun x => { x with faultIds := [] }
    | some _, none => failRefresh s k r 0x0C4
    | some _, some cause =>
      ringEmit (endRefresh s k r) c 3
        (mkRec 0x34 0 (viewCore s k) [r.block.view, r.block.stack, packCoord (tileCoord r.view.desc r.block.tile), cause, r.gen.getD 0, 0, 0])

/-- Everything that the answers to a context's faults open. Refreshes go on while the context is out, the rest waits for its
resume (R183, R384). -/
def settleAnswers (s0 : State) (c : Nat) : State :=
  let done := match s0.ctx? c with
    | some x => (x.faults.filter fun f => f.answer.isSome).map (·.id)
    | none => []
  let s := s0.refreshing.foldl (fun s p => answerRefresh s c p.1 p.2) s0
  if !ctxRuns s c then s
  else
    let s := (groupsOf s c).foldl (fun s p => answerGroup s p.1) s
    let segs := match s.ctx? c with
      | some x => x.segments
      | none => []
    let s := segs.foldl (fun s p => answerSegment s c p.1 p.2) s
    let s := (queuesOf s c).foldl (fun s q => answerQueue s q c) s
    dropFaults s c done

/-- FAULTANS (R168, R380, R424): the answer to a fault of a context of the function; one that names no unanswered fault is
ignored. The bits that must be zero are ignored too (DEDUCED, log entry 16). -/
def execFaultans (part : Nat) (value : DWord) (s : State) : Host.Outcome State Fault Refusal :=
  let v := value.toNat
  let c := part * 64 + bitsOf v 45 40
  .next (match (if s.up then s.ctx? c else none) with
    | none => s
    | some x => match x.faults.find? fun f => f.seq = some (bitsOf v 31 0) && f.answer.isNone with
      | none => s
      | some f =>
        let fix := fun (y : FaultRec) => if y.id = f.id then { y with answer := some (bitOf v 32) } else y
        settleAnswers (s.setCtx c fun x => { x with faults := x.faults.map fix }) c)

/-! ### Invalidation -/

/-- Whether an access in flight used a translation that a command drops: the page is that of an entry still held, else of 64 KiB
(R344). -/
def Access.used (a : Access) (s : State) (g : Group) (hit : Nat → Nat → Bool) : Bool :=
  [a.va, a.va + a.size - 1].any fun va =>
    va < windowBase && match (tlbFind (s.core g.core).tlb g.ctx va).or (tlbFind (SMap.get [] s.dieTlb (g.core / 64)) g.ctx va) with
      | some e => hit e.base e.size
      | none => hit (va / 65536 * 65536) 65536

/-- The accesses of a context in flight that used translations which a command drops: accesses translate at issue, engine items as they
are performed (R344). -/
def inFlight (s : State) (c : Nat) (hit : Nat → Nat → Bool) : List (Nat × Nat) :=
  (groupsOf s c).flatMap fun p => (p.2.accs.filter fun a => !a.performed && a.used s p.2 hit).map fun a => (p.1, a.id)

/-- INVAL (R344): the store of the high word starts the command with the low word as last stored; the translations are dropped,
and the command runs until the accesses that used them have been performed. A store while a command runs is ignored, and a
reserved bit makes the command end without effect. -/
def execInval (part ctx : Nat) (hi : DWord) (s : State) : Host.Outcome State Fault Refusal :=
  let c := part * 64 + ctx
  let v := SMap.get {} s.invals c
  let low := v.low.toNat
  let high := hi.toNat
  let all := bitOf low 0
  let base := bitsOf low 55 16 * 65536
  let len := bitsOf high 39 0 * 65536
  .next (if !s.up || v.busy || 64 ≤ ctx || bitsOf low 63 56 != 0 || bitsOf low 15 1 != 0 || bitsOf high 63 40 != 0 then s
    else
      let hit := fun (b n : Nat) => all || (decide (b < base + len) && decide (base < b + n))
      let accs := inFlight s c hit
      let s := dropTranslations s c hit
      { s with invals := SMap.put {} s.invals c { v with busy := true, accs := accs } })

/-- INVALIDATION_COMPLETE (R344). -/
def execInvalidationComplete (part ctx : Nat) (s : State) : Host.Outcome State Fault Refusal :=
  let c := part * 64 + ctx
  let v := SMap.get {} s.invals c
  let waits := v.accs.any fun p => match s.group? p.1 with
    | some g => g.accs.any fun a => a.id = p.2 && !a.performed
    | none => false
  .next (if !v.busy || waits then s
    else { s with invals := SMap.put {} s.invals c { v with busy := false, accs := [] } })

end Sys2Proof.Machine
end

