-- ==== Sys2Proof/Machine/Contexts.lean ====
section
/-! DEFINITION. The host's commands over contexts and queues: creation (R169, R336, R348, R381), destruction (R383), binding and
unbinding (R330, R382). -/

namespace Sys2Proof.Machine

open Sys2Proof

/-! ### The command registers -/

/-- CTXCMD of a function reads `v` (R380). -/
def ctxReply (s : State) (part v : Nat) : State := { s with ctxcmd := SMap.put 0 s.ctxcmd part v }

/-- A refusal that gives a byte offset, 0xFF for one that names no byte (R380). -/
def refusalAt (off : Nat) : Nat := 2 + off * 256

/-- A store to CTXCMD: ignored while the register reads busy, else `go` (R380). -/
def ctxCommand (part : Nat) (s : State) (go : State → State) : Host.Outcome State Fault Refusal :=
  .next (if !s.up || SMap.get 0 s.ctxcmd part % 4 = 1 then s else go s)

/-- A command that names a context: refused with a non-zero reserved bit, or where `ok` refuses the context (R380). -/
def namedCommand (part v : Nat) (ok : Context → Bool) (s : State) (go : Nat → Context → State) : State :=
  let c := part * 64 + v % 64
  match (if v / 64 != 0 then none else s.ctx? c) with
  | none => ctxReply s part (refusalAt 0xFF)
  | some x => if ok x then go c x else ctxReply s part (refusalAt 0xFF)

/-! ### The context record -/

/-- The field in bytes `lo` to `hi` of a context record (R381). -/
def recField (x lo hi : Nat) : Nat := bitsOf x (8 * hi + 7) (8 * lo)

/-- Offset `off` where a field is bad. -/
def badField (bad : Bool) (off : Nat) : List Nat := if bad then [off] else []

/-- The offending bytes that a context record shows by itself (R339, R345, R381). -/
def recordBreaches (x : Nat) : List Nat :=
  let f := recField x
  reservedBytes x [(63, 52), (255, 192), (639, 584), (1023, 952)]
  ++ badField (f 0 7 % 65536 != 0 || tierOf (bitsOf x 51 0) != .hbm) 0
  ++ badField (f 8 15 % 4096 != 0) 8
  ++ badField (f 32 39 % 65536 != 0) 32
  ++ badField (f 48 55 % 128 != 0 || 2 ^ 51 ≤ f 48 55) 48
  ++ badField (f 56 63 % 16 != 0) 56
  ++ badField (f 64 71 % 256 != 0) 64
  ++ badField (if f 72 72 = 0 then f 64 71 != 0 else f 72 72 < 4 || 16 < f 72 72) 72
  ++ badField (f 80 87 % 32768 != 0) 80
  ++ badField (f 88 95 % 32768 != 0) 88
  ++ badField (f 96 103 % 16 != 0) 96
  ++ badField (f 114 114 != 0 && (f 114 114 < 12 || 24 < f 114 114)) 114
  ++ badField (f 115 115 != 0 && (f 115 115 < 4 || 16 < f 115 115)) 115
  ++ badField (63 < f 118 118) 118

/-- A ring from its control block, whose reserved bits are ignored (R5, R336; DESIGN CHOICE for the bits, DEDUCED for the rest, log
entry 29). -/
def ringOf (s : State) (block r : Nat) : Ring :=
  let x := readNat s (hostPA (block + 32 * r)) 32
  { base := bitsOf x 63 0, log := bitsOf x 68 64, vec := bitsOf x 95 80 }

/-- Whether a ring's fixed fields are in range (R336). -/
def Ring.valid (g : Ring) : Bool := 6 ≤ g.log && g.log ≤ 20 && g.base % 64 = 0 && g.base < 2 ^ 51

/-- The context that a record describes, before its tables are read (R381). -/
def contextOf (s : State) (part x : Nat) : Context :=
  let f := recField x
  { part := part, number := f 118 118, root := bitsOf x 51 0, saveBase := f 8 15, saveSize := f 16 23, spillBase := f 32 39,
    spillSlots := f 40 47, ringBlock := f 48 55, rings := (upTo 4).map (ringOf s (f 48 55)), seqBase := f 64 71,
    seqLog := f 72 72, poolBase := f 80 87, poolSize := f 88 95, ovBase := f 96 103, ovCount := f 104 107,
    profile := if f 108 113 = 0 then [] else (upTo 24).map fun b => bitsOf (f 108 113) (2 * b + 1) (2 * b),
    swap := if f 114 114 = 0 then 16 else f 114 114, sampling := f 115 115, tdi := f 116 117 }

/-- The records of a sequence table from handle `h` up, as numbers (R345, R348). -/
def seqRecords (s : State) (c base h : Nat) : Nat → Except Stop (List Nat)
  | 0 => .ok []
  | n + 1 => match igierRead s c (base + 256 * h) 256 with
    | .error e => .error e
    | .ok bs => (seqRecords s c base (h + 1) n).map fun xs => natOfBytes bs :: xs

/-- The trap vectors of a context as it is created (R169). -/
def readVectors (s : State) (c va : Nat) : Option (DWord × DWord) :=
  match igierRead s c va 16 with
  | .error _ => none
  | .ok bs =>
    let x := natOfBytes bs
    if bitsOf x 1 0 != 0 || bitsOf x 65 64 != 0 then none
    else some (BitVec.ofNat 64 (bitsOf x 63 0), BitVec.ofNat 64 (bitsOf x 127 64))

/-- The pool map of a context as it is created (R348). -/
def readSequences (s : State) (c : Nat) (x : Context) : Option Context :=
  match seqRecords s c x.seqBase 1 (handleCap x - 1) with
  | .error _ => none
  | .ok rs => x.claimAll rs

/-- A context from its record, or the lowest offending byte (R169, R336, R348, R381). The tables are read, through the new translation,
once the record itself is valid. (DEDUCED, log entry 33.) -/
def makeContext (s : State) (part x : Nat) : Except Nat (Nat × Context) :=
  let y := contextOf s part x
  let c := part * 64 + y.number
  let t := { s with ctxs := SMap.insert s.ctxs c y }
  match leastOf (recordBreaches x ++ badField (s.ctx? c).isSome 118) with
  | some off => .error off
  | none =>
    if !y.rings.all Ring.valid then .error 48
    else match readVectors t c (recField x 56 63), readSequences t c y with
      | some v, some z => .ok (c, { z with tvecC := v.1, tvecA := v.2 })
      | none, _ => .error 56
      | _, none => .error 64

/-- CTXCMD_CREATE (R380, R381). -/
def execCtxcmdCreate (part : Nat) (value : BitVec 60) (s : State) : Host.Outcome State Fault Refusal :=
  let v := value.toNat
  let addr := bitsOf v 51 0
  ctxCommand part s fun s =>
    if v / 2 ^ 52 != 0 || addr % 128 != 0 || 2 ^ 51 ≤ addr then ctxReply s part (refusalAt 0xFF)
    else match makeContext s part (readNat s (hostPA addr) 128) with
      | .error off => ctxReply s part (refusalAt off)
      | .ok (c, x) =>
        ctxReply { s with ctxs := SMap.insert s.ctxs c x } part 0

/-! ### Destruction -/

/-- The cores that a context holds. -/
def coresOf (s : State) (c : Nat) : List Nat := (s.cores.filter fun p => p.2.ctx = some c).map (·.1)

/-- A queue as it is free. -/
def freeQueue (s : State) (q : Nat) : State := { s with queues := SMap.erase s.queues q }

/-- QCMD of a function reads `v` (R380). -/
def queueReply (s : State) (part v : Nat) : State := { s with qcmd := SMap.put 0 s.qcmd part v }

/-- HALT is set in the QCB of a queue, where it can be written (R382, R383). -/
def haltQcb (s : State) (c q : Nat) : State :=
  let at_ := (s.queue q).qcb + 32
  match igierRead s c at_ 1 with
  | .error _ => s
  | .ok bs => match igierWrite s c at_ (bytesOfNat (natOfBytes bs ||| 1) 1) with
    | .ok s => s
    | .error _ => s

/-- A queue of a context that is destroyed halts and is unbound; an unbind that waited for it is done (R382, R383). -/
def dropQueue (c : Nat) (s : State) (q : Nat) : State :=
  let h := s.queue q
  let s := haltQcb s c q
  freeQueue (if h.unbinding then queueReply s h.part 0 else s) q

/-- End a context and free all that it holds (R383): work in flight, queues, faults, refreshes, registries, translations, buffers,
its number. Its L1 is not written back, and its frames have no last owner left, so that no later context reaches them before they are
zeroed (R204). -/
def destroyContext (s : State) (c : Nat) : State :=
  let s := removeGroups (settleFlights s c) c
  let s := (queuesOf s c).foldl (dropQueue c) s
  let s := (s.refreshing.filter fun p => p.2.block.ctx = c).foldl (fun s p => finishRefresh s p.2) s
  let s := dropTranslations { s with refresh := s.refresh.filter fun b => b.ctx != c,
                                     refreshing := s.refreshing.filter fun p => p.2.block.ctx != c,
                                     events := s.events.filter fun e => e.ctx != c } c fun _ _ => true
  let s := (coresOf s c).foldl zeroCore s
  { s with cores := s.cores.map fun p => (p.1, { p.2 with proofs := p.2.proofs.filter fun r => r.1 != c }),
           frames := s.frames.map fun p => (p.1, if p.2 = c then noOwner else p.2),
           ctxs := SMap.erase s.ctxs c }

/-- CTXCMD_DESTROY (R383). -/
def execCtxcmdDestroy (part : Nat) (value : BitVec 60) (s : State) : Host.Outcome State Fault Refusal :=
  ctxCommand part s fun s => namedCommand part value.toNat (fun _ => true) s fun c _ => ctxReply (destroyContext s c) part 0

/-! ### Queues -/

/-- A store to QCMD: ignored while it reads busy; refused with a non-zero bit that must be zero or for a queue of another
function; else `go` with the queue and the context (R379, R380). -/
def queueCommand (part v : Nat) (s : State) (go : Nat → Nat → State) : Host.Outcome State Fault Refusal :=
  let q := bitsOf v 4 0
  .next (if !s.up || SMap.get 0 s.qcmd part % 4 = 1 then s
    else if bitsOf v 7 5 != 0 || v / 2 ^ 14 != 0 || SMap.get 0 s.queuePart q != part then queueReply s part (refusalAt 0xFF)
    else go q (part * 64 + bitsOf v 13 8))

/-- The offending fields of a QCB that is bound (R330, R382). -/
def qcbBreaches (x : Nat) : List Nat :=
  reservedBytes x [(79, 69), (127, 96), (287, 267), (511, 448)]
  ++ badField (bitsOf x 63 0 % 64 != 0) 0
  ++ badField (bitsOf x 68 64 < 4 || 16 < bitsOf x 68 64) 8
  ++ badField (bitsOf x 191 128 != bitsOf x 255 192) 16
  ++ badField (bitOf x 256 || bitOf x 257) 32

/-- QCMD_BIND (R382). -/
def execQcmdBind (part : Nat) (value : BitVec 60) (s : State) : Host.Outcome State Fault Refusal :=
  queueCommand part value.toNat s fun q c =>
    let va := SMap.get 0 s.qcbaddr part
    let no := queueReply s part (refusalAt 0xFF)
    if (s.queue q).bound.isSome || (s.ctx? c).isNone || va % 64 != 0 then no
    else match igierRead s c va 64 with
      | .error _ => no
      | .ok bs =>
        let x := natOfBytes bs
        match leastOf (qcbBreaches x) with
        | some off => queueReply s part (refusalAt off)
        | none => queueReply (s.setQueue q fun _ =>
            { part := part, bound := some c, qcb := va, log := bitsOf x 68 64, ring := bitsOf x 63 0, vec := bitsOf x 95 80,
              widx := bitsOf x 191 128, ridx := bitsOf x 255 192 }) part 0

/-- QCMD_UNBIND (R382): HALT is set, in the QCB where it can be written, and QCMD reads busy until the queue is free. -/
def execQcmdUnbind (part : Nat) (value : BitVec 60) (s : State) : Host.Outcome State Fault Refusal :=
  queueCommand part value.toNat s fun q c =>
    let h := s.queue q
    if h.bound != some c then queueReply s part (refusalAt 0xFF)
    else
      queueReply ((haltQcb s c q).setQueue q fun h => { h with halted := true, unbinding := true }) part 1

/-- QUEUE_FREE (R382): the packet in progress has ended or failed, and the queue is freed. -/
def execQueueFree (q : Nat) (s : State) : Host.Outcome State Fault Refusal :=
  let h := s.queue q
  .next (if h.unbinding && h.stage = .idle && (h.faultIds.isEmpty || h.qcbFault) then queueReply (freeQueue s q) h.part 0 else s)

end Sys2Proof.Machine
end

