-- ==== Sys2Proof/Machine/Preempt.lean ====
section
/-! DEFINITION. Pre-emption and resume (R175 to R183, R234, R321, R384, R433): the fates of work in flight, the bytes of the save area,
the save, and the reload of what was saved from its bytes. Where R105, R170, R177, R180, R197, R198 and R321 lay down no place for an item,
the record shows it at a place of the model's, and the device keeps it (DESIGN CHOICE, log entry 10). -/

namespace Sys2Proof.Machine

open Sys2Proof

/-! ### The commands -/

/-- CTXCMD_PREEMPT (R384). -/
def execCtxcmdPreempt (part : Nat) (value : BitVec 60) (s : State) : Host.Outcome State Fault Refusal :=
  ctxCommand part s fun s => namedCommand part value.toNat (fun x => x.status = .running) s fun c _ =>
    (ctxReply s part 1).setCtx c fun x => { x with status := .preempting, command := true }

/-- CTXCMD_RESUME (R384). -/
def execCtxcmdResume (part : Nat) (value : BitVec 60) (s : State) : Host.Outcome State Fault Refusal :=
  ctxCommand part s fun s => namedCommand part value.toNat (fun x => x.status = .out) s fun c _ =>
    (ctxReply s part 1).setCtx c fun x => { x with status := .resuming, command := true, resumeFaults := [] }

/-! ### The fates of work in flight -/

/-- Every spawn of a context that is still queued is accepted, in queue order, before the save ends (R179, R329), with room in the rise
counter or without (R370; DESIGN CHOICE, log entry 53). -/
def acceptSpawns (s : State) (c : Nat) : State :=
  s.spawnQ.foldl (fun s p => p.2.foldl (fun s e =>
    if e.ctx != c || e.accepted then s
    else
      let r := acceptSpawn s e
      setSpawns r.1 p.1 fun x => if x.group = e.group && x.op = e.op then r.2 else x) s) s

/-- An access that has issued is performed, and delivered where its turn has come (R178, R179). -/
def saveAccess (s : State) (gk : Nat) (a : Access) : State :=
  match a.kind with
  | .loadA _ => fillLoad s gk a.id
  | _ => if a.owed = 0 then performAccess s gk a.id else deliverLoad s gk a.id

/-- A prefetch is cancelled (R182). -/
def cancelPrefetch (s : State) (gk : Nat) (g : Group) (o : Op) : State :=
  match o.kind with
  | .pft _ _ comp ab part =>
    if o.ended then s
    else endOp (dropSectors (if comp = 0 then writeToken s g ab 3 part else s) o true) gk o.id none
  | _ => s

/-- The KV tiles that begun attention passes of a core still have to take. -/
def attendLeft (s : State) (core : Nat) : Nat :=
  s.groups.foldl (fun n p => p.2.ops.foldl (fun n o =>
    if o.core = core && !o.ended && o.stall = .passed && o.kind.matOp = some 3 then n + (o.count - o.next) * o.kind.kvTiles else n) n) 0

/-- A begun attention pass runs to its end, or to a fault (R179). -/
def attendOn (s : State) (core : Nat) : Nat → State
  | 0 => s
  | n + 1 => attendOn (attendStep s core) core n

/-- The machine after an event. -/
def nextOr (s : State) : Host.Outcome State Fault Refusal → State
  | .next t => t
  | _ => s

/-- One step of the engines of a core that a matrix operation may wait for: the view engines, the two decode ports, the encode path, and the
matrix engine, whatever the operation that is next in it. -/
def matStep (s : State) (core : Nat) : State :=
  let s := ((s.refreshing.map (·.1) ++ s.refresh.map (·.stack)).eraseDups).foldl (fun s k => nextOr s (execViewRefresh k s)) s
  let s := [0, 1].foldl (fun s port => nextOr s (execTileDecode core port s)) s
  let s := nextOr s (execEncodeTile core s)
  let s := nextOr s (execAccumulatorRead core s)
  let s := nextOr s (execMatrixProductExecute core s)
  let s := nextOr s (execTopkExecute core s)
  attendStep s core

/-- The macz that an entry is blocked in: its tile, and the operations before it that have not ended (R314). -/
def maczOf (s : State) (g : Group) (e : Entry) : Option (Nat × List Op) :=
  match e.block with
  | .opsEnd ids => match (fetchWord s g e.pc).2 with
    | .word w => match decodeOp w with
      | some (.macz f) => some (f.tile.toNat, g.ops.filter fun o => ids.contains o.id && !o.ended)
      | _ => none
    | _ => none
  | _ => none

/-- The groups of a core that a context's macz waits in: whether the operations before it have still to run. -/
def maczWaits (s : State) (c core : Nat) : Bool :=
  (groupsOf s c).any fun p => p.2.core = core && p.2.frA.entries.any fun e =>
    (maczOf s p.2 e).any fun m => m.2.any fun o => o.faultIds.isEmpty

/-- The matrix operations before an issued macz run, with the tiles that they wait for, as far as no fault holds them up (R286). -/
def runBeforeMacz (s : State) (c core : Nat) : Nat → State
  | 0 => s
  | n + 1 => if maczWaits s c core then runBeforeMacz (matStep s core) c core n else s

/-- An issued macz is performed (R286, R314): the operations of its group before it have ended. One that a fault holds up is undone.
(DEDUCED, log entry 32.) -/
def performMacz (s : State) (gk : Nat) : State :=
  match s.group? gk with
  | none => s
  | some g => g.frA.entries.foldl (fun s e => match maczOf s g e with
      | some (tile, before) =>
        if !before.isEmpty then s
        else (setAccTile s g.core tile fun _ => {}).setGroup gk fun g => g.completeEntry .addr e []
      | none => s) s

/-- A bound on the steps that the matrix operations of a core, the tiles that they wait for, those ahead of them, and the refreshes in
progress take. -/
def matLeft (s : State) (core : Nat) : Nat :=
  (coreOps s core).foldl (fun n x => n + 2 * x.2.count * (x.2.kind.kvTiles + 1) + 2) (16 * (s.refresh.length + s.refreshing.length))

/-- A prefix split that waits for the port of its core is undone (R175). -/
def undoSplits (s : State) (gk : Nat) : State :=
  s.setGroup gk fun g => g.frA.entries.foldl (fun g e => match e.block with
    | .port .. => g.rewind .addr e
    | _ => g) g

/-- Records of sampled tiles that were not yet written go to the telemetry ring, which holds them (R65). -/
def flushProofs (s : State) (c core : Nat) : State :=
  let mine := (s.core core).proofs.filter fun r => r.1 = c
  let s := s.setCore core fun k => { k with proofs := k.proofs.filter fun r => r.1 != c }
  mine.foldl (fun s r => ringEmit s c 2 r.2) s

/-- Work in flight is brought to its fates (R176 step 1, R179, R182). -/
def settleWork (s : State) (c : Nat) : State :=
  let s := (groupsOf s c).foldl (fun s p => undoSplits s p.1) (acceptSpawns s c)
  let s := (groupsOf s c).foldl (fun s p => p.2.accs.foldl (fun s a => saveAccess s p.1 a) s) s
  let s := (groupsOf s c).foldl (fun s p => answerSlow s p.1) s
  let s := (groupsOf s c).foldl (fun s p => p.2.ops.foldl (fun s o => cancelPrefetch s p.1 p.2 o) s) s
  let s := (coresOf s c).foldl (fun s k => attendOn s k (attendLeft s k)) s
  let s := (coresOf s c).foldl (fun s k => runBeforeMacz s c k (matLeft s k)) s
  let s := (groupsOf s c).foldl (fun s p => performMacz s p.1) s
  (coresOf s c).foldl (fun s k => flushProofs s c k) s

/-- What pre-emption does to one entry: an instruction blocked is undone at the first word of its sequence, a sleep ends, an entry whose
accepted ldt or stt is still to reach its pages goes on; a popping stt, a load, store or atomic that waits for an answer, and a wait
released while the group was parked stay (R85, R111, R135, R175, R179). -/
def Group.saveEntry (g : Group) (st : Strand) (e : Entry) : Group :=
  match e.block with
  | .stt _ | .faults _ (some _) | .barrier _ _ _ _ (some _) => g
  | .sleep _ | .tile _ => g.completeEntry st e []
  | .ready => if e.hints.isEmpty then g else g.rewind st e
  | _ => (g.unreceive e).rewind st e

/-- A group at the boundary, its forwarding windows written back and its turn ages at 0; of the threads in its entries' waits nothing is
left but what `saveEntry` keeps (R23, R175, R176 step 2, R178). -/
def Group.atBoundary (g : Group) : Group :=
  let g := g.frC.entries.foldl (fun g e => g.saveEntry .comp e) g
  let g := g.frA.entries.foldl (fun g e => g.saveEntry .addr e) g
  let g := ((g.flushWindow .comp).flushWindow .addr).calm
  { g with parkFaults := [], frC := { g.frC with turn := 0 }, frA := { g.frA with turn := 0 } }

/-! ### The bytes of the save area -/

/-- A list of bytes cut or filled to `n`, with free values. -/
def fillBytes (s : State) (place n : Nat) (bs : List Byte) : List Byte := (bs ++ openBytes s (place + bs.length) (n - bs.length)).take n

/-- The bytes of a code table as they were loaded (R216). -/
def tableBytes : List Nat → List Byte
  | [] => []
  | m :: ls => bytesOfNat (ls.length + m * 2 ^ 16) 8
      ++ (upTo (ceilDiv ls.length 2)).map fun i => BitVec.ofNat 8 (ls.getD (2 * i) 0 + ls.getD (2 * i + 1) 0 * 16)

/-- The code-table section (R177). -/
def codeSection (s : State) (x : Context) : List Byte :=
  (upTo 16).flatMap fun k => match SMap.find? x.codes k with
    | some t => fillBytes s (4096 + 256 * k) 256 (1#8 :: tableBytes t)
    | none => fillBytes s (4096 + 256 * k) 256 [0#8]

/-- The queue section of a group record from 0x1000 for one lane (R321). -/
def Thread.queueBytes (t : Thread) : List Byte :=
  (upTo 16).flatMap (fun i => bytesOfNat (t.qld.getD i 0#32).toNat 4) ++ (upTo 16).flatMap (fun i => bytesOfNat (t.qsd.getD i 0#32).toNat 4)
    ++ (upTo 4).flatMap (fun i => bytesOfNat (t.qac.getD i 0#64).toNat 8) ++ (upTo 4).flatMap fun i => bytesOfNat (t.qca.getD i 0#64).toNat 8

/-- The counts of a lane's queues (R321). -/
def Thread.queueCounts (t : Thread) : Nat :=
  t.qld.length % 32 + t.qac.length % 8 * 2 ^ 8 + t.qca.length % 8 * 2 ^ 12 + t.qsd.length % 32 * 2 ^ 16

/-- The number of a group's state in its record. -/
def GroupStatus.code : GroupStatus → Nat
  | .pending => 0
  | .resident => 1
  | .parked => 2
  | .draining => 3

/-- A frontier entry in a group record, 24 bytes: its PC; whether it is spilled or goes on popping an stt, and its priority; its wait
age; its members (DESIGN CHOICE, log entry 10). -/
def Entry.record (g : Group) (st : Strand) (spilled : Bool) (e : Entry) : List Byte :=
  let stt := match e.block with
    | .stt _ => true
    | _ => false
  bytesOfNat e.pc.toNat 7 ++ bytesOfNat ((if spilled then 1 else 0) + (if stt then 2 else 0) + entryPrio g st e * 2 ^ 4) 1
    ++ bytesOfNat e.age 8 ++ bytesOfNat (e.members.foldl (fun n l => n + 2 ^ l) 0) 8

/-- One byte for each lane: a half for each strand, the compute strand's low. -/
def Group.halves (g : Group) (f : StrandRegs → Nat) : List Byte :=
  (upTo 64).map fun l => BitVec.ofNat 8 (f (g.thread l).comp % 16 + f (g.thread l).addr * 16)

/-- The return stacks of a group, of each lane the compute strand's before the address strand's, 8 bytes an address. -/
def Group.stackBytes (g : Group) : List Byte :=
  (upTo 64).flatMap fun l => ((g.thread l).comp.stack ++ (g.thread l).addr.stack).flatMap fun x => bytesOfNat x.toNat 8

/-- The head of a group record: core, gid, team, state, spill slot, the six counters, MSTAT, the view status word, the numbers of entries,
the depths of the return stacks, the block priorities, the attach set by directory places, the entries of the two frontiers in their order
with the spill lists last, and the return stacks (R177, R178, R224, R236, R287). The manual gives it no layout, and no room for the return
stacks of every lane at their full depth: what does not fit is kept by the device (DESIGN CHOICE, log entry 10). -/
def recordHead (s : State) (g : Group) : List Byte :=
  let rows := fun (st : Strand) =>
    (g.frontier st).hw.map (Entry.record g st false) ++ (g.frontier st).spill.map (Entry.record g st true)
  let team := ((s.team? g.team).map (·.gid)).getD 0
  [g.core, g.gid, team, g.status.code].flatMap (fun x => bytesOfNat x 4)
    ++ bytesOfNat ((g.spillSlot.map (· + 1)).getD 0) 8 ++ (upTo 6).flatMap (fun cls => bytesOfNat (g.count cls) 4)
    ++ bytesOfNat g.mstat.toNat 4 ++ bytesOfNat g.vstat.toNat 4
    ++ [g.frC.entries.length, g.frA.entries.length].flatMap (fun n => bytesOfNat n 4)
    ++ g.halves (·.stack.length) ++ g.halves (·.bprio.toNat) ++ bytesOfNat (g.attach.foldl (fun n k => n ||| 2 ^ k) 0) 32
    ++ (rows .comp ++ rows .addr).flatten ++ g.stackBytes

/-- A group record of 16 KiB (R177, R321). -/
def groupRecord (s : State) (place : Nat) (g : Group) : List Byte :=
  fillBytes s place 0xF00 (recordHead s g) ++ (upTo 64).flatMap (fun l => bytesOfNat (g.thread l).queueCounts 4)
    ++ (upTo 64).flatMap fun l => (g.thread l).queueBytes

/-- A bank record: the contents, of a FIFO bank in ring order from the head, and 64 bytes that begin with core, bank, mode, and the counters
of free and filled slots (R177, R318; their widths: DESIGN CHOICE, log entry 10). -/
def bankRecord (s : State) (place : Nat) (b : Nat × Nat) : List Byte :=
  let mode := bankMode (s.core b.1) b.2
  let f := fifoOf s b.1 b.2
  let head := if mode = 3 then f.head * 32 else 0
  let counters := if mode = 3 then [2048 - f.filled, f.filled] else [0, 0]
  lsRead s b.1 (b.2 * 65536 + head) (65536 - head) ++ lsRead s b.1 (b.2 * 65536) head
    ++ fillBytes s place 64 (([b.1, b.2, mode] ++ counters).flatMap fun x => bytesOfNat x 4)

/-- The image of an operand slot (R197). -/
def Slot.image (x : Slot) : List Byte :=
  let t : Tile := x.tile.getD { fmt := 0, elems := [], mu := 0#128, subs := [], scale := 0#16, extra := 0#32, zrule := 0,
                                zpoint := 0, descAddr := 0, coord := 0 }
  bytesOfNat t.fmt 1 ++ bytesOfNat x.state 1 ++ bytesOfNat t.zrule 1 ++ bytesOfNat t.zpoint 1 ++ bytesOfNat t.extra.toNat 4
    ++ List.replicate 6 0#8 ++ bytesOfNat t.scale.toNat 2 ++ List.replicate 16 0#8
    ++ (upTo 16).flatMap (fun j => bytesOfNat (t.subs.getD j 0) 1) ++ bytesOfNat t.mu.toNat 16 ++ bytesOfNat t.coord 8
    ++ bytesOfNat t.descAddr 8 ++ List.replicate 176 0#8 ++ (upTo 256).flatMap (fun n => bytesOfNat (t.elems.getD n 0) 4)
    ++ List.replicate 2816 0#8

/-- The image of an accumulator tile and its row statistics (R177, R198). -/
def AccTile.image (t : AccTile) : List Byte :=
  (upTo 8192).flatMap (fun n => bytesOfNat (SMap.get 0#32 t.elems n).toNat 4)
    ++ (upTo 1024).flatMap fun n => bytesOfNat (SMap.get 0#32 t.stats n).toNat 4

/-- The block image of an operation, where it has one (R180). -/
def Op.blockImage (g : Group) (o : Op) : List Byte :=
  match o.kind with
  | .copy x .. => bytesOfNat x 64
  | .copyTile x .. => bytesOfNat x 64
  | .mat _ _ x .. => bytesOfNat x 64
  | .stt _ _ _ vs => if g.popping o.id then (upTo 256).flatMap fun n => bytesOfNat (SMap.get 0#32 vs n).toNat 4 else []
  | _ => []

/-- The fate of an operation that is outstanding at the boundary: 0 completed, 1 resumable, 2 failed (R180). -/
def Op.fate (o : Op) : Nat := if o.failed.isSome then 2 else if o.ended then 0 else 1

/-- The operations of a group that receive engine records, in issue order by class: those outstanding, with a failure not yet reported, or
completed by the pre-emption; a spawn receives none (R177, R179, R429). -/
def Group.recordOps (g : Group) : List Op :=
  (upTo 5).flatMap fun cls => g.ops.filter fun o => o.cls = cls && (!g.retired o || o.kept || (o.failed.isSome && !o.reported))

/-- The records of accesses that wait on replayable faults: kind 11, resumable (R179, R180). Their class is not laid down, nor how many
records an instruction gets and what they hold: one for each lane and page that faulted, of issue number 0 and one item (DESIGN CHOICE, log
entry 54). -/
def Group.accessRecords (s : State) (g : Group) : List (List Nat) :=
  (g.frC.entries ++ g.frA.entries).flatMap fun e => match e.block with
    | .faults who (some _) => who.map fun w =>
        [11 + 2 ^ 4 + (Config.freeWord s.free w.lane).toNat % 16 * 2 ^ 8 + w.lane * 2 ^ 16 + g.core * 2 ^ 24 + g.gid % 2 ^ 32 * 2 ^ 32,
          0, 1, 0, 0, w.va]
    | _ => []

/-- The words of the engine records of groups, and their block images, which begin at `base` (R177, R180). -/
def engineRecords (s : State) (base : Nat) (gs : List Group) : List (List Nat) × List Byte :=
  gs.foldl (fun r g =>
    let r := g.recordOps.foldl (fun (r : List (List Nat) × List Byte) o =>
      let img := o.blockImage g
      (r.1 ++ [opRecord g o o.fate (if img.isEmpty then 0 else base + r.2.length)], r.2 ++ img)) r
    (r.1 ++ g.accessRecords s, r.2)) ([], [])

/-- What a context saves: its groups, the banks of its scratchpads and FIFOs and of DROPPED segments, its claimed slots, and its cores,
whose accumulator tiles are saved (R177, R178). -/
structure SaveList where
  groups : List (Nat × Group)
  banks  : List (Nat × Nat)
  slots  : List (Nat × Nat × Slot)
  cores  : List Nat
  deriving DecidableEq, Repr

/-- The banks that a context saves as bank records. -/
def savedBanksOf (s : State) (c : Nat) : List (Nat × Nat) :=
  let teams := ((groupsOf s c).map (·.2.team)).eraseDups
  teams.flatMap (fun t => ((s.team? t).map (·.banks)).getD [])
    ++ (coresOf s c).flatMap (fun k => ((upTo 24).filter fun b => bankMode (s.core k) b = 3).map fun b => (k, b))
    ++ match s.ctx? c with
      | none => []
      | some x => (x.segments.filter fun p => p.2.state = 4).flatMap fun p => p.2.bankList.map fun b => (p.2.core, b)

/-- What a context saves now. -/
def saveListOf (s : State) (c : Nat) : SaveList :=
  { groups := (groupsOf s c).filter fun p => p.2.status != .pending,
    banks := savedBanksOf s c,
    slots := (coresOf s c).flatMap fun k => ((s.core k).slots.filter fun p => p.2.state != 0).map fun p => (k, p.1, p.2),
    cores := coresOf s c }

/-- The sections of a save area that begin after the code tables, each with its place (R177). -/
def placeSections (at_ : Nat) : List (List Byte) → List (Nat × List Byte)
  | [] => []
  | b :: rest => (at_, b) :: placeSections (at_ + ceilDiv b.length 4096 * 4096) rest

/-- The header (R177): counts, and the proof-sampling count of each logical core. -/
def saveHeader (s : State) (x : Context) (l : SaveList) (records images : Nat) : List Byte :=
  let open_ := (x.faults.filter fun f => f.answer.isNone).length
  let head := [1, l.groups.length, l.banks.length, records, open_, images].flatMap fun n => bytesOfNat n 8
  fillBytes s 0 4096 (fillBytes s 0 0x100 head ++ (upTo 256).flatMap fun k => bytesOfNat (SMap.get 0 x.samples k) 4)

/-- The sections of a context's save area by their places in it, the block images at their place last (R177). -/
def saveSections (s : State) (x : Context) (l : SaveList) : List (Nat × List Byte) :=
  let gs := l.groups.map (·.2)
  let fixed := [gs.flatMap (groupRecord s 0x10000), l.banks.flatMap (bankRecord s 0x20000),
    l.slots.flatMap (fun k => k.2.2.image) ++ l.cores.flatMap fun k => (upTo 8).flatMap fun t => (accOf s k t).image]
  let size := fun (bs : List Byte) => ceilDiv bs.length 4096 * 4096
  let n := 8192 + fixed.foldl (fun n b => n + size b) 0
  let count := (engineRecords s 0 gs).1.length
  let r := engineRecords s (x.saveBase + n + ceilDiv (64 * count) 4096 * 4096) gs
  let recs := r.1.flatMap fun w => (upTo 8).flatMap fun i => bytesOfNat (w.getD i 0) 8
  let images := (r.1.filter fun w => w.getD 3 0 != 0).length
  (0, saveHeader s x l r.1.length images) :: (4096, codeSection s x) :: placeSections 8192 (fixed ++ [recs, r.2])

/-- The bytes that sections take. -/
def sectionsEnd (xs : List (Nat × List Byte)) : Nat := xs.foldl (fun n x => max n (x.1 + x.2.length)) 0

/-! ### The save -/

/-- A step of the save: it goes on, or a fatal cause ends the context. -/
abbrev Saved := Except (State × Cause) State

/-- A write of the save, which waits for no fault: a failure ends the context with SAVE_AREA_FAULT (R433). -/
def saveWrite (s : State) (c info va : Nat) (bs : List Byte) : Saved :=
  match areaWrite s c va bs with
  | .ok s => .ok s
  | .error (.replay _ a _) => .error (s, ⟨0x047, a, info⟩)
  | .error (.cause e) => .error (s, areaCause info e)

/-- Run a step of the save over a list. -/
def saveAll {α : Type} (f : State → α → Saved) (s : State) : List α → Saved
  | [] => .ok s
  | x :: rest => match f s x with
    | .error e => .error e
    | .ok s => saveAll f s rest

/-- Every group is at its boundary. A RESIDENT or DRAINING group's window goes to an image slot, and a RESIDENT group leaves its core; what
a PARKED group's image is still owed reaches it (R114, R175, R176 steps 2 and 3). -/
def saveGroup (s0 : State) (c gk : Nat) : Saved :=
  let s := { s0 with stamp := s0.stamp + 1 }.setGroup gk Group.atBoundary
  match s.group? gk with
  | none => .ok s
  | some g => match g.status, g.spillSlot with
    | .pending, _ => .ok s
    | .parked, some n =>
      saveAll (fun s x => saveWrite s c 1 (spillSlotVa s c n + x.1) x.2) (s.setGroup gk fun g => { g with owed := [] })
        (g.owed.flatMap g.imageCells)
    | _, _ => match spillSlots s c 1 with
      | [] => .error (s, ⟨0x046, g.gid, 0⟩)
      | n :: _ =>
        let out := fun (g : Group) => if g.status = .draining then { g with spillSlot := some n } else
          { g with status := .parked, order := s.stamp, waited := 0, waitDue := false, idle := 0, resided := 0, idleDue := false,
                   residedDue := false, spillSlot := some n, owed := [] }
        saveWrite ((s.setGroup gk out).setCtx c fun x => { x with spillUsed := x.spillUsed ++ [n] }) c 1 (spillSlotVa s c n) g.image

/-- One segment is evicted (R234): its bytes reach its backing area and its entry reads EVICTED, with its place kept for the resume. A
move that has not landed is undone (R179). A DROPPED one, whose backing area the device touches no more (R229), keeps its entry, and its
banks are bank records. -/
def saveSegment (s : State) (c : Nat) (p : Nat × Segment) : Saved :=
  let x := p.2
  let leave := fun (x : Segment) => if x.core = noCore then x else
    { x with target := x.core, targetFirst := x.first, core := noCore }
  let gone := fun (x : Segment) => { leave x with state := if x.state = 4 then 4 else 2, faultIds := [], mover := none }
  let done := fun (s : State) =>
    if x.dropAfter && x.attachments = 0 then freeSegment (s.setSeg c p.1 gone) c p.1 else s.setSeg c p.1 gone
  if x.state = 2 then .ok s
  else if x.core = noCore || x.state = 4 then .ok (done s)
  else (saveWrite s c 2 x.backing (bankBytes s x.core x.first x.banks)).map done

/-- The events of a context at its pre-emption (R339): its resident entries are written back to its image, its thread waiters are
undone. Entries for which a packet waits stay. -/
def saveEvents (s : State) (c : Nat) : State :=
  let byQueue := fun (w : EvWaiter) => match w with
    | .queue _ => true
    | .entry .. => false
  let s := (s.events.filter fun e => e.ctx = c).foldl (fun s e => setImage s c e.name e.state) s
  let keep := fun (e : EventRec) => e.ctx != c || e.waiters.any fun w => byQueue w && waitsFor s c e.name w
  let strip := fun (e : EventRec) => if e.ctx = c then { e with waiters := e.waiters.filter byQueue } else e
  State.setCtx { s with events := (s.events.filter keep).map strip } c fun x =>
 { x with overflow := x.overflow.filter fun o => byQueue o.2 }

/-- What the device keeps of a context while it is out, beside the bytes of its save area: what the records are of (R177, R178). -/
def keepSaved (s : State) (l : SaveList) (len : Nat) (x : Context) : Context :=
  { x with
    savedModes := l.cores.map fun k => (k, (s.core k).modes),
    savedGroups := l.groups.map (·.1),
    savedBanks := l.banks,
    savedSlots := l.slots.map fun k => { core := k.1, slot := k.2.1, owner := k.2.2.owner, bad := k.2.2.bad },
    savedAcc := l.cores.flatMap fun k => (upTo 8).map fun t => { core := k, tile := t, bad := (accOf s k t).bad },
    saveLen := len }

/-- The save (R176): its steps in order, up to the record. The spec gives no group whose number SPILL_AREA_FULL could report for a save area
that is too small: its tval is free (DESIGN CHOICE, log entry 2). -/
def saveContext (s0 : State) (c : Nat) : Saved :=
  let s1 := (coresOf s0 c).foldl (fun s k => s.setCore k fun k => { k with switch := none }) s0
  match saveAll (fun s p => saveGroup s c p.1) s1 (groupsOf s1 c) with
  | .error e => .error e
  | .ok s => match s.ctx? c with
    | none => .ok s
    | some x =>
      let l := saveListOf s c
      let secs := saveSections s x l
      let len := sectionsEnd secs
      if 4096 * x.saveSize < len then .error ({ s with free := s.free + 1 }, ⟨0x046, (Config.freeWord s.free c).toNat, 0⟩)
      else
        let s2 := (s.setCtx c (keepSaved s l len))
        match saveAll (fun s b => saveWrite s c 0 (x.saveBase + b.1) b.2) { s2 with free := s2.free + 1 } secs with
        | .error e => .error e
        | .ok s =>
          let s := l.cores.foldl l1Invalidate s
          match saveAll (fun s p => saveSegment s c p) s x.segments with
          | .error e => .error e
          | .ok s => .ok (saveEvents (l.cores.foldl zeroCore s) c)

/-- PREEMPT_SAVE (R176, R384, R427): the boundary has been reached. Up to here the engines worked on and answers acted. (DEDUCED, log
entry 32.) -/
def execPreemptSave (c : Nat) (s : State) : Host.Outcome State Fault Refusal :=
  .next (match s.ctx? c with
    | none => s
    | some x =>
      if x.status != .preempting then s
      else
        let s := settleWork s c
        if !ctxRuns s c then s
        else match saveContext s c with
          | .error (s, e) => contextFatal s c e {}
          | .ok s => ringEmit (s.setCtx c fun x => { x with status := .out }) c 0
              (mkRec 0x02 0 0xFFFF [x.saveBase, 0, 0, 0, 0, 0, 0]))

/-! ### Resume -/

/-- A part of the save area's bytes. -/
def areaPart (area : List Byte) (at_ n : Nat) : List Byte := (area.drop at_).take n

/-- The code tables that the bytes of their section hold; an image that is not valid leaves its slot invalid (R177, R216). -/
def loadCodes (area : List Byte) : SMap (List Nat) :=
  (upTo 16).filterMap fun k =>
    let img := areaPart area (4096 + 256 * k) 256
    match bitOf (natOfBytes (img.take 1)) 0, parseTable (img.drop 1) with
    | true, .ok t => some (k, t)
    | _, _ => none

/-- The proof-sampling counts of the header (R65, R177). -/
def loadSamples (area : List Byte) : SMap Nat :=
  (upTo 256).filterMap fun k =>
    let n := natOfBytes (areaPart area (0x100 + 4 * k) 4)
    if n = 0 then none else some (k, n)

/-- The queues of a lane as a queue section holds them: counts, and the lane's 192 bytes (R321). -/
def Thread.loadQueues (t : Thread) (counts : Nat) (bs : List Byte) : Thread :=
  let x := natOfBytes bs
  let words := fun (off n : Nat) => (upTo n).map fun i => (BitVec.ofNat 32 (bitsOf x (8 * (off + 4 * i) + 31) (8 * (off + 4 * i))) : Word)
  let doubles := fun (off n : Nat) => (upTo n).map fun i => (BitVec.ofNat 64 (bitsOf x (8 * (off + 8 * i) + 63) (8 * (off + 8 * i))) : DWord)
  { t with
    qld := words 0 (min 16 (bitsOf counts 4 0)), qsd := words 64 (min 16 (bitsOf counts 20 16)),
    qac := doubles 128 (min 4 (bitsOf counts 10 8)), qca := doubles 160 (min 4 (bitsOf counts 14 12)) }

/-- A frontier entry as its 24 bytes in a group record hold it, and whether it is spilled (R178). -/
def Entry.load (e : Entry) (row : List Byte) : Entry × Bool :=
  let members := natOfBytes (areaPart row 16 8)
  ({ e with pc := BitVec.ofNat 56 (natOfBytes (areaPart row 0 7)), age := natOfBytes (areaPart row 8 8),
            members := (upTo 64).filter fun l => bitOf members l },
   bitOf (natOfBytes (areaPart row 7 1)) 0)

/-- A frontier with its entries as their rows in a group record hold them (R178). -/
def Frontier.load (f : Frontier) (rows : List Byte) : Frontier :=
  let es := ((upTo f.entries.length).zip f.entries).map fun p => p.2.load (areaPart rows (24 * p.1) 24)
  { f with hw := (es.filter fun e => !e.2).map (·.1), spill := (es.filter (·.2)).map (·.1) }

/-- A strand of a lane with its block priority and, where the record has room for the stacks, its return stack (R178). -/
def StrandRegs.load (r : StrandRegs) (prio : Nat) (stack : Option (List Byte)) : StrandRegs :=
  let r := { r with bprio := BitVec.ofNat 4 prio }
  match stack with
  | none => r
  | some bs => { r with stack := (upTo (bs.length / 8)).map fun i => BitVec.ofNat 56 (natOfBytes (areaPart bs (8 * i) 8)) }

/-- The half of a lane's byte that belongs to a strand. -/
def halfOf (st : Strand) (x : Nat) : Nat :=
  match st with
  | .comp => x % 16
  | .addr => x / 16

/-- A group with its queues, its frontiers with their wait ages, its return stacks, its block priorities, its attach set and its status
words as its record holds them (R178, R183, R224, R236, R287, R321). -/
def Group.loadRecord (g : Group) (rec_ : List Byte) : Group :=
  let field := fun (at_ n : Nat) => natOfBytes (areaPart rec_ at_ n)
  let rows := 24 * g.frC.entries.length
  let stacksAt := 224 + rows + 24 * g.frA.entries.length
  let depth := fun (l : Nat) (st : Strand) => halfOf st (field (64 + l) 1)
  let before := fun (l : Nat) => (upTo l).foldl (fun n k => n + depth k .comp + depth k .addr) 0
  let fits := decide (stacksAt + 8 * before 64 ≤ 0xF00)
  let strand := fun (l : Nat) (st : Strand) (r : StrandRegs) =>
    let at_ := stacksAt + 8 * (before l + match st with
      | .comp => 0
      | .addr => depth l .comp)
    r.load (halfOf st (field (128 + l) 1)) (if fits then some (areaPart rec_ at_ (8 * depth l st)) else none)
  { g with
    mstat := BitVec.ofNat 5 (field 48 4), vstat := BitVec.ofNat 32 (field 52 4),
    attach := let set := field 192 32
      g.attach.filter (bitOf set) ++ (upTo 256).filter fun k => bitOf set k && !g.attach.contains k,
    frC := g.frC.load (areaPart rec_ 224 rows), frA := g.frA.load (areaPart rec_ (224 + rows) (24 * g.frA.entries.length)),
    threads := (upTo g.width).map fun l =>
      let t := (g.thread l).loadQueues (field (0xF00 + 4 * l) 4) (areaPart rec_ (0x1000 + 192 * l) 192)
      { t with comp := strand l .comp t.comp, addr := strand l .addr t.addr } }

/-- Words of an image, those that are not zero. -/
def loadWords (img : List Byte) (n : Nat) : SMap Word :=
  (upTo n).filterMap fun i =>
    let w := natOfBytes (areaPart img (4 * i) 4)
    if w = 0 then none else some (i, BitVec.ofNat 32 w)

/-- An operation as its engine record of 64 bytes and its block image hold it: what has been done, its fate with the cause, the address
that faulted, and its block or the values it has popped (R180, R183); a failed tload goes on zeroing its slots (R304). A tile whose stream
had still to be read has no place in the record for the entry and the table that it had bound, and binds them anew (DESIGN CHOICE, log
entry 54). -/
def Op.load (g : Group) (o : Op) (rec_ : List Byte) (image : Nat → Nat → List Byte) : Op :=
  let x := natOfBytes rec_
  let block := bitsOf x 255 192
  let next := bitsOf x 191 160
  let cause : Cause := { o.failed.getD ⟨0, 0, 0⟩ with code := bitsOf x 104 96 }
  let zeroing := !o.ended && o.failed.isSome && match o.kind with
    | .tload .. => true
    | _ => false
  let o := { o with ended := bitsOf x 5 4 != 1 && !zeroing, failed := if bitsOf x 5 4 = 2 then some cause else none, faultVa := bitsOf x 383 320,
                    stall := if o.entry.isSome && o.cls != 2 then .unchecked else o.stall, entry := none, staged := [] }
  match o.kind with
  | .copy _ plane row pos taken => { o with kind := .copy (natOfBytes (image block 64)) plane row pos taken, next := next }
  | .copyTile _ d img => { o with kind := .copyTile (natOfBytes (image block 64)) d img, next := next }
  | .mat op va _ ds snaps ref => { o with kind := .mat op va (natOfBytes (image block 64)) ds snaps ref, next := next }
  | .stt d coord members _ =>
    if g.popping o.id then { o with kind := .stt d coord members (loadWords (image block 1024) 256), next := next } else o
  | .cpl .. | .vwsync .. => o
  | _ => { o with next := next }

/-- The numbers of operations with engine records, in the order of these (R177). -/
def Group.recordIds (g : Group) : List Nat := g.recordOps.map (·.id)

/-- The engine records of a group, from the record numbered `first`: its operations, then its accesses that wait for answers, each at its
address (R179, R180, R183). -/
def Group.loadOps (g : Group) (first : Nat) (record : Nat → List Byte) (image : Nat → Nat → List Byte) : Group :=
  let g1 := ((upTo g.recordIds.length).zip g.recordIds).foldl (fun (h : Group) p =>
    h.setOp p.2 fun o => o.load g (record (first + p.1)) image) g
  let wait := fun (r : List FaultWait × Nat) (w : FaultWait) =>
    (r.1 ++ [{ w with va := bitsOf (natOfBytes (record r.2)) 383 320 }], r.2 + 1)
  let entry := fun (r : List Entry × Nat) (e : Entry) => match e.block with
    | .faults who (some codes) =>
      let x := who.foldl wait ([], r.2)
      (r.1 ++ [{ e with block := .faults x.1 (some codes) }], x.2)
    | _ => (r.1 ++ [e], r.2)
  let cs := g1.frC.entries.foldl entry ([], first + g.recordIds.length)
  let as_ := g1.frA.entries.foldl entry ([], cs.2)
  let put := fun (f : Frontier) (es : List Entry) => { f with hw := es.take f.hw.length, spill := es.drop f.hw.length }
  { g1 with frC := put g1.frC cs.1, frA := put g1.frA as_.1 }

/-- A bank from its record: the contents, which begin at slot 0 of a FIFO bank, and the FIFO's counters (R177, R318). -/
def loadBank (s : State) (b : Nat × Nat) (rec_ : List Byte) : State :=
  let s := lsWrite s b.1 (b.2 * 65536) (rec_.take 65536)
  if bankMode (s.core b.1) b.2 = 3 then
    let n := min 2048 (natOfBytes (areaPart rec_ (65536 + 16) 4))
    setFifo s b.1 b.2 fun _ => { head := 0, tail := n % 2048, filled := n }
  else s

/-- An operand slot from its image (R197). -/
def loadSlot (k : SavedSlot) (img : List Byte) : Slot :=
  let f := fun (off n : Nat) => natOfBytes (areaPart img off n)
  let tile : Tile :=
    { fmt := f 0 1, zrule := f 2 1, zpoint := f 3 1, extra := BitVec.ofNat 32 (f 4 4), scale := BitVec.ofNat 16 (f 14 2),
      subs := (upTo 16).map fun j => f (32 + j) 1, mu := BitVec.ofNat 128 (f 48 16), coord := f 64 8, descAddr := f 72 8,
      elems := (upTo 256).map fun n => f (256 + 4 * n) 4 }
  { state := f 1 1 % 4, owner := k.owner, tile := if f 1 1 % 4 = 2 then some tile else none, bad := k.bad }

/-- An accumulator tile and its row statistics from its image (R198). -/
def loadAcc (k : SavedAcc) (img : List Byte) : AccTile :=
  { elems := loadWords img 8192, stats := loadWords (img.drop 32768) 1024, bad := k.bad }

/-- The number that a list gives each of its members with. -/
def numbered {α : Type} (xs : List α) : List (Nat × α) := (upTo xs.length).zip xs

/-- The sections of a save area are loaded: code tables, proof counts, group records, engine records with their block images, bank records,
engine memories (R177, R183). -/
def loadArea (s : State) (c : Nat) (x : Context) (area : List Byte) : State :=
  let page := fun (n : Nat) => ceilDiv n 4096 * 4096
  let banksAt := 8192 + page (16384 * x.savedGroups.length)
  let slotsAt := banksAt + page (65600 * x.savedBanks.length)
  let accAt := slotsAt + 4096 * x.savedSlots.length
  let recsAt := slotsAt + page (4096 * x.savedSlots.length + 36864 * x.savedAcc.length)
  let record := fun (i : Nat) => areaPart area (recsAt + 64 * i) 64
  let image := fun (va n : Nat) => areaPart area (va - x.saveBase) n
  let s := s.setCtx c fun x => { x with codes := loadCodes area, samples := loadSamples area }
  let s := (x.savedGroups.foldl (fun (r : State × Nat) k => match s.group? k with
    | some g => (r.1.setGroup k fun g => g.loadOps r.2 record image, r.2 + g.recordIds.length + (g.accessRecords s).length)
    | none => r) (s, 0)).1
  let s := (numbered x.savedGroups).foldl (fun s p => s.setGroup p.2 fun g =>
    g.loadRecord (areaPart area (8192 + 16384 * p.1) 16384)) s
  let s := (numbered x.savedBanks).foldl (fun s p => loadBank s p.2 (areaPart area (banksAt + 65600 * p.1) 65600)) s
  let s := (numbered x.savedSlots).foldl (fun s p => s.setCore p.2.core fun k =>
    { k with slots := SMap.insert k.slots p.2.slot (loadSlot p.2 (areaPart area (slotsAt + 4096 * p.1) 4096)) }) s
  (numbered x.savedAcc).foldl (fun s p => setAccTile s p.2.core p.2.tile fun _ =>
    loadAcc p.2 (areaPart area (accAt + 36864 * p.1) 36864)) s

/-- The segments of a resumed context: those that a saved group attaches are restored to where they lay; a DROPPED one has been
reloaded (R234). -/
def reloadSegment (attached : List Nat) (p : Nat × Segment) : Nat × Segment :=
  if !attached.contains p.1 then p
  else if p.2.state = 4 then (p.1, { p.2 with core := p.2.target, first := p.2.targetFirst })
  else (p.1, { p.2 with state := 3 })

/-- A context whose cores are free takes them with the bank modes that they had, and is reloaded from the bytes of its save area. A DRAINING
group's image slot is free again, and a vwsync whose refreshes have published meanwhile completes (R183, R281, R384). -/
def reloadContext (s : State) (c : Nat) (x : Context) (area : List Byte) : State :=
  let drained := (groupsOf s c).filter fun p => p.2.status = .draining
  let s := x.savedModes.foldl (fun s m => (takeCore s c m.1).setCore m.1 fun k => { k with modes := m.2 }) s
  let s := loadArea s c x area
  let attached := (groupsOf s c).flatMap fun p => p.2.attach
  let s := freeSpill s c (drained.filterMap fun p => p.2.spillSlot)
  let s := drained.foldl (fun s p => s.setGroup p.1 fun g => { g with spillSlot := none }) s
  let s := (groupsOf s c).foldl (fun s p => s.setGroup p.1 fun g =>
    ({ g with ops := g.ops.map fun o => { o with kept := false } } : Group).forgetOps) s
  let s := s.setCtx c fun x =>
    { x with status := .running, segments := x.segments.map (reloadSegment attached), savedModes := [], savedGroups := [],
             savedBanks := [], savedSlots := [], savedAcc := [], saveLen := 0 }
  settleAnswers (endSyncs (s.endCommand c) c) c

/-- CONTEXT_RESUME (R183, R384, R433): once the cores that the save names hold no other context, and the save area can be read. A
translation fault there is reported and waits for its answer. -/
def execContextResume (c : Nat) (s : State) : Host.Outcome State Fault Refusal :=
  .next (match s.ctx? c with
    | none => s
    | some x =>
      if x.status != .resuming then s
      else if !allAnswered s c x.resumeFaults then s
      else match refusedOf s c x.resumeFaults with
        | some f => contextFatal s c ⟨0x047, f.va, 0⟩ {}
        | none =>
          let s := (dropFaults s c x.resumeFaults).setCtx c fun x => { x with resumeFaults := [] }
          if !x.savedModes.all fun m => coreOpen s c m.1 then s
          else match igierRead s c x.saveBase x.saveLen with
            | .ok area => reloadContext s c x area
            | .error (.cause e) => contextFatal s c (areaCause 0 e) {}
            | .error (.replay code va kind) =>
              let r := reportFault s c code va kind { strand := 4 }
              r.1.setCtx c fun x => { x with resumeFaults := [r.2] })

end Sys2Proof.Machine
end

