-- ==== Sys2Proof/Machine/Registers.lean ====
section
/-! DEFINITION. The registers of a function's page that are not commands over contexts (R373, R375, R379, R380, R385, R389, R390). -/

namespace Sys2Proof.Machine

open Sys2Proof

/-- What the host does while the functions answer it. -/
def hostAct (s : State) (go : State → State) : Host.Outcome State Fault Refusal := .next (if s.up then go s else s)

/-! ### Monitors -/

/-- The `k`-th cluster of a partition (R380). -/
def clusterOfPart (s : State) (part k : Nat) : Option Nat := ((upTo 16).filter fun c => SMap.get 0 s.clusterPart c = part)[k]?

/-- Whether a configuration word holds no reserved value (R373). -/
def monitorWordOk (v : Nat) : Bool :=
  bitsOf v 62 57 = 0 && bitsOf v 23 21 = 0 && bitsOf v 15 8 = 0 && bitsOf v 39 32 ≤ 32 && bitsOf v 7 0 ≤ 6
    && (bitsOf v 31 24 < 16 || bitsOf v 31 24 = 0xFF)

/-- A snapshot that is due goes to the telemetry ring, its records together (R376). -/
def sendSnapshot (s : State) (cluster mon : Nat) : State :=
  let k := cluster * 32 + mon
  let m := s.monitor k
  let s := m.due.foldl (fun s r => ringEmit s (monitorCtx s cluster m) 2 r) s
  s.setMonitor k fun m => { m with due := [] }

/-- MONITOR_SNAPSHOT (R375, R376). -/
def execMonitorSnapshot (cluster mon : Nat) (s : State) : Host.Outcome State Fault Refusal := .next (sendSnapshot s cluster mon)

/-- MONCFG (R373). -/
def execMoncfg (part cluster mon : Nat) (value : DWord) (s : State) : Host.Outcome State Fault Refusal :=
  hostAct s fun s => match clusterOfPart s part cluster with
    | none => s
    | some cl =>
      if 32 ≤ mon || !monitorWordOk value.toNat then s
      else (sendSnapshot s cl mon).setMonitor (cl * 32 + mon) fun _ => { config := value }

/-! ### Domain, granules, correlation -/

/-- DOMAIN (R380, R389, R391): once links can train, with enable set, Barpor trains, which is step 5 of a bring-up that has not ended;
which ports find a partner is not the device's to say. (DESIGN CHOICE, log entry 38.) -/
def execDomain (value : DWord) (s : State) : Host.Outcome State Fault Refusal :=
  .next (if s.power != .d0 || s.bringup < 4 then s
    else
      let v := value.toNat
      { s with domain := bitsOf v 5 0, domainOn := bitOf v 8, free := s.free + 1,
               links := if bitOf v 8 then (upTo 16).filter (Config.freeBit s.free) else [],
               bringup := if bitOf v 8 then max 5 s.bringup else s.bringup })

/-- The last step of bring-up: the PF is enabled (R389). -/
def enableFunctions (s : State) : State := if s.power = .d0 && 4 ≤ s.bringup then { s with bringup := 6 } else s

/-- Whether a line lies in a range. -/
def lineIn (base len line : Nat) : Bool := decide (base ≤ line * 128) && decide (line * 128 < base + len)

/-- Lines of a range leave their slices, written back (R188, R205). -/
def dropLines (s : State) (base len : Nat) : State := dropHeld s (lineIn base len)

/-- Whether an access in flight touches a range of physical addresses (R205, R385). -/
def rangeInUse (s : State) (base len : Nat) : Bool :=
  s.groups.any fun p => p.2.accs.any fun a => !a.performed && a.pieces.any fun q =>
    decide (base < normPA s q.1 + q.2) && decide (normPA s q.1 < base + len)

/-- A granule passes to another partition, or to none: its lines are written back and leave their homes (R385). -/
def passGranule (s : State) (g : Nat) (now : Option Nat) : State :=
  let base := 2 ^ 44 + g * 2 ^ 28
  let s := { s with leaving := SMap.erase s.leaving g }
  if SMap.find? s.granules g = now then s
  else
    let s := dropLines s base (2 ^ 28)
    { s with granules := match now with
        | some p => SMap.insert s.granules g p
        | none => SMap.erase s.granules g }

/-- A granule that waits to leave its partition passes once no access to it is in flight (R205, R385). -/
def tryGranule (s : State) (g : Nat) : State :=
  match SMap.find? s.leaving g with
  | some now => if rangeInUse s (2 ^ 44 + g * 2 ^ 28) (2 ^ 28) then s else passGranule s g now
  | none => s

/-- EXTASN (R385): a granule that leaves a partition waits, as a cooperative release does, for the accesses in flight to it (R205). -/
def execExtasn (value : DWord) (s : State) : Host.Outcome State Fault Refusal :=
  hostAct s fun s =>
    let v := value.toNat
    let g := bitsOf v 15 0
    let part := bitsOf v 20 16
    if v / 2 ^ 22 != 0 || 16 < part then s
    else tryGranule { s with leaving := SMap.insert s.leaving g (if bitOf v 21 then some part else none) } g

/-- CORRSEL (R390): the core's cyc and the PTM time of the same cycle. -/
def execCorrsel (part core : Nat) (ptm : DWord) (s : State) : Host.Outcome State Fault Refusal :=
  hostAct s fun s =>
    if 256 ≤ core then s
    else { s with corrsel := SMap.put 0 s.corrsel part core, corrcyc := SMap.put 0#64 s.corrcyc part (s.core core).cyc,
                  corrptm := SMap.put 0#64 s.corrptm part ptm }

/-- REGISTER_WRITE (R380): QCBADDR, the low words of INVAL, and of the PF PWRCAP and SCANCTL; a write at any other offset is
ignored. -/
def execRegisterWrite (part off : Nat) (value : DWord) (s : State) : Host.Outcome State Fault Refusal :=
  hostAct s fun s =>
    let v := value.toNat
    if off = 0x2010 then { s with qcbaddr := SMap.put 0 s.qcbaddr part v }
    else if 0x1000 ≤ off && off < 0x1400 && off % 16 = 0 then
      let c := part * 64 + (off - 0x1000) / 16
      if (SMap.get {} s.invals c).busy then s
      else { s with invals := SMap.put {} s.invals c { SMap.get {} s.invals c with low := value } }
    else if off = 0x4000 && part = 0 && 1000 ≤ bitsOf v 11 0 && bitsOf v 11 0 ≤ 3000 then { s with pwrcap := bitsOf v 11 0 }
    else if off = 0x4010 && part = 0 then { s with scanctl := bitsOf v 31 8 * 256 + bitsOf v 2 0 }
    else s

/-- What a load of the register page of a function returns: a register's value for an aligned 64-bit load, zero for any other load, at any
other offset, and of a PF register in a VF (R344, R380). -/
def registerRead (s : State) (part off size : Nat) : DWord :=
  let inval := SMap.get {} s.invals (part * 64 + (off - 0x1000) / 16)
  let x :=
    if !s.up || size != 8 || off % 8 != 0 then 0
    else if 0x1000 ≤ off && off < 0x1400 then (if off % 16 = 0 && inval.busy then 1 else 0)
    else if off = 0x2000 then SMap.get 0 s.ctxcmd part
    else if off = 0x2018 then SMap.get 0 s.qcmd part
    else if 0x3000 ≤ off && off < 0x4000 then match clusterOfPart s part ((off - 0x3000) / 0x100) with
      | some cl => (s.monitor (cl * 32 + off % 0x100 / 8)).config.toNat
      | none => 0
    else if off = 0x5008 then (SMap.get 0#64 s.corrcyc part).toNat
    else if off = 0x5010 then (SMap.get 0#64 s.corrptm part).toNat
    else if part != 0 then 0
    else if off = 0x4000 then s.pwrcap
    else if off = 0x4008 then s.domain + (if s.domainOn then 2 ^ 8 else 0)
    else if off = 0x4010 then s.scanctl
    else 0
  BitVec.ofNat 64 x

/-! ### Partitions -/

/-- Whether a line of CXL memory has its home among the stacks of one of some partitions (R187). -/
def homedIn (s : State) (parts : List Nat) (line : Nat) : Bool :=
  tierOf (line * 128) = .cxl && match SMap.find? s.granules ((line * 128 - 2 ^ 44) / 2 ^ 28) with
    | some p => parts.contains p
    | none => false

/-- PARTITION_ASSIGN (R379): the PF gives a cluster, with its monitors and its two queues, to a partition. A cluster of which a context
holds a core, or a queue is bound, is not taken (DESIGN CHOICE, log entry 12). The CXL lines of both partitions leave homes that they may
lose (R187). -/
def execPartitionAssign (cluster part : Nat) (s : State) : Host.Outcome State Fault Refusal :=
  hostAct s fun s =>
    let qs := [2 * cluster, 2 * cluster + 1]
    let busy := (s.cores.any fun p => clusterOf p.1 = cluster && p.2.ctx.isSome) || qs.any fun q => (s.queue q).bound.isSome
    if 16 ≤ cluster || 16 < part || busy then s
    else
      let s := dropHeld s (homedIn s [SMap.get 0 s.clusterPart cluster, part])
      { s with clusterPart := SMap.put 0 s.clusterPart cluster part,
                  queuePart := qs.foldl (fun m q => SMap.put 0 m q part) s.queuePart }

end Sys2Proof.Machine
end

