-- ==== Sys2Proof/Machine/Fabric.lean ====
section
/-! DEFINITION. What happens in the memory system and on the links without an instruction: evictions (R188, R196, R256), errors (R189),
pooled capacity (R186, R205), Barpor and RDMA (R391). -/

namespace Sys2Proof.Machine

open Sys2Proof

/-! ### Evictions -/

/-- MSC_EVICTION (R188): a line leaves its slice, its dirty sectors written back. The bytes of a home are those of `State.mem`. (DESIGN
CHOICE, log entry 48.) -/
def execMscEviction (line : Nat) (s : State) : Host.Outcome State Fault Refusal := .next { s with msc := SMap.erase s.msc line }

/-- L1_EVICTION (R196, R256). -/
def execL1Eviction (core line : Nat) (s : State) : Host.Outcome State Fault Refusal := .next (l1Drop s core line)

/-! ### Errors -/

/-- The contexts of a partition. -/
def ctxsOfPart (s : State) (part : Nat) : List Nat := (s.ctxs.filter fun p => p.2.part = part).map (·.1)

/-- The partition that holds an address of HBM or CXL memory (R379, R385). -/
def partOfAddr (s : State) (pa : Nat) : Nat :=
  match tierOf pa with
  | .hbm => SMap.get 0 s.clusterPart (pa / 2 ^ 36)
  | .cxl => (SMap.find? s.granules ((pa - 2 ^ 44) / 2 ^ 28)).getD 0
  | _ => 0

/-- An uncorrectable error of a line: poison at its home, and one record in each context of the partition that holds it (R189, R337). -/
def poisonLine (s : State) (line tier : Nat) : State :=
  let s := { s with poison := SMap.insert s.poison line 0 }
  (ctxsOfPart s (partOfAddr s (line * 128))).foldl (fun s c => ringEmit s c 3 (mkRec 0x32 0 0xFFFF [line * 128, tier, 0, 0, 0, 0, 0])) s

/-- The context that holds a core ends with UNCORRECTABLE_STATE (R161, R189). -/
def structureError (s : State) (core structure_ : Nat) : State :=
  match (s.core core).ctx with
  | some c => contextFatal s c ⟨0x1C3, structure_, 0⟩ { core := core }
  | none => s

/-- ECC_UNCORRECTABLE (R161, R189; log entry 13): of kind 0 in HBM, 1 in an MSC slice, 2 in CXL memory, at a line; 3 in operand slot
64 × core + slot; 4 in accumulator tile 8 × core + tile; 5 to 7 in a window, control area or local store of a core; 8 in what is saved of
a context. -/
def execEccUncorrectable (line kind : Nat) (s : State) : Host.Outcome State Fault Refusal :=
  let pa := line * 128
  .next (match kind with
    | 0 => if tierOf pa = .hbm then poisonLine s line 0 else s
    | 1 => if (SMap.find? s.msc line).isSome then poisonLine s line 1 else s
    | 2 => if tierOf pa = .cxl then poisonLine s line 2 else s
    | 3 => s.setCore (line / 64) fun k => { k with slots := SMap.modify k.slots (line % 64) fun x => { x with bad := true } }
    | 4 => setAccTile s (line / 8) (line % 8) fun t => { t with bad := true }
    | 5 => structureError s line 0
    | 6 => structureError s line 1
    | 7 => structureError s line 2
    | 8 => match s.ctx? line with
      | some x => if x.status = .out || x.status = .resuming then contextFatal s line ⟨0x1C3, 3, 0⟩ {} else s
      | none => s
    | _ => s)

/-- An error that ECC corrects is counted, by kind, and changes nothing else (R189). -/
def eccCorrected (s : State) (kind : Nat) : State := { s with corrected := SMap.put 0 s.corrected kind (SMap.get 0 s.corrected kind + 1) }

/-! ### Pooled capacity -/

/-- Whether an extent lies in the CXL range of one port (R186). -/
def extentOk (base len : Nat) : Bool :=
  0 < len && tierOf base = .cxl && tierOf (base + len - 1) = .cxl && base / 2 ^ 42 = (base + len - 1) / 2 ^ 42

/-- Whether an extent meets a range. -/
def Extent.meets (e : Extent) (base len : Nat) : Bool := decide (e.base < base + len) && decide (base < e.base + e.len)

/-- DYNAMIC_CAPACITY_ADD (R186): capacity that no extent in use holds; what was revoked there is forgotten. -/
def execDynamicCapacityAdd (ext base len : Nat) (s : State) : Host.Outcome State Fault Refusal :=
  let kept := s.extents.filter fun p => !(p.2.revoked && p.2.meets base len)
  .next (if !extentOk base len || (kept.any fun p => p.1 = ext || p.2.meets base len) then s
    else { s with extents := SMap.insert kept ext { base := base, len := len } })

/-- EXTENT_RELEASE (R205): the device holds the release while lines drain. -/
def execExtentRelease (ext : Nat) (s : State) : Host.Outcome State Fault Refusal :=
  .next { s with extents := SMap.modify s.extents ext fun e => if e.revoked then e else { e with releasing := true } }

/-- Whether a line lies in an extent. -/
def Extent.hasLine (e : Extent) (line : Nat) : Bool := e.base ≤ line * 128 && line * 128 < e.base + e.len

/-- An extent leaves: the frames in it have no last owner left (R204). -/
def forgetFrames (s : State) (e : Extent) : State :=
  { s with frames := s.frames.map fun p => (p.1, if e.meets (p.1 * 65536) 65536 then noOwner else p.2) }

/-- EXTENT_RELEASE_ACK (R205): no dirty line is left and no access is in flight; the extent is gone. -/
def execExtentReleaseAck (ext : Nat) (s : State) : Host.Outcome State Fault Refusal :=
  .next (match SMap.find? s.extents ext with
    | none => s
    | some e =>
      if !e.releasing || rangeInUse s e.base e.len || (s.msc.any fun p => e.hasLine p.1 && p.2.dirty != 0#4) then s
      else { forgetFrames (dropLines s e.base e.len) e with extents := SMap.erase s.extents ext })

/-- The pages that a page table of a context maps: virtual address, size, physical address (R340 to R342). Only entries that memory
holds can be present. -/
def mappedPages (s : State) (table level va : Nat) : Nat → List (Nat × Nat × Nat)
  | 0 => []
  | fuel + 1 =>
    let cells := s.mem.filter fun p => table ≤ p.1 && p.1 < table + tableSize level
    let idx := (cells.map fun p => (p.1 - table) / 8).eraseDups
    idx.flatMap fun i =>
      let pte := readNat s (table + 8 * i) 8
      let here := va + i * pageSize level
      match judgeEntry level pte with
      | .absent => []
      | .leaf => [(here, pageSize level, bitsOf pte 51 8 * 256)]
      | .pointer next => mappedPages s next (level + 1) here fuel

/-- The EXTENT_REVOKED_DIRTY records of one context, each with the number of the lines lost that the context itself wrote (R205, R337).
(DEDUCED, and DESIGN CHOICE for the number, log entry 39.) -/
def revokeRecords (s : State) (c : Nat) (x : Context) (lost : List Nat) : State :=
  (mappedPages s x.root 0 0 4).foldl (fun s p =>
    let n := (lost.filter fun l => p.2.2 ≤ l * 128 && l * 128 < p.2.2 + p.2.1).length
    if n = 0 then s else ringEmit s c 3 (mkRec 0x33 0 0xFFFF [p.1, p.2.1, n, 0, 0, 0, 0])) s

/-- EXTENT_REVOKE (R205): dirty lines are discarded, the extent is poisoned, and each context whose writes made them dirty is told of its
pages. -/
def execExtentRevoke (ext : Nat) (s : State) : Host.Outcome State Fault Refusal :=
  .next (match SMap.find? s.extents ext with
    | none => s
    | some e =>
      if e.revoked then s
      else
        let lost := s.msc.filter fun p => e.hasLine p.1 && p.2.dirty != 0#4
        let s := s.ctxs.foldl (fun s p => revokeRecords s p.1 p.2 ((lost.filter fun l => l.2.writers.contains p.1).map (·.1))) s
        { forgetFrames (discardHeld s e.hasLine) e with
          extents := SMap.modify s.extents ext fun e => { e with releasing := false, revoked := true } })

/-! ### Links -/

/-- The payload of a request: its number of bytes in bits [7:0] of `data`, the bytes from bit 16 (DESIGN CHOICE, log entry 14). -/
def requestBytes (data : Nat) : List Byte := bytesOfNat (data / 2 ^ 16) (min 128 (data % 256))

/-- An atomic of a request at its home: the operation in bits [13:11], unsigned in bit 14; the operand, and for cas the new value above
it, as the payload (DESIGN CHOICE, log entry 14). -/
def requestAtomic (s : State) (addr data : Nat) : State :=
  let n := data % 256
  let old := readNat s addr n
  let v := data / 2 ^ 16 % 2 ^ (8 * n)
  let nv := data / 2 ^ (16 + 8 * n) % 2 ^ (8 * n)
  if (n != 4 && n != 8) || addr % n != 0 then s
  else match atomicNew (bitsOf data 13 11) (bitOf data 14) n old v nv with
    | some x => writeHome s addr (bytesOfNat x n)
    | none => (readHome s addr n).2

/-- A request of another agent is performed at a line's home by its shape in bits [10:8]: a write, an atomic, or a read or prefetch, which
fill the home slice and leave memory as it is. Its bytes lie in one line (R199, R391). -/
def homeRequest (s : State) (addr data : Nat) : State :=
  let bs := requestBytes data
  if bs.isEmpty || addr / 128 != (addr + bs.length - 1) / 128 then s
  else match bitsOf data 10 8 with
    | 1 | 3 => writeHome s addr bs
    | 4 => requestAtomic s addr data
    | _ => (readHome s addr bs.length).2

/-- BARPOR_FLIT (R199, R391): a flit that fails its CRC is replayed; else its request on a line of this package's HBM is taken, unless a
region bound to a TDI covers the line (R201). -/
def execBarporFlit (port : Nat) (crcOk : Bool) (addr data : Nat) (s : State) : Host.Outcome State Fault Refusal :=
  .next (if s.up && crcOk && s.domainOn && s.links.contains port && tierOf addr = .hbm && (regionAt s addr).isNone then homeRequest s addr data
    else s)

/-- BARPOR_LINK_DOWN (R391). -/
def execBarporLinkDown (port : Nat) (s : State) : Host.Outcome State Fault Refusal :=
  .next { s with links := s.links.filter (· != port) }

/-- RDMA_ACCESS (R391): an access to memory of a partition is performed at the line's home, while the device exposes more than its
configuration space and the recovery mailbox (R388, R389). -/
def execRdmaAccess (part : Nat) (write : Bool) (addr data : Nat) (s : State) : Host.Outcome State Fault Refusal :=
  .next (if s.up && (tierOf addr = .hbm || tierOf addr = .cxl) && homeCause s part 0 addr = none then
      homeRequest s addr (data / 2 ^ 16 * 2 ^ 16 + data % 256 + if write then 2 ^ 8 else 0)
    else s)

end Sys2Proof.Machine
end

