-- ==== Sys2Proof/Machine/Fetch.lean ====
section
/-! DEFINITION. The issue of a word by the entry that a strand chooses (R24 to R28, R130, R168), and the machine that a single
word is placed into (DESIGN CHOICE, log entry 1). -/

namespace Sys2Proof.Machine

open Sys2Proof

/-- The members of an entry wait for the answer to a fetch fault (R168). -/
def fetchFault (s : State) (gk : Nat) (g : Group) (st : Strand) (e : Entry) (code : Nat) : State :=
  let r := reportFault s g.ctx code e.pc.toNat 0 (groupSite s g (e.members.headD 0) (strandNum st))
  r.1.setGroup gk fun g => g.setFrontier st fun f =>
    f.add { e with block := .faults (e.members.map fun l => ⟨l, r.2, e.pc.toNat, 0⟩) }

/-- A yield waits no longer for an entry that has stopped being ready (R136). -/
def stillAwaited (s : State) (g : Group) (st : Strand) : Group :=
  let still := readyIds s g st
  g.setFrontier st fun f => f.map fun e => { e with yieldFor := e.yieldFor.filter still.contains }

/-- An issue of another entry ends what a yield waits for it; so does its no longer being ready (R136). -/
def pruneYield (s : State) (g : Group) (st : Strand) (chosen : Nat) : Group :=
  (stillAwaited s g st).setFrontier st fun f => f.map fun e => { e with yieldFor := e.yieldFor.filter (· != chosen) }

/-- What each strand of a group keeps of the step before: the entries in which the chosen one goes on (R25), and the entries that a yield
still waits for (R136). -/
def Group.afterStep (s : State) (g : Group) : Group :=
  let settle := fun (g : Group) (st : Strand) =>
    let f := g.frontier st
    let g := match f.chosen with
      | none => g
      | some (id, ls) => g.setFrontier st fun f =>
        { f with chosen := none,
                 held := (f.entries.filter fun e => (e.id = id || f.fresh ≤ e.id) && e.members.all ls.contains).map (·.id) }
    if f.entries.all fun e => e.yieldFor.isEmpty then g else stillAwaited s g st
  settle (settle g .comp) .addr

/-- The machine after a step, and before the next: what its groups keep of the step (R25, R136). -/
def afterStep (s : State) : State := { s with groups := s.groups.map fun p => (p.1, p.2.afterStep s) }

/-- A strand of a group takes an issue slot for the beats of its chosen entry, which leaves the frontier; entries that cannot begin are
closed with what they wait for (R24 to R26, R28). -/
def takeSlot (s : State) (gk : Nat) (st : Strand) (e : Entry) : State :=
  { s with stamp := s.stamp + 1 }.setGroup gk fun g =>
    closeBoth s ((pruneYield s g st e.id).setFrontier st fun f =>
      let f := f.keep fun x => x.id != e.id
      { f with beats := ceilDiv e.members.length 16, fresh := g.nextId, chosen := some (e.id, e.members), last := s.stamp + 1 })

/-- A strand of a group takes an issue slot, where the slot goes to the group: the word of its chosen entry is fetched and decoded
(R25, R28, R67, R130). The machine, and the instruction to execute, where there is one. An entry that goes on in an instruction which has
issued is no issue of its own (R24, R374). -/
def beginIssue (s : State) (gk : Nat) (st : Strand) : State × Option Instr :=
  match s.group? gk with
  | none => (s, none)
  | some g =>
    if nextIssuer s g.core st != some gk then (s, none)
    else match chooseEntry s g st with
      | none => (s, none)
      | some e0 =>
        let e := { e0 with age := 0, yieldFor := [] }
        let s := takeSlot s gk st e
        match fetchWord s g e.pc with
        | (s, .cause c) =>
          (trapLanes (s.setGroup gk fun g => g.setFrontier st Frontier.refill) gk st (if c.code = 0x001 then e.pc else e.seqPc)
            (e.members.map fun l => (l, c)), none)
        | (s, .replay code) => (fetchFault s gk g st e code, none)
        | (s, .word w) =>
          let s := if e.block.issued then s else sample s g.core g.ctx 6 (g.frontier st).entries.length
          let iss : Issue := ⟨gk, st, e, w⟩
          match decodeOp w with
          | none => (finish (resetDeadlock s iss) iss (e.members.map fun l => (l, .trap ⟨0x000, w.toNat, 1⟩)), none)
          | some i => ({ s with cur := some iss }, some i)

/-! ### The machine that a word is placed into -/

/-- Where the placed word lies, as a virtual and as a physical address. -/
def placePC : VAddr := 0x10000#56

/-- The bytes of the placed page tables: a root that points to one table, which maps the first GiB onto itself with W and
X (R340, R341). -/
def placeTables (m : List Host.Cell) : List Host.Cell :=
  putBytes (putBytes m 0x30000000 (bytesOfNat (0x30010000 + 1) 8)) 0x30010000 (bytesOfNat 15 8)

/-- The strand that may issue an instruction in a group of 16 lanes: compute where it may, else address. -/
def placeStrand (w : Word) : Strand :=
  match decodeOp w with
  | none => .comp
  | some i => if (breaches .comp 16 i).isEmpty then .comp else if (breaches .addr 16 i).isEmpty then .addr else .comp

/-- The group that issues the placed word: 16 lanes on core 0, every register allocated, one entry on its strand. -/
def placeGroup (st : Strand) : Group :=
  let e : Entry := { id := 0, pc := placePC, members := upTo 16 }
  let g : Group := { ctx := 0, tree := 0, gid := 0, team := 0, core := 0, status := .resident, width := 16,
                     vAlloc := 128, sAlloc := 80, nextId := 1,
                     threads := List.replicate 16 { comp := { tvec := 0x20000#64 }, addr := { tvec := 0x20000#64 } } }
  g.setFrontier st fun f => f.add e

/-- A machine whose next step runs the word `w` as the first instruction of a context's first group (DESIGN CHOICE, log entry 1). -/
def placeWord (s : State) (w : Word) : State :=
  let st := placeStrand w
  let mem := putBytes (placeTables s.mem) placePC.toNat (bytesOfNat w.toNat 4)
  { s with
    mem := mem, poison := [], regions := [], frames := SMap.erase s.frames (placePC.toNat / 65536),
    cores := SMap.insert s.cores 0 { s.core 0 with ctx := some 0, tlb := [], walks := [] },
    dieTlb := SMap.erase s.dieTlb 0, clusterPart := SMap.erase s.clusterPart 0,
    ctxs := SMap.insert s.ctxs 0 { part := 0, number := 0, root := 0x30000000, rings := List.replicate 4 {},
                                    tvecC := 0x20000#64, tvecA := 0x20000#64 },
    trees := SMap.insert s.trees 0 { ctx := 0, number := 0, rise := 1 },
    teams := SMap.insert s.teams 0 { groups := [0], core := some 0 },
    groups := SMap.insert (s.groups.filter fun p => p.2.core != 0) 0 (placeGroup st),
    cur := none, agenda := [.issue 0 st] }

end Sys2Proof.Machine
end

