-- ==== Sys2Proof/Machine/Agenda.lean ====
section
/-! DEFINITION. What a step does: the agenda of moves that the environment has fixed, what is due on a core before its next cycle, and the
rounds of the device's own moves that fill the agenda once it is empty (R38; DESIGN CHOICE, log entry 1). -/

namespace Sys2Proof.Machine

open Sys2Proof

/-- Whether a row of the opcode table is an instruction or hint word, and not an event. -/
def isWord (i : Instr) : Bool := (encode i).isSome || match i with
  | .xlfreeAccept _ => true
  | _ => false

/-! ### Rounds -/

/-- Do events one after the other; one that the rules do not allow where it comes changes nothing. -/
def doAll (s : State) (es : List (State → Host.Outcome State Fault Refusal)) : State := es.foldl (fun s e => nextOr s (e s)) s

/-- What the device can do for a queue: the service of its packets. -/
def queueWork (s : State) (q : Nat) : State :=
  doAll s [execNopPacket q, execLaunch q, execWait q, execSignal q, execCopy q, execViewReg q, execCopyItem (.ofQueue q), execSeedStart q,
    execSemaphorePoll q, execPacketComplete q, execQueueFree q]

/-- What the device can do for a context: the moves of its segments, its rings, its commands. -/
def contextWork (s : State) (c : Nat) : State :=
  let segs : List Nat := match s.ctx? c with
    | some x => x.segments.map fun p => p.1
    | none => []
  doAll s (segs.flatMap (fun (k : Nat) => [execSegmentEvictionComplete c k, execSegmentRestoreComplete c k])
    ++ (upTo 4).map (execRingConsPoll c)
    ++ [execInvalidationComplete (c / 64) (c % 64), execPreemptSave c, execContextResume c])

/-- What the device can do for an access of a group: its performance and its delivery. -/
def accessEvents (k : Nat) (a : Access) : List (State → Host.Outcome State Fault Refusal) :=
  [fun s => .next (performAccess s k a.id), execLoadDelivery k a.id, execLdaFill k a.id, execStorePerformed k a.id]

/-- What the device can do for an operation of a group. -/
def opEvents (k : Nat) (o : Op) : List (State → Host.Outcome State Fault Refusal) :=
  match o.kind with
  | .cpl items .. => items.map fun (i : Nat × Nat × Nat) => execCplItem k o.id i.1
  | .copy .. | .copyTile .. => [execCopyItem (.ofGroup k o.id)]
  | .pft .. => [execPrefetchLine k o.id]
  | .ldt .. => [execLdtDelivery k o.id]
  | .stt .. => [execSttPopStep k o.id]
  | .spawn _ => [execSpawnAccept k o.id]
  | _ => []

/-- What the device can do for a group: its accesses and operations, its waits, its passage between the states of R30. -/
def groupWork (s : State) (k : Nat) : State :=
  match s.group? k with
  | none => s
  | some g =>
    let target := ((waiterOf s k).bind (·.target s)).getD g.core
    doAll s (g.accs.flatMap (accessEvents k) ++ g.ops.flatMap (opEvents k)
      ++ g.slow.map (fun r => execPmvalReply k r.strand r.lane)
      ++ g.frA.entries.map (fun e => execEventOverflowPoll k .addr e.id)
      ++ [execSwapThreshold k, execAdmissionWaitLimit k, execGroupPark k, execGroupAdmit k target, execGroupReadmit k, execGroupRetire k])

/-- What the device can do on a core: the work of its engines, its grants, its evictions, its mode changes. -/
def coreWork (s : State) (k : Nat) : State :=
  doAll s ([execTileDecode k 0, execTileDecode k 1, execEncodeTile k, execMatrixProductExecute k, execTopkExecute k, execAttentionExecute k,
      execAccumulatorRead k, execProofSample k, execRegGrant k, execSegmentEvict k]
    ++ match (s.core k).switch with
      | some (b, _) => [execLsmodeComplete k b]
      | none => [])

/-- One round of the device's own moves (R38; DESIGN CHOICE, log entry 1): each queue, context, group, view engine and core is served once,
and each core that a context holds has one cycle, before which its strands issue. -/
def offers (s : State) : List Move :=
  let cores := (s.cores.filter fun p => p.2.ctx.isSome).map (·.1)
  (if s.power = .d0 && (s.bringup = 4 || s.bringup = 5) then [.enableFunctions] else [])
  ++ s.leaving.map (fun p => .passGranule p.1) ++ s.queues.map (fun p => .queueWork p.1) ++ s.ctxs.map (fun p => .contextWork p.1)
  ++ s.groups.map (fun p => .groupWork p.1)
  ++ ((s.refreshing.map (·.1) ++ s.refresh.map (·.stack)).eraseDups.map .viewWork)
  ++ cores.flatMap fun k => [.coreWork k, .tick k]

/-- The next move and the machine without it; an empty agenda is filled with a round first (DESIGN CHOICE, log entry 1). -/
def takeMove (s : State) : State × Option Move :=
  match (if s.agenda.isEmpty then offers s else s.agenda) with
  | m :: rest => ({ afterStep s with agenda := rest }, some m)
  | [] => (s, none)

/-! ### What is due before a cycle -/

/-- What is due for a strand of a group before the next cycle of its core: a sleep that has run out ends, the frontier exchanges an entry
with its spill list (R27, R135). -/
def strandDuty (k : Nat) (g : Group) (st : Strand) : Option Move :=
  match (g.frontier st).entries.find? fun e => e.block = .sleep 0 with
  | some e => some (.event (.sleepExpiry k st e.id))
  | none => if g.exchangeDue st then some (.event (.frontierSpillExchange k st)) else none

/-- What is due for a group: its strands' duties, and a deadlock count that has reached its limit (R23). -/
def groupDuty (k : Nat) (g : Group) : Option Move :=
  ((strandDuty k g .comp).or (strandDuty k g .addr)).or
    (((upTo g.width).find? fun l => (g.thread l).deadlock = 2 ^ 20 && (g.deadlocked l).isSome && (g.entryOf .comp l).isSome).map
      fun l => .event (.deadlockCount k l))

/-- The instruction that a strand of a group issues next, where it may still issue in this cycle. -/
def nextWord (s : State) (gk : Nat) (st : Strand) : Option Instr :=
  match s.group? gk with
  | none => none
  | some g =>
    if !mayIssue s g || (g.frontier st).beats != 0 then none
    else match chooseEntry s g st with
      | none => none
      | some e => match (fetchWord s g e.pc).2 with
        | .word w => decodeOp w
        | _ => none

/-- Whether a strand of a group is next to issue a request for registers (R137). -/
def requestNext (s : State) (gk : Nat) (st : Strand) : Bool :=
  match nextWord s gk st with
  | some (.rgrow _) | some (.rshrink _) => true
  | _ => false

/-- Whether a strand of a group is next to issue a csrw of fmode (R54). -/
def writesFmode (s : State) (gk : Nat) (st : Strand) : Bool :=
  match nextWord s gk st with
  | some (.csrw f) => f.num = 0x000
  | _ => false

/-- What is due on a core before its next cycle: its groups' own duties, and each free issue slot goes to a group with a ready entry
(R28). -/
def duty (s : State) (core : Nat) : Option Move :=
  (s.groups.findSome? fun p => if p.2.core = core && p.2.status = .resident && mayIssue s p.2 then groupDuty p.1 p.2 else none).or
    (((nextIssuer s core .addr).map fun k => .issue k .addr).or ((nextIssuer s core .comp).map fun k => .issue k .comp))

/-- The issue that brings that of a strand of a group nearer: the next one of its core, while a slot is free (R28). -/
def toward (s : State) (gk : Nat) (st : Strand) : Option Move :=
  (s.group? gk).bind fun g => (nextIssuer s g.core st).map fun k => .issue k st

/-- What comes before an issue of a strand in the same cycle: a csrw of fmode by the group's other strand, whose value is written before
the flags of this one (R54), and, where this is a request of the compute strand for registers, what is due for the address strand of the
group, and its request (R137). -/
def beforeIssue (s : State) (k : Nat) (st : Strand) : Option Move :=
  let other := otherStrand st
  if writesFmode s k other && !writesFmode s k st then toward s k other
  else if st = .comp && requestNext s k .comp then
    ((s.group? k).bind fun g => strandDuty k g .addr).or (if requestNext s k .addr then toward s k .addr else none)
  else none

/-- What comes before the work of a core's engines and groups in the same cycle: a csrw of fmode, whose value is written before the flags
that the work sets (R54). -/
def csrwDue (s : State) (core : Nat) : Option Move :=
  s.groups.findSome? fun p =>
    if p.2.core != core then none
    else if writesFmode s p.1 .comp then toward s p.1 .comp
    else if writesFmode s p.1 .addr then toward s p.1 .addr
    else none

/-- What a move has come before it: what is due before a cycle, before an issue of a strand, and before work that may set flags. -/
def due (s : State) : Move → Option Move
  | .tick core => duty s core
  | .event (.coreCycle core) => duty s core
  | .issue k st => beforeIssue s k st
  | .groupWork k => (s.group? k).bind fun g => csrwDue s g.core
  | .coreWork core => csrwDue s core
  | .event _ => s.cores.findSome? fun p => if p.2.ctx.isSome then csrwDue s p.1 else none
  | _ => none

/-- A move, or the first of what must come before it. -/
def firstDue (s : State) (m : Move) : Nat → Move
  | 0 => m
  | n + 1 => match due s m with
    | some d => firstDue s d n
    | none => m

/-- The move that comes before another. -/
def before (s : State) (m : Move) : Option Move := (due s m).map fun d => firstDue s d 4

/-! ### The moves -/

/-- Drop entry `n` of the TLB of a core, as the device may at any time (R343). -/
def dropTlbEntry (s : State) (core n : Nat) : State := s.setCore core fun c => { c with tlb := c.tlb.eraseIdx n }

/-- Drop entry `n` of the walk cache of a core (R343). -/
def dropWalkEntry (s : State) (core n : Nat) : State := s.setCore core fun c => { c with walks := c.walks.eraseIdx n }

/-- Drop entry `n` of the last-level TLB of a die (R343). -/
def dropDieEntry (s : State) (die n : Nat) : State :=
  { s with dieTlb := SMap.put [] s.dieTlb die ((SMap.get [] s.dieTlb die).eraseIdx n) }

/-- What a move does before an instruction or event is executed, and that instruction or event, where there is one. A store of the host may
reach any physical address (DESIGN CHOICE, log entry 53). -/
def makeMove (s : State) : Move → State × Option Instr
  | .issue gk st => beginIssue s gk st
  | .event i => (s, if isWord i then none else some i)
  | .perform gk id => (performAccess s gk id, none)
  | .performPiece gk id n => (performPart s gk id n, none)
  | .tick core => (coreTick s core, none)
  | .dropTlb core n => (dropTlbEntry s core n, none)
  | .dropWalk core n => (dropWalkEntry s core n, none)
  | .dropDieTlb die n => (dropDieEntry s die n, none)
  | .assignFrame c frame => (assignFrame s c frame, none)
  | .passGranule g => (tryGranule s g, none)
  | .eccCorrected kind => (eccCorrected s kind, none)
  | .enableFunctions => (enableFunctions s, none)
  | .queueWork q => (queueWork s q, none)
  | .contextWork c => (contextWork s c, none)
  | .groupWork k => (groupWork s k, none)
  | .viewWork cluster => (nextOr s (execViewRefresh cluster s), none)
  | .coreWork k => (coreWork s k, none)
  | .hostWrite addr bytes => (writeHome s addr bytes, none)

/-- The move taken from the agenda, or what comes before it: then the move itself stands at the head again. -/
def startMove (s : State) : Option Move → State × Option Instr
  | none => (s, none)
  | some m => match before s m with
    | some d => makeMove { s with agenda := m :: s.agenda } d
    | none => makeMove s m

end Sys2Proof.Machine
end

