-- ==== Sys2Proof/Machine/Address.lean ====
section
/-! DEFINITION. Address-register instructions (R128, R129). -/

namespace Sys2Proof.Machine

open Sys2Proof

/-- AADD (R128). -/
def execAadd (f : A3Ops) (s : State) : Host.Outcome State Fault Refusal :=
  runWord (.aadd f) s fun a => a.complete (a.aa f fun x y => x + y)

/-- ASUB (R128). -/
def execAsub (f : A3Ops) (s : State) : Host.Outcome State Fault Refusal :=
  runWord (.asub f) s fun a => a.complete (a.aa f fun x y => x - y)

/-- AMUL (R128). -/
def execAmul (f : A3Ops) (s : State) : Host.Outcome State Fault Refusal :=
  runWord (.amul f) s fun a => a.complete (a.aa f fun x y => x * y)

/-- AAND (R128). -/
def execAand (f : A3Ops) (s : State) : Host.Outcome State Fault Refusal :=
  runWord (.aand f) s fun a => a.complete (a.aa f fun x y => x &&& y)

/-- AOR (R128). -/
def execAor (f : A3Ops) (s : State) : Host.Outcome State Fault Refusal :=
  runWord (.aor f) s fun a => a.complete (a.aa f fun x y => x ||| y)

/-- AXOR (R128). -/
def execAxor (f : A3Ops) (s : State) : Host.Outcome State Fault Refusal :=
  runWord (.axor f) s fun a => a.complete (a.aa f fun x y => x ^^^ y)

/-- ASHL (R128). -/
def execAshl (f : A3Ops) (s : State) : Host.Outcome State Fault Refusal :=
  runWord (.ashl f) s fun a => a.complete (a.aa f shiftLeft)

/-- ASHR (R128). -/
def execAshr (f : A3Ops) (s : State) : Host.Outcome State Fault Refusal :=
  runWord (.ashr f) s fun a => a.complete (a.aa f shiftRight)

/-- ASAR (R128). -/
def execAsar (f : A3Ops) (s : State) : Host.Outcome State Fault Refusal :=
  runWord (.asar f) s fun a => a.complete (a.aa f shiftArith)

/-- AMIN (R128). -/
def execAmin (f : A3Ops) (s : State) : Host.Outcome State Fault Refusal :=
  runWord (.amin f) s fun a => a.complete (a.aa f fun x y => if x.toInt ≤ y.toInt then x else y)

/-- AMAX (R128). -/
def execAmax (f : A3Ops) (s : State) : Host.Outcome State Fault Refusal :=
  runWord (.amax f) s fun a => a.complete (a.aa f fun x y => if y.toInt ≤ x.toInt then x else y)

/-- ALEA (R128). -/
def execAlea (f : LeaOps) (s : State) : Host.Outcome State Fault Refusal :=
  runWord (.alea f) s fun a => 
    a.complete (a.a1 f.ad fun l => a.a f.aa.toNat l + a.a f.ab.toNat l <<< f.k.toNat)

/-- ACMP (R128). -/
def execAcmp (f : AcmpOps) (s : State) : Host.Outcome State Fault Refusal :=
  runWord (.acmp f) s fun a => 
    a.complete (a.p1 f.pd.toNat fun l => addrCond f.cond.toNat (a.a f.aa.toNat l) (a.a f.ab.toNat l))

/-- AMOV (R128). -/
def execAmov (f : A2Ops) (s : State) : Host.Outcome State Fault Refusal :=
  runWord (.amov f) s fun a => a.complete (a.a1 f.ad fun l => a.a f.aa.toNat l)

/-- A2S (R128): the lowest-numbered member. -/
def execA2s (f : A2sOps) (s : State) : Host.Outcome State Fault Refusal :=
  runWord (.a2s f) s fun a => 
    a.complete (a.s1 f.sd ((a.a f.aa.toNat a.lead).truncate 32))

/-- S2A (R128). -/
def execS2a (f : S2aOps) (s : State) : Host.Outcome State Fault Refusal :=
  runWord (.s2a f) s fun a => a.complete (a.a1 f.ad fun _ => (a.sc f.sb.toNat).signExtend 64)

/-- AADDI (R129). -/
def execAaddi (f : AiOps) (s : State) : Host.Outcome State Fault Refusal :=
  runWord (.aaddi f) s fun a => a.complete (a.ai f fun x y => x + y)

/-- ALI (R129). -/
def execAli (f : AliOps) (s : State) : Host.Outcome State Fault Refusal :=
  runWord (.ali f) s fun a => a.complete (a.a1 f.ad fun _ => imm64 a.iss.entry.hints f.imm)

/-- ALUI (R129). -/
def execAlui (f : AiOps) (s : State) : Host.Outcome State Fault Refusal :=
  runWord (.alui f) s fun a => a.complete (a.ai f fun x y => x + y <<< 32)

/-- AANDI (R129). -/
def execAandi (f : AiOps) (s : State) : Host.Outcome State Fault Refusal :=
  runWord (.aandi f) s fun a => a.complete (a.ai f fun x y => x &&& y)

/-- AORI (R129). -/
def execAori (f : AiOps) (s : State) : Host.Outcome State Fault Refusal :=
  runWord (.aori f) s fun a => a.complete (a.ai f fun x y => x ||| y)

/-- ASHLI (R129). -/
def execAshli (f : AshOps) (s : State) : Host.Outcome State Fault Refusal :=
  runWord (.ashli f) s fun a => a.complete (a.a1 f.ad fun l => a.a f.aa.toNat l <<< f.k.toNat)

/-- ASHRI (R129). -/
def execAshri (f : AshOps) (s : State) : Host.Outcome State Fault Refusal :=
  runWord (.ashri f) s fun a => a.complete (a.a1 f.ad fun l => a.a f.aa.toNat l >>> f.k.toNat)

/-- ACMPI (R129). -/
def execAcmpi (f : AcmpiOps) (s : State) : Host.Outcome State Fault Refusal :=
  runWord (.acmpi f) s fun a => 
    a.complete (a.p1 f.pd.toNat fun l =>
      immCond f.cond.toNat (a.a f.aa.toNat l).toInt (imm64 a.iss.entry.hints f.imm).toInt)

end Sys2Proof.Machine
end

