-- ==== Sys2Proof/Machine/ConvertOps.lean ====
section
/-! DEFINITION. Conversions and block-format instructions: CVT (R148 to R151) and BXARITH (R152). -/

namespace Sys2Proof.Machine

open Sys2Proof

/-- The controls of a conversion: T forces RTZ (R140). -/
def Act.cvtCtl (a : Act) (f : CvtOps) (l : Nat) : FCtl :=
  let c := a.ctl l
  if f.t then { c with mode := .rtz } else c

/-- The register of `n` containers that values pack into, value `i` at container `i mod k` of register `i / k` (R148). -/
def packWord (k : Nat) (codes : List Nat) (r : Nat) : Word :=
  BitVec.ofNat 32 ((upTo k).foldl (fun s j => s + codes.getD (r * k + j) 0 * 2 ^ (32 / k * j)) 0)

/-- Container `j` of a word with `k` containers (R51). -/
def containerAt (k : Nat) (w : Word) (j : Nat) : Nat := w.toNat / 2 ^ (32 / k * j) % 2 ^ (32 / k)

/-- The conversions of one lane of cvtf, value by value (R149). -/
def Act.cvtfLane (a : Act) (f : CvtOps) (l : Nat) : List Conv :=
  (upTo (runLen f.w)).map fun i =>
    f32ToCode (a.cvtCtl f l) f.fmt.toNat f.pol.toNat (a.v (f.va.toNat + i) l).toNat (a.g.thread l).f4x none

/-- The code of a conversion. -/
def Conv.bits : Conv → Nat
  | .code b _ => b
  | .trap => 0

/-- The flags of a conversion. -/
def Conv.flags : Conv → Word
  | .code _ f => f
  | .trap => 0#32

/-- The lowest lane and value index whose conversion policy 11 traps (R57). -/
def Act.cvtfTrap (a : Act) (f : CvtOps) : Option (Nat × Nat) :=
  a.lanes.findSome? fun l => ((a.cvtfLane f l).findIdx? (· == .trap)).map fun i => (l, i)

/-- CVTF (R149). -/
def execCvtf (f : CvtOps) (s : State) : Host.Outcome State Fault Refusal :=
  runWord (.cvtf f) s fun a =>
    match a.cvtfTrap f with
    | some (l, i) => a.raise ⟨0x080, l, (a.v (f.va.toNat + i) l).toNat⟩
    | none =>
      a.completeF
        (a.runOf f.vd f.w fun k l => packWord (fmtK f.fmt.toNat) ((a.cvtfLane f l).map Conv.bits) k)
        (a.lanes.flatMap fun l => (a.cvtfLane f l).map fun c => (l, c.flags))

/-- CVTH (R149). -/
def execCvth (f : CvtOps) (s : State) : Host.Outcome State Fault Refusal :=
  runWord (.cvth f) s fun a =>
    let n := fmtK f.fmt.toNat
    a.runF f.vd f.w fun k l =>
      codeToF32 (a.cvtCtl f l) f.fmt.toNat (containerAt n (a.v (f.va.toNat + k / n) l) (k % n)) (a.g.thread l).f4x

/-! ### Block formats -/

/-- The subblocks that hold a member, by number, for `k` containers a register (R52). -/
def Act.subblocks (a : Act) (k : Nat) : List Nat := (upTo 32).filter fun b => a.lanes.any fun l => l / (16 / k) = b

/-- The lanes of subblock `b`. -/
def subLanes (k b : Nat) : List Nat := (upTo (16 / k)).map fun i => b * (16 / k) + i

/-- The members of subblock `b`. -/
def Act.subMembers (a : Act) (k b : Nat) : List Nat := (subLanes k b).filter fun l => a.lanes.contains l

/-- What bxpack makes of subblock `b`: element k l + j is register j of lane l; the controls are those of the subblock's
lowest-numbered member (R150). -/
def Act.packBlock (a : Act) (f : CvtOps) (k b : Nat) : SubRes :=
  let c := a.cvtCtl f ((a.subMembers k b).headD 0)
  packSub f.fmt.toNat c.mode f.pol.toNat ((subLanes k b).flatMap fun l => (upTo k).map fun j =>
    decodeF fmt32 (flushIn fmt32 c.fin (a.v (f.va.toNat + j) l).toNat))

/-- The lanes and value indices that overflow under policy 11, members first in each (R150). -/
def Act.packTraps (a : Act) (f : CvtOps) (k : Nat) : List (Nat × Nat) :=
  (a.subblocks k).flatMap fun b => match a.packBlock f k b with
    | .trap bad => bad.map fun n => (b * (16 / k) + n / k, n % k)
    | .ok .. => []

/-- The codes bxpack gives lane `l`: its containers, its subexponent and its flags. -/
def Act.packLane (a : Act) (f : CvtOps) (k l : Nat) : Word × Nat × Word :=
  match a.packBlock f k (l / (16 / k)) with
  | .trap _ => (0#32, 0, 0#32)
  | .ok e mus elems fl =>
    let first := k * (l % (16 / k))
    let codes := (upTo k).map fun j =>
      let x := elems.getD (first + j) (false, 0)
      blockContainer f.fmt.toNat x.1 (mus.getD ((first + j) / 2) false) x.2
    (packWord k codes 0, e, fl)

/-- BXPACK (R150). -/
def execBxpack (f : CvtOps) (s : State) : Host.Outcome State Fault Refusal :=
  runWord (.bxpack f) s fun a =>
    let k := fmtK f.fmt.toNat
    let bad := a.packTraps f k
    match (bad.find? fun p => a.lanes.contains p.1).or bad.head? with
    | some (l, j) => a.raise ⟨0x080, l, (a.v (f.va.toNat + j) l).toNat⟩
    | none =>
      a.completeF
        (a.runOf f.vd f.w fun r l =>
          let x := a.packLane f k l
          if r = 0 then x.1 else if r = 1 then BitVec.ofNat 32 (x.2.1 * 0x01010101) else 0#32)
        (a.lanes.map fun l => (l, (a.packLane f k l).2.2))

/-- The FP32 value of a container under subexponent `e`, with its pair's μ, outer scale +1.0, through FIN (R50 to R52). -/
def blockElem (fin : Bool) (fmt : Nat) (w : Word) (j e : Nat) : FRes :=
  let k := fmtK fmt
  let even := containerParts fmt (containerAt k w (j / 2 * 2))
  let own := containerParts fmt (containerAt k w j)
  let r := bxval fmt own.1 even.2.1 own.2.2 e 0x3F80#16
  { r with bits := flushIn fmt32 fin r.bits }

/-- The leader lane of the subblock of lane `l` (R52). -/
def leaderOf (k l : Nat) : Nat := l / (16 / k) * (16 / k)

/-- BXUNPACK (R151). -/
def execBxunpack (f : CvtOps) (s : State) : Host.Outcome State Fault Refusal :=
  runWord (.bxunpack f) s fun a =>
    let k := fmtK f.fmt.toNat
    a.runF f.vd f.w fun j l =>
      let c := a.ctl l
      let e := (byteOf (a.v (f.va.toNat + 1) (leaderOf k l)) 0).toNat
      let r := blockElem c.fin f.fmt.toNat (a.v f.va.toNat l) j e
      if c.fout && isSubnormal fmt32 r.bits then ⟨r.bits - r.bits % 2 ^ 23, r.flags ||| flagUF ||| flagNX⟩ else r

/-- The exact product of two elements, with the flags of its elements (R60, R61). -/
def productOf (x y : FRes) : FVal × Word :=
  let p := mulV (decodeF fmt32 x.bits) (decodeF fmt32 y.bits)
  (p.1, p.2 ||| x.flags ||| y.flags)

/-- A block dot product over one format (R152). -/
def Act.bxdot (a : Act) (f : BxOps) (fmt : Nat) : State :=
  let k := fmtK fmt
  a.runF f.vd 0#2 fun _ l =>
    let c := a.ctl l
    let e := fun (r : BitVec 7) => (byteOf (a.v (r.toNat + 1) (leaderOf k l)) f.bsel.toNat).toNat
    accGroup c.fin c.fout (a.v f.vd.toNat l).toNat ((upTo k).map fun j =>
      productOf (blockElem c.fin fmt (a.v f.va.toNat l) j (e f.va)) (blockElem c.fin fmt (a.v f.vb.toNat l) j (e f.vb)))

/-- BXDOT2 (R152). -/
def execBxdot2 (f : BxOps) (s : State) : Host.Outcome State Fault Refusal := runWord (.bxdot2 f) s fun a => a.bxdot f 8

/-- BXDOT4 (R152). -/
def execBxdot4 (f : BxOps) (s : State) : Host.Outcome State Fault Refusal := runWord (.bxdot4 f) s fun a => a.bxdot f 9

/-- BXDOT7 (R152). -/
def execBxdot7 (f : BxOps) (s : State) : Host.Outcome State Fault Refusal := runWord (.bxdot7 f) s fun a => a.bxdot f 10

/-- An fp4 nibble as FP32 under the thread's extra value, through FIN (R46). -/
def fp4Elem (fin : Bool) (extra w : Word) (j : Nat) : FRes :=
  let r := codeToF32 ⟨.rne, fin, false⟩ 5 (containerAt 8 w j) extra
  { r with bits := flushIn fmt32 fin r.bits }

/-- F4DOT (R152). -/
def execF4dot (f : DotOps) (s : State) : Host.Outcome State Fault Refusal :=
  runWord (.f4dot f) s fun a =>
    a.runF f.vd 0#2 fun _ l =>
      let c := a.ctl l
      let x := fun (r : BitVec 7) (j : Nat) => fp4Elem c.fin (a.g.thread l).f4x (a.v r.toNat l) j
      accGroup c.fin c.fout (a.v f.vd.toNat l).toNat ((upTo 8).map fun j => productOf (x f.va j) (x f.vb j))

end Sys2Proof.Machine
end

