-- ==== Sys2Proof/Machine/Device.lean ====
section
/-! DEFINITION. Confidential regions and TDIs (R201 to R203, R386, R387), firmware and bring-up (R388, R389), the scan of cores (R392),
power and heat (R393). -/

namespace Sys2Proof.Machine

open Sys2Proof

/-! ### Regions -/

/-- Every granule of a range, for 2 MiB steps, lies in memory of a partition (R201). -/
def rangeOfPart (s : State) (part base len : Nat) : Bool :=
  (upTo (len / 2 ^ 21)).all fun i =>
    let pa := base + i * 2 ^ 21
    match tierOf pa with
    | .hbm => SMap.get 0 s.clusterPart (pa / 2 ^ 36) = part
    | .cxl => SMap.find? s.granules ((pa - 2 ^ 44) / 2 ^ 28) = some part
    | _ => false

/-- The lowest free region number (R201, R202). -/
def freeRegion (s : State) : Option Nat := (upTo 1023).findSome? fun i => if (SMap.find? s.regions (i + 1)).isNone then some (i + 1) else none

/-- Whether a creation of a region is refused (R201). -/
def regionRefused (s : State) (tdi base len : Nat) : Bool :=
  let t := SMap.get {} s.tdis tdi
  (t.state != .configLocked && t.state != .run) || base % 2 ^ 21 != 0 || len = 0 || len % 2 ^ 21 != 0
    || !rangeOfPart s t.part base len
    || s.regions.any fun r => r.2.live && decide (r.2.base < base + len) && decide (base < r.2.base + r.2.len)

/-- Every byte of a range is zero at its home (R201, R204). -/
def zeroRange (s : State) (base len : Nat) : State :=
  let out := fun (a : Nat) => !(decide (base ≤ a) && decide (a < base + len))
  { dropLines s base len with mem := s.mem.filter fun p => out p.1, poison := s.poison.filter fun p => out (p.1 * 128) }

/-- CREATE_REGION (R201): with the lowest free number, or refused. (DEDUCED, log entry 37.) -/
def execCreateRegion (region tdi base len : Nat) (s : State) : Host.Outcome State Fault Refusal :=
  .next (if !s.up || freeRegion s != some region || regionRefused s tdi base len then s
    else { zeroRange s base len with regions := SMap.insert s.regions region { tdi := tdi, base := base, len := len } })

/-- The key of a region is destroyed: its lines leave their slices without write-back, its number is free, and its range is remembered
(R201, R203). -/
def dropRegion (s : State) (k : Nat) : State :=
  match SMap.find? s.regions k with
  | none => s
  | some r =>
    let s := discardHeld s (lineIn r.base r.len)
    { s with regions := SMap.insert (SMap.erase s.regions k) (max 1024 (SMap.fresh s.regions)) { r with live := false } }

/-- DESTROY_REGION (R201). -/
def execDestroyRegion (region : Nat) (s : State) : Host.Outcome State Fault Refusal :=
  .next (if !s.up || region = 0 || 1024 ≤ region then s else dropRegion s region)

/-- The live regions of a TDI, by number. -/
def regionsOf (s : State) (tdi : Nat) : List (Nat × Region) := s.regions.filter fun r => r.2.live && r.2.tdi = tdi

/-- The contexts bound to a TDI that have not ended. -/
def ctxsOfTdi (s : State) (tdi : Nat) : List Nat := (s.ctxs.filter fun p => p.2.tdi = tdi && p.2.status != .ended).map (·.1)

/-- A context ends and its buffers are zeroed (R166, R203). -/
def endContext (s : State) (c : Nat) (cause : Cause) : State := (coresOf s c).foldl zeroCore (contextFatal s c cause {})

/-- What a TDI does before it leaves RUN: its contexts end, and its regions' lines and keys are gone (R203). -/
def leaveRun (s : State) (tdi : Nat) : State :=
  let rs := regionsOf s tdi
  let s := (ctxsOfTdi s tdi).foldl (fun s c => endContext s c ⟨0x1C4, ((rs.head?).map (·.2.base)).getD 0, 0⟩) s
  rs.foldl (fun s r => dropRegion s r.1) s

/-- TDI_LEAVE_RUN (R203, R386). Whether the next state is CONFIG_UNLOCKED or ERROR depends on why it leaves: a free value. -/
def execTdiLeaveRun (tdi : Nat) (s : State) : Host.Outcome State Fault Refusal :=
  .next (if tdi = 0 || (SMap.get {} s.tdis tdi).state != .run then s
    else
      let s := leaveRun s tdi
      let next : TdiState := if Config.freeBit s.free tdi then .error else .configUnlocked
      { s with free := s.free + 1, tdis := SMap.modify s.tdis tdi fun t => { t with state := next } })

/-! ### SPDM and firmware -/

/-- What measurements report: the digest of the firmware image, the fused version, the logical core map by 64 cores a word, and the
partition layout by the partition of each cluster and of each queue (R387). -/
def measurements (s : State) : List DWord :=
  let byte8 := fun (f : Nat → Nat) (i : Nat) => BitVec.ofNat 64 ((upTo 8).foldl (fun n j => n + f (8 * i + j) % 256 * 2 ^ (8 * j)) 0)
  (upTo 4).map (Config.imageDigest s.firmware) ++ [BitVec.ofNat 64 s.fused]
    ++ (upTo 4).map (fun i => BitVec.ofNat 64 ((upTo 64).foldl (fun n j => if (s.core (64 * i + j)).removed then n else n + 2 ^ j) 0))
    ++ (upTo 2).map (byte8 fun k => SMap.get 0 s.clusterPart k) ++ (upTo 4).map (byte8 fun q => SMap.get 0 s.queuePart q)

/-- SPDM_REQUEST (R386, R387; log entry 15): bits [1:0] are 1 to lock and 2 to start TDI [17:2] of partition [22:18], 3 to report
measurements; any request is answered, and what is not measured of the answer is the device's own: free values. -/
def execSpdmRequest (req : Nat) (s : State) : Host.Outcome State Fault Refusal :=
  hostAct s fun s =>
    let tdi := bitsOf req 17 2
    let t := SMap.get {} s.tdis tdi
    let next : Tdi := match req % 4 with
      | 1 => if t.state = .configUnlocked then { state := .configLocked, part := bitsOf req 22 18 } else t
      | 2 => if t.state = .configLocked then { t with state := .run } else t
      | _ => t
    { s with free := s.free + 1,
             spdm := (if req % 4 = 3 then measurements s else []) ++ (upTo 8).map (Config.spdmWord (2 ^ 64 * req + s.free)),
             tdis := if tdi = 0 then s.tdis else SMap.put {} s.tdis tdi next }

/-- Boot: an image that verifies under a version not below the fused one runs, and raises it, and the memories, cores and links come up; any
other leaves the device in recovery (R388, R389 steps 1 to 4). -/
def boot (s : State) : State :=
  if Config.imageVerifies s.firmware && s.fused ≤ Config.imageVersion s.firmware then
    { s with bringup := 4, fused := max s.fused (Config.imageVersion s.firmware) }
  else { s with bringup := 1 }

/-- RECOVERY_IMAGE (R388): a device in recovery writes an image that verifies to flash and runs it. -/
def execRecoveryImage (image : Nat) (s : State) : Host.Outcome State Fault Refusal :=
  .next (if s.power != .d0 || s.bringup != 1 then s
    else if Config.imageVerifies image && s.fused ≤ Config.imageVersion image then boot { s with firmware := image } else s)

/-- Everything that does not outlive a power cycle is as at reset; memory outside the package, as its slices have written it back, its flash
and its fuses stay, and so do the moves still to come (R388, R393). No key of a region outlives it: the regions of pooled memory stay
destroyed (R16, R203). -/
def powerLoss (s0 : State) : State :=
  let s := discardHeld (s0.regions.foldl (fun s r => if r.2.live then dropRegion s r.1 else s) s0) fun _ => true
  { State.reset with
    mem := s.mem.filter fun p => tierOf p.1 != .hbm
    regions := s.regions.filter fun r => tierOf r.2.base = .cxl
    extents := s.extents, firmware := s.firmware, fused := s.fused, agenda := s.agenda, free := s.free, stamp := s.stamp }

/-- DEVICE_RESET (R386, R389): the TDIs leave RUN, then bring-up begins at step 1. Which cores fail their scan is not the device's to say.
(DESIGN CHOICE, log entry 36.) -/
def execDeviceReset (s0 : State) : Host.Outcome State Fault Refusal :=
  let s := (s0.tdis.filter fun t => t.2.state = .run).foldl (fun s t => leaveRun s t.1) s0
  let bad := (upTo 256).filter (Config.freeBit s.free)
  .next (boot { powerLoss s with free := s.free + 1, cores := bad.map fun k => (k, { removed := true }) })

/-! ### Scan -/

/-- Whether a segment of a context keeps a core from a scan: PINNED, or attached (R392). -/
def Segment.keepsScan (core : Nat) (x : Segment) : Bool := x.core = core && x.state != 2 && (x.cls = 2 || x.attachments != 0)

/-- Whether a core may be scanned (R392). -/
def scanAllowed (s : State) (core : Nat) : Bool :=
  let k := s.core core
  s.up && core < 256 && bitsOf s.scanctl 31 8 != 0 && !k.removed && !k.scanning
    && !(s.groups.any fun p => p.2.core = core && p.2.status != .pending)
    && !(s.teams.any fun t => (t.2.core.map fun c => (candCores s c t.2.pair).contains core) = some true)
    && !s.ctxs.any fun c => (SMap.find? c.2.savedModes core).isSome || c.2.segments.any fun p => p.2.keepsScan core

/-- Whether a segment lies on a core or moves to it. -/
def Segment.onCore (x : Segment) (core : Nat) : Bool := (x.state != 2 && x.core = core) || (x.state = 3 && x.target = core)

/-- The segments of a core that an eviction must still move, with their contexts. -/
def scanSegments (s : State) (core : Nat) : List (Nat × Nat × Segment) :=
  s.ctxs.flatMap fun c => (c.2.segments.filter fun p => p.2.onCore core).map fun p => (c.1, p.1, p.2)

/-- CORE_SCAN (R392): on an eligible core the segments are evicted first; then its CACHE banks are written back and the scan runs. -/
def execCoreScan (core : Nat) (s : State) : Host.Outcome State Fault Refusal :=
  .next (if !scanAllowed s core then s
    else
      let segs := scanSegments s core
      if segs.isEmpty then (zeroCore (l1Invalidate s core) core).setCore core fun k => { k with scanning := true }
      else segs.foldl (fun s p => if p.2.2.evictable core then s.setSeg p.1 p.2.1 fun x => { x with state := 1 } else s) s)

/-- A core that leaves a scan is zeroed (R204, R392). -/
def endScan (s : State) (core : Nat) (removed : Bool) : State :=
  (zeroCore s core).setCore core fun k => { k with scanning := false, removed := removed }

/-- SCAN_END (R392): a core that fails leaves the logical core map, with a record of tier 0xFF in every context of its partition; what
line the record names is open. -/
def execScanEnd (core : Nat) (pass : Bool) (s : State) : Host.Outcome State Fault Refusal :=
  .next (if !(s.core core).scanning then s
    else if pass then endScan s core false
    else (ctxsOfPart s (partOfCore s core)).foldl (fun s c =>
      ringEmit s c 3 (mkRec 0x32 0 core [(Config.freeWord s.free core).toNat, 0xFF, 0, 0, 0, 0, 0]))
      { endScan s core true with free := s.free + 1 })

/-- Whether a team at or above the abort class wants a core (R392). -/
def scanWanted (s : State) (core : Nat) : Bool :=
  let high := fun (g : Group) => decide (bitsOf s.scanctl 2 0 ≤ g.kernel.prio)
  (waiters s).any (fun w => ((w.lead.map high).getD false) && (w.target s).any fun c => (candCores s c w.team.pair).contains core)
    || s.teams.any fun t => t.2.placing && (t.2.core.map fun c => (candCores s c t.2.pair).contains core) = some true
      && (t.2.groups.filterMap s.group?).any high

/-- SCAN_ABORT (R392). -/
def execScanAbort (core : Nat) (s : State) : Host.Outcome State Fault Refusal :=
  .next (if (s.core core).scanning && scanWanted s core then endScan s core false else s)

/-! ### Power and heat -/

/-- Every context that has not ended ends, with a cause for each. -/
def endAll (s : State) (cause : Nat → Context → Cause) : State :=
  s.ctxs.foldl (fun t p => if p.2.status = .ended then t else endContext t p.1 (cause p.1 p.2)) s

/-- A fatal cause that the manual does not name: any of those that end a context, with any tval (DESIGN CHOICE, log entry 2). -/
def openFatal (s : State) (c : Nat) : Cause :=
  let x := (Config.freeWord s.free c).toNat
  ⟨[0x046, 0x047, 0x1C2, 0x1C3, 0x1C4].getD (x % 5) 0x1C3, x / 8, 0⟩

/-- D3HOT (R393): contexts end, as REGION_KEY_DESTROYED where they are bound to a TDI; no rule names the fatal cause of the others. -/
def execD3hot (s : State) : Host.Outcome State Fault Refusal :=
  .next (if s.power != .d0 then s
    else
      let t := endAll s fun c x =>
        if x.tdi != 0 then ⟨0x1C4, (((regionsOf s x.tdi).head?).map (·.2.base)).getD 0, 0⟩ else openFatal s c
      { t with power := .d3hot, free := t.free + 1 })

/-- D3COLD (R393): all state is lost. -/
def execD3cold (s : State) : Host.Outcome State Fault Refusal := .next { powerLoss s with power := .d3cold, bringup := 0 }

/-- POWER_LIMIT_THROTTLE (R13, R393): over the limit the clocks are lowered by 100 MHz, which changes timing only. -/
def execPowerLimitThrottle (milliwatts : Nat) (s : State) : Host.Outcome State Fault Refusal :=
  .next (if s.power = .d0 && 1000 * s.pwrcap < milliwatts then { s with clockSteps := s.clockSteps + 1 } else s)

/-- THERMAL_THROTTLE (R393). -/
def execThermalThrottle (celsius : Nat) (s : State) : Host.Outcome State Fault Refusal :=
  .next (if s.power = .d0 && 105 ≤ celsius then { s with clockSteps := s.clockSteps + 1 } else s)

/-- THERMAL_SHUTDOWN (R393): every context ends with UNCORRECTABLE_STATE, whose structure the manual does not name, and the package
powers off. -/
def execThermalShutdown (celsius : Nat) (s : State) : Host.Outcome State Fault Refusal :=
  .next (if s.power = .d3cold || celsius < 115 then s
    else
      let t := endAll s fun c _ => ⟨0x1C3, (Config.freeWord s.free c).toNat, 0⟩
      { powerLoss t with power := .d3cold, bringup := 0, free := t.free + 1 })

end Sys2Proof.Machine
end

