-- ==== Sys2Proof/Machine/FloatOps.lean ====
section
/-! DEFINITION. Floating-point vector instructions: FARITH, FMINMAX, UNARY, BF16X2, FP16X2, fcmp, fclass, fadds and fmuls
(R140 to R147, R153). -/

namespace Sys2Proof.Machine

open Sys2Proof

/-- FADD (R142). -/
def execFadd (f : VOps) (s : State) : Host.Outcome State Fault Refusal :=
  runWord (.fadd f) s fun a => a.ff f (addF fmt32)

/-- FSUB (R142). -/
def execFsub (f : VOps) (s : State) : Host.Outcome State Fault Refusal :=
  runWord (.fsub f) s fun a => a.ff f (subF fmt32)

/-- FMUL (R142). -/
def execFmul (f : VOps) (s : State) : Host.Outcome State Fault Refusal :=
  runWord (.fmul f) s fun a => a.ff f (mulF fmt32)

/-- FMAC (R142). -/
def execFmac (f : VOps) (s : State) : Host.Outcome State Fault Refusal :=
  runWord (.fmac f) s fun a => a.ffd f (macF fmt32)

/-- FMIN (R143). -/
def execFmin (f : VOps) (s : State) : Host.Outcome State Fault Refusal :=
  runWord (.fmin f) s fun a => a.ff f fun c x y => minMaxF fmt32 c false x y

/-- FMAX (R143). -/
def execFmax (f : VOps) (s : State) : Host.Outcome State Fault Refusal :=
  runWord (.fmax f) s fun a => a.ff f fun c x y => minMaxF fmt32 c true x y

/-- FSGNJ (R143). -/
def execFsgnj (f : VOps) (s : State) : Host.Outcome State Fault Refusal :=
  runWord (.fsgnj f) s fun a => a.ff f fun _ x y => sgnjF x y

/-- FABD (R143). -/
def execFabd (f : VOps) (s : State) : Host.Outcome State Fault Refusal :=
  runWord (.fabd f) s fun a => a.ff f (abdF fmt32)

/-- FNEG (R144). -/
def execFneg (f : UnOps) (s : State) : Host.Outcome State Fault Refusal :=
  runWord (.fneg f) s fun a => a.fu f fun _ x => signOpF false x

/-- FABS (R144). -/
def execFabs (f : UnOps) (s : State) : Host.Outcome State Fault Refusal :=
  runWord (.fabs f) s fun a => a.fu f fun _ x => signOpF true x

/-- FFLOOR (R144). -/
def execFfloor (f : UnOps) (s : State) : Host.Outcome State Fault Refusal :=
  runWord (.ffloor f) s fun a => a.fu f fun c x => integralF .rdn false c.fin x

/-- FCEIL (R144). -/
def execFceil (f : UnOps) (s : State) : Host.Outcome State Fault Refusal :=
  runWord (.fceil f) s fun a => a.fu f fun c x => integralF .rup false c.fin x

/-- FTRUNC (R144). -/
def execFtrunc (f : UnOps) (s : State) : Host.Outcome State Fault Refusal :=
  runWord (.ftrunc f) s fun a => a.fu f fun c x => integralF .rtz false c.fin x

/-- FRINT (R144). -/
def execFrint (f : UnOps) (s : State) : Host.Outcome State Fault Refusal :=
  runWord (.frint f) s fun a => a.fu f fun c x => integralF c.mode true c.fin x

/-- FRCP (R144, R62). -/
def execFrcp (f : UnOps) (s : State) : Host.Outcome State Fault Refusal :=
  runWord (.frcp f) s fun a => a.fu f rcpF

/-- FRSQ (R144, R62). -/
def execFrsq (f : UnOps) (s : State) : Host.Outcome State Fault Refusal :=
  runWord (.frsq f) s fun a => a.fu f rsqF

/-- FSQRT (R144). -/
def execFsqrt (f : UnOps) (s : State) : Host.Outcome State Fault Refusal :=
  runWord (.fsqrt f) s fun a => a.fu f sqrtF

/-- FEXP2 (R144, R62). -/
def execFexp2 (f : UnOps) (s : State) : Host.Outcome State Fault Refusal :=
  runWord (.fexp2 f) s fun a => a.fu f exp2F

/-- FLOG2 (R144, R62). -/
def execFlog2 (f : UnOps) (s : State) : Host.Outcome State Fault Refusal :=
  runWord (.flog2 f) s fun a => a.fu f log2F

/-- FTANH (R144, R62). -/
def execFtanh (f : UnOps) (s : State) : Host.Outcome State Fault Refusal :=
  runWord (.ftanh f) s fun a => a.fu f tanhF

/-- FSIN (R144, R62). -/
def execFsin (f : UnOps) (s : State) : Host.Outcome State Fault Refusal :=
  runWord (.fsin f) s fun a => a.fu f (trigF false)

/-- FCOS (R144, R62). -/
def execFcos (f : UnOps) (s : State) : Host.Outcome State Fault Refusal :=
  runWord (.fcos f) s fun a => a.fu f (trigF true)

/-- BADD2 (R145). -/
def execBadd2 (f : VOps) (s : State) : Host.Outcome State Fault Refusal :=
  runWord (.badd2 f) s fun a => a.ff f fun c x y => pairF (fun x y _ => addF fmtBf16 c x y) x y 0

/-- BMUL2 (R145). -/
def execBmul2 (f : VOps) (s : State) : Host.Outcome State Fault Refusal :=
  runWord (.bmul2 f) s fun a => a.ff f fun c x y => pairF (fun x y _ => mulF fmtBf16 c x y) x y 0

/-- BMAC2 (R145). -/
def execBmac2 (f : VOps) (s : State) : Host.Outcome State Fault Refusal :=
  runWord (.bmac2 f) s fun a => a.ffd f fun c x y d => pairF (macF fmtBf16 c) x y d

/-- BMAX2 (R145). -/
def execBmax2 (f : VOps) (s : State) : Host.Outcome State Fault Refusal :=
  runWord (.bmax2 f) s fun a => a.ff f fun c x y => pairF (fun x y _ => minMaxF fmtBf16 c true x y) x y 0

/-- HADD2 (R145). -/
def execHadd2 (f : VOps) (s : State) : Host.Outcome State Fault Refusal :=
  runWord (.hadd2 f) s fun a => a.ff f fun c x y => pairF (fun x y _ => addF fmtFp16 c x y) x y 0

/-- HMUL2 (R145). -/
def execHmul2 (f : VOps) (s : State) : Host.Outcome State Fault Refusal :=
  runWord (.hmul2 f) s fun a => a.ff f fun c x y => pairF (fun x y _ => mulF fmtFp16 c x y) x y 0

/-- HMAC2 (R145). -/
def execHmac2 (f : VOps) (s : State) : Host.Outcome State Fault Refusal :=
  runWord (.hmac2 f) s fun a => a.ffd f fun c x y d => pairF (macF fmtFp16 c) x y d

/-- HMAX2 (R145). -/
def execHmax2 (f : VOps) (s : State) : Host.Outcome State Fault Refusal :=
  runWord (.hmax2 f) s fun a => a.ff f fun c x y => pairF (fun x y _ => minMaxF fmtFp16 c true x y) x y 0

/-- FCMP (R146). -/
def execFcmp (f : CmpOps) (s : State) : Host.Outcome State Fault Refusal :=
  runWord (.fcmp f) s fun a => 
    let r := fun l => fcmpHolds f.cond.toNat (a.ctl l).fin (a.v f.va.toNat l).toNat (a.v f.vb.toNat l).toNat
    a.completeF (a.p1 f.pd.toNat fun l => (r l).1) (a.lanes.map fun l => (l, (r l).2))

/-- FCLASS (R147). -/
def execFclass (f : ClassOps) (s : State) : Host.Outcome State Fault Refusal :=
  runWord (.fclass f) s fun a => 
    a.complete (a.p1 f.pd.toNat fun l => fclassHolds f.cond.toNat (a.v f.va.toNat l).toNat)

/-- FADDS (R153). -/
def execFadds (f : VsOps) (s : State) : Host.Outcome State Fault Refusal :=
  runWord (.fadds f) s fun a => 
    a.runF f.vd f.w fun k l => addF fmt32 (a.ctl l) (a.v (f.va.toNat + k) l).toNat (a.sc f.sb.toNat).toNat

/-- FMULS (R153). -/
def execFmuls (f : VsOps) (s : State) : Host.Outcome State Fault Refusal :=
  runWord (.fmuls f) s fun a => 
    a.runF f.vd f.w fun k l => mulF fmt32 (a.ctl l) (a.v (f.va.toNat + k) l).toNat (a.sc f.sb.toNat).toNat

end Sys2Proof.Machine
end

