-- ==== Sys2Proof/Machine/Integer.lean ====
section
/-! DEFINITION. Integer vector instructions: formats V, VI and VS of R116 to R123, and the integer compares of R124. -/

namespace Sys2Proof.Machine

open Sys2Proof

/-- IADD (R117, R118). -/
def execIadd (f : VOps) (s : State) : Host.Outcome State Fault Refusal :=
  runWord (.iadd f) s fun a => a.complete (a.vv f fun x y => satWrite a.sat (satRead a.sat x + satRead a.sat y))

/-- ISUB (R117, R118). -/
def execIsub (f : VOps) (s : State) : Host.Outcome State Fault Refusal :=
  runWord (.isub f) s fun a => a.complete (a.vv f fun x y => satWrite a.sat (satRead a.sat x - satRead a.sat y))

/-- IMUL (R117, R118): the low half of the product. -/
def execImul (f : VOps) (s : State) : Host.Outcome State Fault Refusal :=
  runWord (.imul f) s fun a => a.complete (a.vv f fun x y => satWrite a.sat (satRead a.sat x * satRead a.sat y))

/-- IMULH (R117). -/
def execImulh (f : VOps) (s : State) : Host.Outcome State Fault Refusal :=
  runWord (.imulh f) s fun a => a.complete (a.vv f fun x y => BitVec.ofInt 32 (x.toInt * y.toInt / 2 ^ 32))

/-- IMIN (R117). -/
def execImin (f : VOps) (s : State) : Host.Outcome State Fault Refusal :=
  runWord (.imin f) s fun a => a.complete (a.vv f fun x y => if x.toInt ≤ y.toInt then x else y)

/-- IMAX (R117). -/
def execImax (f : VOps) (s : State) : Host.Outcome State Fault Refusal :=
  runWord (.imax f) s fun a => a.complete (a.vv f fun x y => if y.toInt ≤ x.toInt then x else y)

/-- UMIN (R117). -/
def execUmin (f : VOps) (s : State) : Host.Outcome State Fault Refusal :=
  runWord (.umin f) s fun a => a.complete (a.vv f fun x y => if x.toNat ≤ y.toNat then x else y)

/-- UMAX (R117). -/
def execUmax (f : VOps) (s : State) : Host.Outcome State Fault Refusal :=
  runWord (.umax f) s fun a => a.complete (a.vv f fun x y => if y.toNat ≤ x.toNat then x else y)

/-- AND (R117). -/
def execLand (f : VOps) (s : State) : Host.Outcome State Fault Refusal :=
  runWord (.land f) s fun a => a.complete (a.vv f fun x y => x &&& y)

/-- OR (R117). -/
def execLor (f : VOps) (s : State) : Host.Outcome State Fault Refusal :=
  runWord (.lor f) s fun a => a.complete (a.vv f fun x y => x ||| y)

/-- XOR (R117). -/
def execLxor (f : VOps) (s : State) : Host.Outcome State Fault Refusal :=
  runWord (.lxor f) s fun a => a.complete (a.vv f fun x y => x ^^^ y)

/-- ANDN (R117). -/
def execLandn (f : VOps) (s : State) : Host.Outcome State Fault Refusal :=
  runWord (.landn f) s fun a => a.complete (a.vv f fun x y => x &&& ~~~y)

/-- SHL (R117). -/
def execShl (f : VOps) (s : State) : Host.Outcome State Fault Refusal :=
  runWord (.shl f) s fun a => a.complete (a.vv f shiftLeft)

/-- SHR (R117). -/
def execShr (f : VOps) (s : State) : Host.Outcome State Fault Refusal :=
  runWord (.shr f) s fun a => a.complete (a.vv f shiftRight)

/-- SAR (R117). -/
def execSar (f : VOps) (s : State) : Host.Outcome State Fault Refusal :=
  runWord (.sar f) s fun a => a.complete (a.vv f shiftArith)

/-- ROT (R117). -/
def execRot (f : VOps) (s : State) : Host.Outcome State Fault Refusal :=
  runWord (.rot f) s fun a => a.complete (a.vv f fun x y => x.rotateLeft (y.toNat % 32))

/-- IMAC (R119, R118). -/
def execImac (f : VOps) (s : State) : Host.Outcome State Fault Refusal :=
  runWord (.imac f) s fun a => 
    a.complete (a.vvd f fun c x y => satWrite a.sat (satRead a.sat c + satRead a.sat x * satRead a.sat y))

/-- IMULHU (R119). -/
def execImulhu (f : VOps) (s : State) : Host.Outcome State Fault Refusal :=
  runWord (.imulhu f) s fun a => a.complete (a.vv f fun x y => BitVec.ofNat 32 (x.toNat * y.toNat / 2 ^ 32))

/-- The sum of four unsigned byte differences (R119). -/
def sad4 (x y : Word) : Nat :=
  (upTo 4).foldl (fun s j => s + ((byteOf x j).toNat - (byteOf y j).toNat) + ((byteOf y j).toNat - (byteOf x j).toNat)) 0

/-- The sum of four signed byte products (R119). -/
def dot4 (x y : Word) : Int := (upTo 4).foldl (fun s j => s + (byteOf x j).toInt * (byteOf y j).toInt) 0

/-- ISAD (R119). -/
def execIsad (f : VOps) (s : State) : Host.Outcome State Fault Refusal :=
  runWord (.isad f) s fun a => a.complete (a.vvd f fun c x y => BitVec.ofNat 32 (c.toNat + sad4 x y))

/-- IDOT4 (R119). -/
def execIdot4 (f : VOps) (s : State) : Host.Outcome State Fault Refusal :=
  runWord (.idot4 f) s fun a => a.complete (a.vvd f fun c x y => BitVec.ofInt 32 (c.toInt + dot4 x y))

/-- INOT (R120). -/
def execInot (f : UnOps) (s : State) : Host.Outcome State Fault Refusal :=
  runWord (.inot f) s fun a => a.complete (a.vu f fun x => ~~~x)

/-- INEG (R120). -/
def execIneg (f : UnOps) (s : State) : Host.Outcome State Fault Refusal :=
  runWord (.ineg f) s fun a => a.complete (a.vu f fun x => -x)

/-- IABS (R120). -/
def execIabs (f : UnOps) (s : State) : Host.Outcome State Fault Refusal :=
  runWord (.iabs f) s fun a => a.complete (a.vu f fun x => if x.msb then -x else x)

/-- POPC (R120). -/
def execPopc (f : UnOps) (s : State) : Host.Outcome State Fault Refusal :=
  runWord (.popc f) s fun a => a.complete (a.vu f fun x => BitVec.ofNat 32 (countOnes x 32))

/-- CLZ (R120). -/
def execClz (f : UnOps) (s : State) : Host.Outcome State Fault Refusal :=
  runWord (.clz f) s fun a => a.complete (a.vu f fun x => BitVec.ofNat 32 (leadingZeros x 32))

/-- CTZ (R120). -/
def execCtz (f : UnOps) (s : State) : Host.Outcome State Fault Refusal :=
  runWord (.ctz f) s fun a => a.complete (a.vu f fun x => BitVec.ofNat 32 (trailingZerosFrom x 0 32))

/-- BREV (R120). -/
def execBrev (f : UnOps) (s : State) : Host.Outcome State Fault Refusal :=
  runWord (.brev f) s fun a => a.complete (a.vu f bitReverse)

/-- IADDI (R121, R118): the immediate keeps its signed value. -/
def execIaddi (f : ViOps) (s : State) : Host.Outcome State Fault Refusal :=
  runWord (.iaddi f) s fun a => 
    a.complete (a.v1 f.vd fun l => satWrite a.sat (satRead a.sat (a.v f.va.toNat l) + immInt a.iss.entry.hints f.imm))

/-- ANDI (R121). -/
def execAndi (f : ViOps) (s : State) : Host.Outcome State Fault Refusal :=
  runWord (.andi f) s fun a => a.complete (a.v1 f.vd fun l => a.v f.va.toNat l &&& imm32 a.iss.entry.hints f.imm)

/-- ORI (R121). -/
def execOri (f : ViOps) (s : State) : Host.Outcome State Fault Refusal :=
  runWord (.ori f) s fun a => a.complete (a.v1 f.vd fun l => a.v f.va.toNat l ||| imm32 a.iss.entry.hints f.imm)

/-- XORI (R121). -/
def execXori (f : ViOps) (s : State) : Host.Outcome State Fault Refusal :=
  runWord (.xori f) s fun a => a.complete (a.v1 f.vd fun l => a.v f.va.toNat l ^^^ imm32 a.iss.entry.hints f.imm)

/-- SHLI (R121). -/
def execShli (f : ShOps) (s : State) : Host.Outcome State Fault Refusal :=
  runWord (.shli f) s fun a => a.complete (a.v1 f.vd fun l => a.v f.va.toNat l <<< f.k.toNat)

/-- SHRI (R121). -/
def execShri (f : ShOps) (s : State) : Host.Outcome State Fault Refusal :=
  runWord (.shri f) s fun a => a.complete (a.v1 f.vd fun l => a.v f.va.toNat l >>> f.k.toNat)

/-- SARI (R121). -/
def execSari (f : ShOps) (s : State) : Host.Outcome State Fault Refusal :=
  runWord (.sari f) s fun a => a.complete (a.v1 f.vd fun l => (a.v f.va.toNat l).sshiftRight f.k.toNat)

/-- LI (R121). -/
def execLi (f : LiOps) (s : State) : Host.Outcome State Fault Refusal :=
  runWord (.li f) s fun a => a.complete (a.v1 f.vd fun _ => imm32 a.iss.entry.hints f.imm)

/-- IADDS (R122, R118). -/
def execIadds (f : VsOps) (s : State) : Host.Outcome State Fault Refusal :=
  runWord (.iadds f) s fun a => 
    a.complete (a.runOf f.vd f.w fun k l =>
      satWrite a.sat (satRead a.sat (a.v (f.va.toNat + k) l) + satRead a.sat (a.sc f.sb.toNat)))

/-- MOVS (R122). -/
def execMovs (f : MovsOps) (s : State) : Host.Outcome State Fault Refusal :=
  runWord (.movs f) s fun a => a.complete (a.runOf f.vd f.w fun _ _ => a.sc f.sb.toNat)

/-- MOV (R123). -/
def execMov (f : UnOps) (s : State) : Host.Outcome State Fault Refusal :=
  runWord (.mov f) s fun a => a.complete (a.vu f id)

/-- SEL (R123). -/
def execSel (f : SelOps) (s : State) : Host.Outcome State Fault Refusal :=
  runWord (.sel f) s fun a => a.complete (a.runOf f.vd f.w fun k l =>
    if a.p f.p.toNat l then a.v (f.va.toNat + k) l else a.v (f.vb.toNat + k) l)

/-- ICMP (R124). -/
def execIcmp (f : CmpOps) (s : State) : Host.Outcome State Fault Refusal :=
  runWord (.icmp f) s fun a => a.complete (a.p1 f.pd.toNat fun l =>
    intCond f.cond.toNat (a.v f.va.toNat l).toInt (a.v f.vb.toNat l).toInt)

/-- UCMP (R124). -/
def execUcmp (f : CmpOps) (s : State) : Host.Outcome State Fault Refusal :=
  runWord (.ucmp f) s fun a => a.complete (a.p1 f.pd.toNat fun l =>
    intCond f.cond.toNat (a.v f.va.toNat l).toNat (a.v f.vb.toNat l).toNat)

end Sys2Proof.Machine
end

