-- ==== Sys2Proof/Machine/Scalar.lean ====
section
/-! DEFINITION. Scalar instructions (R125 to R127). -/

namespace Sys2Proof.Machine

open Sys2Proof

/-- SADD (R126). -/
def execSadd (f : S3Ops) (s : State) : Host.Outcome State Fault Refusal :=
  runWord (.sadd f) s fun a => a.complete (a.ss f fun x y => x + y)

/-- SSUB (R126). -/
def execSsub (f : S3Ops) (s : State) : Host.Outcome State Fault Refusal :=
  runWord (.ssub f) s fun a => a.complete (a.ss f fun x y => x - y)

/-- SMUL (R126). -/
def execSmul (f : S3Ops) (s : State) : Host.Outcome State Fault Refusal :=
  runWord (.smul f) s fun a => a.complete (a.ss f fun x y => x * y)

/-- SAND (R126). -/
def execSand (f : S3Ops) (s : State) : Host.Outcome State Fault Refusal :=
  runWord (.sand f) s fun a => a.complete (a.ss f fun x y => x &&& y)

/-- SOR (R126). -/
def execSor (f : S3Ops) (s : State) : Host.Outcome State Fault Refusal :=
  runWord (.sor f) s fun a => a.complete (a.ss f fun x y => x ||| y)

/-- SXOR (R126). -/
def execSxor (f : S3Ops) (s : State) : Host.Outcome State Fault Refusal :=
  runWord (.sxor f) s fun a => a.complete (a.ss f fun x y => x ^^^ y)

/-- SSHL (R126). -/
def execSshl (f : S3Ops) (s : State) : Host.Outcome State Fault Refusal :=
  runWord (.sshl f) s fun a => a.complete (a.ss f shiftLeft)

/-- SSHR (R126). -/
def execSshr (f : S3Ops) (s : State) : Host.Outcome State Fault Refusal :=
  runWord (.sshr f) s fun a => a.complete (a.ss f shiftRight)

/-- SADDI (R127). -/
def execSaddi (f : SiOps) (s : State) : Host.Outcome State Fault Refusal :=
  runWord (.saddi f) s fun a => a.complete (a.s1 f.sd (a.sc f.sa.toNat + imm32 a.iss.entry.hints f.imm))

/-- SLI (R127). -/
def execSli (f : SliOps) (s : State) : Host.Outcome State Fault Refusal :=
  runWord (.sli f) s fun a => a.complete (a.s1 f.sd (imm32 a.iss.entry.hints f.imm))

/-- SMOV (R127). -/
def execSmov (f : S2Ops) (s : State) : Host.Outcome State Fault Refusal :=
  runWord (.smov f) s fun a => a.complete (a.s1 f.sd (a.sc f.sa.toNat))

/-- V2S (R127): the named lane, member or not. -/
def execV2s (f : V2sOps) (s : State) : Host.Outcome State Fault Refusal :=
  runWord (.v2s f) s fun a => a.complete (a.s1 f.sd (a.v f.va.toNat f.lane.toNat))

/-- SMIN (R127). -/
def execSmin (f : S3Ops) (s : State) : Host.Outcome State Fault Refusal :=
  runWord (.smin f) s fun a => a.complete (a.ss f fun x y => if x.toInt ≤ y.toInt then x else y)

/-- SMAX (R127). -/
def execSmax (f : S3Ops) (s : State) : Host.Outcome State Fault Refusal :=
  runWord (.smax f) s fun a => a.complete (a.ss f fun x y => if y.toInt ≤ x.toInt then x else y)

/-- SCLZ (R127). -/
def execSclz (f : S2Ops) (s : State) : Host.Outcome State Fault Refusal :=
  runWord (.sclz f) s fun a => a.complete (a.s1 f.sd (BitVec.ofNat 32 (leadingZeros (a.sc f.sa.toNat) 32)))

/-- SPOPC (R127). -/
def execSpopc (f : S2Ops) (s : State) : Host.Outcome State Fault Refusal :=
  runWord (.spopc f) s fun a => a.complete (a.s1 f.sd (BitVec.ofNat 32 (countOnes (a.sc f.sa.toNat) 32)))

end Sys2Proof.Machine
end

