-- ==== Sys2Proof/Machine/Dispatch.lean ====
section
/-! DEFINITION. The meaning of every row of the opcode table. -/

namespace Sys2Proof.Machine

open Sys2Proof

/-- Execute an instruction word of the current issue, or an event. (DEDUCED, log entry 42.) -/
def exec (i : Instr) (s : State) : Host.Outcome State Fault Refusal :=
  match i with
  | .iadd f => Sys2Proof.Machine.execIadd f s
  | .isub f => Sys2Proof.Machine.execIsub f s
  | .imul f => Sys2Proof.Machine.execImul f s
  | .imulh f => Sys2Proof.Machine.execImulh f s
  | .imin f => Sys2Proof.Machine.execImin f s
  | .imax f => Sys2Proof.Machine.execImax f s
  | .umin f => Sys2Proof.Machine.execUmin f s
  | .umax f => Sys2Proof.Machine.execUmax f s
  | .land f => Sys2Proof.Machine.execLand f s
  | .lor f => Sys2Proof.Machine.execLor f s
  | .lxor f => Sys2Proof.Machine.execLxor f s
  | .landn f => Sys2Proof.Machine.execLandn f s
  | .shl f => Sys2Proof.Machine.execShl f s
  | .shr f => Sys2Proof.Machine.execShr f s
  | .sar f => Sys2Proof.Machine.execSar f s
  | .rot f => Sys2Proof.Machine.execRot f s
  | .imac f => Sys2Proof.Machine.execImac f s
  | .imulhu f => Sys2Proof.Machine.execImulhu f s
  | .isad f => Sys2Proof.Machine.execIsad f s
  | .idot4 f => Sys2Proof.Machine.execIdot4 f s
  | .inot f => Sys2Proof.Machine.execInot f s
  | .ineg f => Sys2Proof.Machine.execIneg f s
  | .iabs f => Sys2Proof.Machine.execIabs f s
  | .popc f => Sys2Proof.Machine.execPopc f s
  | .clz f => Sys2Proof.Machine.execClz f s
  | .ctz f => Sys2Proof.Machine.execCtz f s
  | .brev f => Sys2Proof.Machine.execBrev f s
  | .fneg f => Sys2Proof.Machine.execFneg f s
  | .fabs f => Sys2Proof.Machine.execFabs f s
  | .ffloor f => Sys2Proof.Machine.execFfloor f s
  | .fceil f => Sys2Proof.Machine.execFceil f s
  | .ftrunc f => Sys2Proof.Machine.execFtrunc f s
  | .frint f => Sys2Proof.Machine.execFrint f s
  | .frcp f => Sys2Proof.Machine.execFrcp f s
  | .frsq f => Sys2Proof.Machine.execFrsq f s
  | .fsqrt f => Sys2Proof.Machine.execFsqrt f s
  | .fexp2 f => Sys2Proof.Machine.execFexp2 f s
  | .flog2 f => Sys2Proof.Machine.execFlog2 f s
  | .ftanh f => Sys2Proof.Machine.execFtanh f s
  | .fsin f => Sys2Proof.Machine.execFsin f s
  | .fcos f => Sys2Proof.Machine.execFcos f s
  | .fadd f => Sys2Proof.Machine.execFadd f s
  | .fsub f => Sys2Proof.Machine.execFsub f s
  | .fmul f => Sys2Proof.Machine.execFmul f s
  | .fmac f => Sys2Proof.Machine.execFmac f s
  | .fmin f => Sys2Proof.Machine.execFmin f s
  | .fmax f => Sys2Proof.Machine.execFmax f s
  | .fsgnj f => Sys2Proof.Machine.execFsgnj f s
  | .fabd f => Sys2Proof.Machine.execFabd f s
  | .badd2 f => Sys2Proof.Machine.execBadd2 f s
  | .bmul2 f => Sys2Proof.Machine.execBmul2 f s
  | .bmac2 f => Sys2Proof.Machine.execBmac2 f s
  | .bmax2 f => Sys2Proof.Machine.execBmax2 f s
  | .hadd2 f => Sys2Proof.Machine.execHadd2 f s
  | .hmul2 f => Sys2Proof.Machine.execHmul2 f s
  | .hmac2 f => Sys2Proof.Machine.execHmac2 f s
  | .hmax2 f => Sys2Proof.Machine.execHmax2 f s
  | .icmp f => Sys2Proof.Machine.execIcmp f s
  | .ucmp f => Sys2Proof.Machine.execUcmp f s
  | .fcmp f => Sys2Proof.Machine.execFcmp f s
  | .fclass f => Sys2Proof.Machine.execFclass f s
  | .cvtf f => Sys2Proof.Machine.execCvtf f s
  | .cvth f => Sys2Proof.Machine.execCvth f s
  | .bxpack f => Sys2Proof.Machine.execBxpack f s
  | .bxunpack f => Sys2Proof.Machine.execBxunpack f s
  | .bxdot2 f => Sys2Proof.Machine.execBxdot2 f s
  | .bxdot4 f => Sys2Proof.Machine.execBxdot4 f s
  | .bxdot7 f => Sys2Proof.Machine.execBxdot7 f s
  | .f4dot f => Sys2Proof.Machine.execF4dot f s
  | .shfl f => Sys2Proof.Machine.execShfl f s
  | .vote f => Sys2Proof.Machine.execVote f s
  | .redux f => Sys2Proof.Machine.execRedux f s
  | .scan f => Sys2Proof.Machine.execScan f s
  | .iadds f => Sys2Proof.Machine.execIadds f s
  | .fadds f => Sys2Proof.Machine.execFadds f s
  | .fmuls f => Sys2Proof.Machine.execFmuls f s
  | .movs f => Sys2Proof.Machine.execMovs f s
  | .iaddi f => Sys2Proof.Machine.execIaddi f s
  | .andi f => Sys2Proof.Machine.execAndi f s
  | .ori f => Sys2Proof.Machine.execOri f s
  | .xori f => Sys2Proof.Machine.execXori f s
  | .shli f => Sys2Proof.Machine.execShli f s
  | .shri f => Sys2Proof.Machine.execShri f s
  | .sari f => Sys2Proof.Machine.execSari f s
  | .li f => Sys2Proof.Machine.execLi f s
  | .mov f => Sys2Proof.Machine.execMov f s
  | .sel f => Sys2Proof.Machine.execSel f s
  | .xsend f => Sys2Proof.Machine.execXsend f s
  | .xrecv f => Sys2Proof.Machine.execXrecv f s
  | .pop f => Sys2Proof.Machine.execPop f s
  | .push f => Sys2Proof.Machine.execPush f s
  | .peek f => Sys2Proof.Machine.execPeek f s
  | .qlen f => Sys2Proof.Machine.execQlen f s
  | .sadd f => Sys2Proof.Machine.execSadd f s
  | .ssub f => Sys2Proof.Machine.execSsub f s
  | .smul f => Sys2Proof.Machine.execSmul f s
  | .sand f => Sys2Proof.Machine.execSand f s
  | .sor f => Sys2Proof.Machine.execSor f s
  | .sxor f => Sys2Proof.Machine.execSxor f s
  | .sshl f => Sys2Proof.Machine.execSshl f s
  | .sshr f => Sys2Proof.Machine.execSshr f s
  | .saddi f => Sys2Proof.Machine.execSaddi f s
  | .sli f => Sys2Proof.Machine.execSli f s
  | .smov f => Sys2Proof.Machine.execSmov f s
  | .v2s f => Sys2Proof.Machine.execV2s f s
  | .smin f => Sys2Proof.Machine.execSmin f s
  | .smax f => Sys2Proof.Machine.execSmax f s
  | .sclz f => Sys2Proof.Machine.execSclz f s
  | .spopc f => Sys2Proof.Machine.execSpopc f s
  | .aadd f => Sys2Proof.Machine.execAadd f s
  | .asub f => Sys2Proof.Machine.execAsub f s
  | .amul f => Sys2Proof.Machine.execAmul f s
  | .aand f => Sys2Proof.Machine.execAand f s
  | .aor f => Sys2Proof.Machine.execAor f s
  | .axor f => Sys2Proof.Machine.execAxor f s
  | .ashl f => Sys2Proof.Machine.execAshl f s
  | .ashr f => Sys2Proof.Machine.execAshr f s
  | .asar f => Sys2Proof.Machine.execAsar f s
  | .amin f => Sys2Proof.Machine.execAmin f s
  | .amax f => Sys2Proof.Machine.execAmax f s
  | .alea f => Sys2Proof.Machine.execAlea f s
  | .acmp f => Sys2Proof.Machine.execAcmp f s
  | .amov f => Sys2Proof.Machine.execAmov f s
  | .a2s f => Sys2Proof.Machine.execA2s f s
  | .s2a f => Sys2Proof.Machine.execS2a f s
  | .aaddi f => Sys2Proof.Machine.execAaddi f s
  | .ali f => Sys2Proof.Machine.execAli f s
  | .alui f => Sys2Proof.Machine.execAlui f s
  | .aandi f => Sys2Proof.Machine.execAandi f s
  | .aori f => Sys2Proof.Machine.execAori f s
  | .ashli f => Sys2Proof.Machine.execAshli f s
  | .ashri f => Sys2Proof.Machine.execAshri f s
  | .acmpi f => Sys2Proof.Machine.execAcmpi f s
  | .ldq f => Sys2Proof.Machine.execLdq f s
  | .lda f => Sys2Proof.Machine.execLda f s
  | .st f => Sys2Proof.Machine.execSt f s
  | .atomAdd f => Sys2Proof.Machine.execAtomAdd f s
  | .atomMin f => Sys2Proof.Machine.execAtomMin f s
  | .atomMax f => Sys2Proof.Machine.execAtomMax f s
  | .atomAnd f => Sys2Proof.Machine.execAtomAnd f s
  | .atomOr f => Sys2Proof.Machine.execAtomOr f s
  | .atomXor f => Sys2Proof.Machine.execAtomXor f s
  | .atomXchg f => Sys2Proof.Machine.execAtomXchg f s
  | .atomCas f => Sys2Proof.Machine.execAtomCas f s
  | .ldl f => Sys2Proof.Machine.execLdl f s
  | .stl f => Sys2Proof.Machine.execStl f s
  | .ldt f => Sys2Proof.Machine.execLdt f s
  | .stt f => Sys2Proof.Machine.execStt f s
  | .br f => Sys2Proof.Machine.execBr f s
  | .brt f => Sys2Proof.Machine.execBrt f s
  | .brf f => Sys2Proof.Machine.execBrf f s
  | .call f => Sys2Proof.Machine.execCall f s
  | .ret f => Sys2Proof.Machine.execRet f s
  | .jmps f => Sys2Proof.Machine.execJmps f s
  | .exit => Sys2Proof.Machine.execExit s
  | .cpl f => Sys2Proof.Machine.execCpl f s
  | .cpk f => Sys2Proof.Machine.execCpk f s
  | .pft f => Sys2Proof.Machine.execPft f s
  | .tload f => Sys2Proof.Machine.execTload f s
  | .tsclaim f => Sys2Proof.Machine.execTsclaim f s
  | .tsrel f => Sys2Proof.Machine.execTsrel f s
  | .mma f => Sys2Proof.Machine.execMma f s
  | .mdist f => Sys2Proof.Machine.execMdist f s
  | .mtopk f => Sys2Proof.Machine.execMtopk f s
  | .mattn f => Sys2Proof.Machine.execMattn f s
  | .macz f => Sys2Proof.Machine.execMacz f s
  | .macrd f => Sys2Proof.Machine.execMacrd f s
  | .spawn f => Sys2Proof.Machine.execSpawn f s
  | .vwsync f => Sys2Proof.Machine.execVwsync f s
  | .vwstat f => Sys2Proof.Machine.execVwstat f s
  | .segmk f => Sys2Proof.Machine.execSegmk f s
  | .segatt f => Sys2Proof.Machine.execSegatt f s
  | .segdet f => Sys2Proof.Machine.execSegdet f s
  | .segdrop f => Sys2Proof.Machine.execSegdrop f s
  | .segseal f => Sys2Proof.Machine.execSegseal f s
  | .ctload f => Sys2Proof.Machine.execCtload f s
  | .ctinv f => Sys2Proof.Machine.execCtinv f s
  | .xlmapNew f => Sys2Proof.Machine.execXlmapNew f s
  | .xlmapRd f => Sys2Proof.Machine.execXlmapRd f s
  | .xlmapWr f => Sys2Proof.Machine.execXlmapWr f s
  | .xlfork f => Sys2Proof.Machine.execXlfork f s
  | .xlfree f => Sys2Proof.Machine.execXlfree f s
  | .xlfreeAccept f => Sys2Proof.Machine.execXlfreeAccept f s
  | .xlseal f => Sys2Proof.Machine.execXlseal f s
  | .xlpfx f => Sys2Proof.Machine.execXlpfx f s
  | .evwait f => Sys2Proof.Machine.execEvwait f s
  | .evset f => Sys2Proof.Machine.execEvset f s
  | .evclr f => Sys2Proof.Machine.execEvclr f s
  | .evtest f => Sys2Proof.Machine.execEvtest f s
  | .tbinit f => Sys2Proof.Machine.execTbinit f s
  | .tbarv f => Sys2Proof.Machine.execTbarv f s
  | .tbarvLanes f => Sys2Proof.Machine.execTbarvLanes f s
  | .tbexp f => Sys2Proof.Machine.execTbexp f s
  | .tbexpArv f => Sys2Proof.Machine.execTbexpArv f s
  | .tbwait f => Sys2Proof.Machine.execTbwait f s
  | .cwait f => Sys2Proof.Machine.execCwait f s
  | .fence f => Sys2Proof.Machine.execFence f s
  | .trap f => Sys2Proof.Machine.execTrap f s
  | .tret => Sys2Proof.Machine.execTret s
  | .brk f => Sys2Proof.Machine.execBrk f s
  | .csrr f => Sys2Proof.Machine.execCsrr f s
  | .csrw f => Sys2Proof.Machine.execCsrw f s
  | .sleep f => Sys2Proof.Machine.execSleep f s
  | .yield => Sys2Proof.Machine.execYield s
  | .rgrow f => Sys2Proof.Machine.execRgrow f s
  | .rshrink f => Sys2Proof.Machine.execRshrink f s
  | .rsync => Sys2Proof.Machine.execRsync s
  | .lsmode f => Sys2Proof.Machine.execLsmode f s
  | .nop => Sys2Proof.Machine.execNop s
  | .hImm f => Sys2Proof.Machine.execHImm f s
  | .hImx f => Sys2Proof.Machine.execHImx f s
  | .hKill f => Sys2Proof.Machine.execHKill f s
  | .hSched f => Sys2Proof.Machine.execHSched f s
  | .hMod f => Sys2Proof.Machine.execHMod f s
  | .hPred f => Sys2Proof.Machine.execHPred f s
  | .loadDelivery g acc => Sys2Proof.Machine.execLoadDelivery g acc s
  | .ldaFill g acc => Sys2Proof.Machine.execLdaFill g acc s
  | .ldtDelivery g op => Sys2Proof.Machine.execLdtDelivery g op s
  | .sttPopStep g op => Sys2Proof.Machine.execSttPopStep g op s
  | .tileDecode core port => Sys2Proof.Machine.execTileDecode core port s
  | .encodeTile core => Sys2Proof.Machine.execEncodeTile core s
  | .copyItem o => Sys2Proof.Machine.execCopyItem o s
  | .cplItem g op lane => Sys2Proof.Machine.execCplItem g op lane s
  | .prefetchLine g op => Sys2Proof.Machine.execPrefetchLine g op s
  | .matrixProductExecute core => Sys2Proof.Machine.execMatrixProductExecute core s
  | .topkExecute core => Sys2Proof.Machine.execTopkExecute core s
  | .attentionExecute core => Sys2Proof.Machine.execAttentionExecute core s
  | .accumulatorRead core => Sys2Proof.Machine.execAccumulatorRead core s
  | .proofSample core => Sys2Proof.Machine.execProofSample core s
  | .pmvalReply g strand lane => Sys2Proof.Machine.execPmvalReply g strand lane s
  | .viewRefresh cluster => Sys2Proof.Machine.execViewRefresh cluster s
  | .spawnAccept g op => Sys2Proof.Machine.execSpawnAccept g op s
  | .groupAdmit g core => Sys2Proof.Machine.execGroupAdmit g core s
  | .groupReadmit g => Sys2Proof.Machine.execGroupReadmit g s
  | .groupPark g => Sys2Proof.Machine.execGroupPark g s
  | .groupRetire g => Sys2Proof.Machine.execGroupRetire g s
  | .regGrant core => Sys2Proof.Machine.execRegGrant core s
  | .turnTimerExpiry g strand => Sys2Proof.Machine.execTurnTimerExpiry g strand s
  | .frontierSpillExchange g strand => Sys2Proof.Machine.execFrontierSpillExchange g strand s
  | .deadlockCount g lane => Sys2Proof.Machine.execDeadlockCount g lane s
  | .swapThreshold g => Sys2Proof.Machine.execSwapThreshold g s
  | .admissionWaitLimit g => Sys2Proof.Machine.execAdmissionWaitLimit g s
  | .sleepExpiry g strand entry => Sys2Proof.Machine.execSleepExpiry g strand entry s
  | .lsmodeComplete core bank => Sys2Proof.Machine.execLsmodeComplete core bank s
  | .segmentEvict core => Sys2Proof.Machine.execSegmentEvict core s
  | .segmentEvictionComplete ctx seg => Sys2Proof.Machine.execSegmentEvictionComplete ctx seg s
  | .segmentRestoreComplete ctx seg => Sys2Proof.Machine.execSegmentRestoreComplete ctx seg s
  | .seedStart q => Sys2Proof.Machine.execSeedStart q s
  | .mscEviction line => Sys2Proof.Machine.execMscEviction line s
  | .monitorSnapshot cluster mon => Sys2Proof.Machine.execMonitorSnapshot cluster mon s
  | .doorbell q => Sys2Proof.Machine.execDoorbell q s
  | .nopPacket q => Sys2Proof.Machine.execNopPacket q s
  | .launch q => Sys2Proof.Machine.execLaunch q s
  | .wait q => Sys2Proof.Machine.execWait q s
  | .signal q => Sys2Proof.Machine.execSignal q s
  | .copy q => Sys2Proof.Machine.execCopy q s
  | .viewReg q => Sys2Proof.Machine.execViewReg q s
  | .packetComplete q => Sys2Proof.Machine.execPacketComplete q s
  | .semaphorePoll q => Sys2Proof.Machine.execSemaphorePoll q s
  | .eventOverflowPoll g strand entry => Sys2Proof.Machine.execEventOverflowPoll g strand entry s
  | .ringConsPoll ctx ring => Sys2Proof.Machine.execRingConsPoll ctx ring s
  | .faultans part value => Sys2Proof.Machine.execFaultans part value s
  | .inval part ctx hi => Sys2Proof.Machine.execInval part ctx hi s
  | .invalidationComplete part ctx => Sys2Proof.Machine.execInvalidationComplete part ctx s
  | .ctxcmdCreate part value => Sys2Proof.Machine.execCtxcmdCreate part value s
  | .ctxcmdDestroy part value => Sys2Proof.Machine.execCtxcmdDestroy part value s
  | .ctxcmdPreempt part value => Sys2Proof.Machine.execCtxcmdPreempt part value s
  | .preemptSave ctx => Sys2Proof.Machine.execPreemptSave ctx s
  | .ctxcmdResume part value => Sys2Proof.Machine.execCtxcmdResume part value s
  | .contextResume ctx => Sys2Proof.Machine.execContextResume ctx s
  | .qcmdBind part value => Sys2Proof.Machine.execQcmdBind part value s
  | .qcmdUnbind part value => Sys2Proof.Machine.execQcmdUnbind part value s
  | .queueFree q => Sys2Proof.Machine.execQueueFree q s
  | .moncfg part cluster mon value => Sys2Proof.Machine.execMoncfg part cluster mon value s
  | .domain value => Sys2Proof.Machine.execDomain value s
  | .extasn value => Sys2Proof.Machine.execExtasn value s
  | .corrsel part core ptm => Sys2Proof.Machine.execCorrsel part core ptm s
  | .registerWrite part off value => Sys2Proof.Machine.execRegisterWrite part off value s
  | .kick g lane value => Sys2Proof.Machine.execKick g lane value s
  | .mstat g value => Sys2Proof.Machine.execMstat g value s
  | .createRegion region tdi base len => Sys2Proof.Machine.execCreateRegion region tdi base len s
  | .destroyRegion region => Sys2Proof.Machine.execDestroyRegion region s
  | .tdiLeaveRun tdi => Sys2Proof.Machine.execTdiLeaveRun tdi s
  | .spdmRequest req => Sys2Proof.Machine.execSpdmRequest req s
  | .recoveryImage image => Sys2Proof.Machine.execRecoveryImage image s
  | .deviceReset => Sys2Proof.Machine.execDeviceReset s
  | .coreScan core => Sys2Proof.Machine.execCoreScan core s
  | .scanEnd core pass => Sys2Proof.Machine.execScanEnd core pass s
  | .scanAbort core => Sys2Proof.Machine.execScanAbort core s
  | .d3hot => Sys2Proof.Machine.execD3hot s
  | .d3cold => Sys2Proof.Machine.execD3cold s
  | .powerLimitThrottle milliwatts => Sys2Proof.Machine.execPowerLimitThrottle milliwatts s
  | .thermalThrottle celsius => Sys2Proof.Machine.execThermalThrottle celsius s
  | .thermalShutdown celsius => Sys2Proof.Machine.execThermalShutdown celsius s
  | .extentRelease ext => Sys2Proof.Machine.execExtentRelease ext s
  | .extentReleaseAck ext => Sys2Proof.Machine.execExtentReleaseAck ext s
  | .extentRevoke ext => Sys2Proof.Machine.execExtentRevoke ext s
  | .eccUncorrectable line kind => Sys2Proof.Machine.execEccUncorrectable line kind s
  | .barporFlit port crcOk addr data => Sys2Proof.Machine.execBarporFlit port crcOk addr data s
  | .rdmaAccess part write addr data => Sys2Proof.Machine.execRdmaAccess part write addr data s
  | .coreCycle core => Sys2Proof.Machine.execCoreCycle core s
  | .l1Eviction core line => Sys2Proof.Machine.execL1Eviction core line s
  | .storePerformed g acc => Sys2Proof.Machine.execStorePerformed g acc s
  | .dynamicCapacityAdd ext base len => Sys2Proof.Machine.execDynamicCapacityAdd ext base len s
  | .barporLinkDown port => Sys2Proof.Machine.execBarporLinkDown port s
  | .partitionAssign cluster part => Sys2Proof.Machine.execPartitionAssign cluster part s

end Sys2Proof.Machine
end

