-- ==== Sys2Proof/Machine/Step.lean ====
section
/-! DEFINITION. One step of the machine, and the placing of one word where the next step fetches it. -/

namespace Sys2Proof.Machine

open Sys2Proof

/-- One step: the next move of the agenda, or of the default schedule, is made (DESIGN CHOICE, log entry 1). A step that issues a word
fetches, decodes and executes it; a step that is an event executes the event. -/
def step (s : State) : Host.Outcome State Fault Refusal :=
  match startMove (takeMove s).1 (takeMove s).2 with
  | (t, none) => .next t
  | (t, some i) => exec i t

/-- `s` with the word of the opcode table's bits `w` stored where the next step fetches it. Every word has 32 bits. -/
def State.withFetchWord (s : State) (_nbits w : Nat) : State := placeWord s (BitVec.ofNat 32 w)

end Sys2Proof.Machine
end

