-- ==== Sys2Proof/Safety.lean ====
section
/-! DEFINITION. The terms that claims are stated in: a safe run, an instruction that runs, and what it leaves alone. -/

namespace Sys2Proof

open Sys2Proof.Machine

/-! ### Runs -/

/-- A step that goes on. -/
def Goes (s t : State) : Prop := step s = .next t

/-- `t` is reached from `s` in some number of steps that go on. -/
inductive Reaches : State → State → Prop where
  | refl (s : State) : Reaches s s
  | step (s t u : State) (h : Reaches s t) (g : Goes t u) : Reaches s u

/-- A state from which the machine goes on: no step of a safe run is a fault or a refusal. -/
def Live (s : State) : Prop := ∃ t, Goes s t

/-- The memory of a state is in its canonical form. -/
def MemoryOk (s : State) : Prop := Memory.wf s.mem = true

/-- The bytes of every core's banks are in the canonical form. -/
def BanksOk (s : State) : Prop := ∀ p ∈ s.cores, Memory.wf p.2.banks = true

/-! ### An instruction that runs -/

/-- The members of an issue that act: those that h.pred leaves (R91). -/
def acting (s : State) (iss : Issue) (g : Group) : List Nat := selected g (s.free + 1) iss

/-- Whether an instruction is a hint word (R84). -/
def isHint (i : Instr) : Bool :=
  match i with
  | .hImm _ | .hImx _ | .hKill _ | .hSched _ | .hMod _ | .hPred _ => true
  | _ => false

/-- The v sources that must be full. -/
def sources (i : Instr) (s : State) (iss : Issue) (g : Group) : List VSource :=
  vSources i (shapeOf iss.strand i) (acting s iss g)

/-- Instruction `i` is the one that issues, in a sequence that is legal (R67, R84). -/
abbrev Issues (i : Instr) (s : State) (iss : Issue) (g : Group) : Prop :=
  s.cur = some iss ∧ s.group? iss.group = some g ∧ illegalInstr g iss i = none

/-- Instruction `i` issues and nothing stands before its own effect: a member acts (R91), the registers it names are
allocated (R72), and none that it waits for is empty (R71). -/
abbrev Runs (i : Instr) (s : State) (iss : Issue) (g : Group) : Prop :=
  Issues i s iss g ∧ acting s iss g ≠ []
    ∧ notAllocated g (shapeOf iss.strand i) = none
    ∧ emptyRead g (sources i s iss g) = none
    ∧ emptyCodes g i (shapeOf iss.strand i) (sources i s iss g) (acting s iss g) = []

/-! ### Values -/

/-- What an instruction issued now reads in v register `r` of lane `l` (R101). -/
def vNow (s : State) (g : Group) (r l : Nat) : Word := (g.read (s.free + 1) (vCode r l)).truncate 32

/-- What an instruction issued now reads in a register `r` of lane `l`: a0 is zero (R72). -/
def aNow (s : State) (g : Group) (r l : Nat) : DWord := if r = 0 then 0#64 else g.read (s.free + 1) (aCode r l)

/-- What an instruction issued now reads in scalar `k`. -/
def sNow (s : State) (g : Group) (k : Nat) : Word := (g.read (s.free + 1) (sCode k)).truncate 32

/-- What an instruction issued now reads in predicate `i` of a strand in lane `l`. -/
def pNow (s : State) (g : Group) (st : Strand) (i l : Nat) : Bool := (g.read (s.free + 1) (pCode st i l)).getLsbD 0

/-- `l` stands in an open entry of strand `st` at `pc`, with no hint issued. -/
def Stands (g : Group) (st : Strand) (l : Nat) (pc : VAddr) : Prop :=
  ∃ e ∈ (g.frontier st).entries, e.pc = pc ∧ e.block = .ready ∧ e.hints = [] ∧ l ∈ e.members

/-- `l` is blocked by `b` in an entry of strand `st` at `pc`. -/
def Blocked (g : Group) (st : Strand) (l : Nat) (pc : VAddr) (b : Block) : Prop :=
  ∃ e ∈ (g.frontier st).entries, e.pc = pc ∧ e.block = b ∧ l ∈ e.members

/-! ### Frames -/

/-- The machine but for group `k` and the marks of the issue. -/
def elsewhere (k : Nat) (s : State) : State := { s with groups := SMap.erase s.groups k, cur := none, free := 0 }

/-- A group but for its registers, forwarding windows, frontiers and the counts of an issue, and but for what `h` takes out of each
thread. -/
def aside (h : Thread → Thread) (g : Group) : Group :=
  { g with regs := [], bank := [], loose := [], stores := [], winC := [], winA := [], sentC := 0, sentA := 0, frC := {}, frA := {}, nextId := 0, idle := 0,
           idleDue := false, threads := g.threads.map fun t => h { t with deadlock := 0 } }

/-- Nothing but group `k` has changed from `s` to `t`, and no byte of memory. -/
def OnlyGroup (k : Nat) (s t : State) : Prop :=
  elsewhere k t = elsewhere k s ∧ ∀ x, readByte t x = readByte s x

/-- From `g` to `g'` the registers that `P` gives a value hold it, whatever a later read may choose, and every other register
keeps its architectural value (R101, R108). -/
def Written (P : Nat → DWord → Prop) (g g' : Group) : Prop :=
  (∀ c x, P c x → ∀ n, g'.read n c = x) ∧ ∀ c, (∀ x, ¬ P c x) → g'.arch c = g.arch c

/-- The issue of `i` in `g` answers a next state `t` in which the group is `g'` and `Q t g'` holds. -/
def Answers (i : Instr) (s : State) (iss : Issue) (Q : State → Group → Prop) : Prop :=
  ∃ t g', exec i s = .next t ∧ t.group? iss.group = some g' ∧ Q t g'

/-- Each acting lane goes on at the word after the instruction. -/
def GoOn (s : State) (iss : Issue) (g g' : Group) : Prop :=
  ∀ l ∈ acting s iss g, Stands g' iss.strand l (iss.entry.pc + 4#56)

/-- `i` runs, writes the registers that `P` names and goes on; nothing else changes: no other register, no trap register, queue or
control register of a thread, no full/empty bit, no access or operation, no other group, no special register, no memory. -/
def WritesOnly (i : Instr) (s : State) (iss : Issue) (g : Group) (P : Nat → DWord → Prop) : Prop :=
  Answers i s iss fun t g' =>
    Written P g g' ∧ aside id g' = aside id g ∧ OnlyGroup iss.group s t ∧ GoOn s iss g g'

/-- As `WritesOnly`, with sticky flags: the thread of each acting lane takes the flags `fl` (R54). -/
def WritesFlags (i : Instr) (s : State) (iss : Issue) (g : Group) (P : Nat → DWord → Prop) (fl : Nat → Word) : Prop :=
  let noFlags : Thread → Thread := fun t => { t with fmode := 0#32 }
  Answers i s iss fun t g' =>
    Written P g g' ∧ aside noFlags g' = aside noFlags g ∧ OnlyGroup iss.group s t ∧ GoOn s iss g g'
      ∧ ∀ l, (g'.thread l).fmode =
          if l ∈ acting s iss g then (g.thread l).fmode ||| (fl l &&& 0xFC00#32) else (g.thread l).fmode

/-- What an instruction issued now acts on: the machine as the issue leaves it, and the acting lanes. -/
def acts (s : State) (iss : Issue) (g : Group) : Act :=
  let t := resetDeadlock { s with free := s.free + 1 } iss
  let h := (t.group? iss.group).getD g
  ⟨t, iss, h, selected h t.free iss⟩

/-- The group as the issue of an instruction that does not complete with it leaves it: the strand's window has aged (R108). -/
def agedGroup (iss : Issue) (g : Group) : Group := if iss.entry.block.issued then g else g.pushWindow iss.strand []

/-- The lowest-numbered acting lane, from which an instruction that executes once takes its operands (R277, R285). -/
def lead (s : State) (iss : Issue) (g : Group) : Nat := (acting s iss g).headD 0

/-- Each thread is what `f` makes of it, but for its deadlock count. -/
def ThreadsBecome (f : Nat → Thread → Thread) (g g' : Group) : Prop :=
  ∀ l, { g'.thread l with deadlock := 0 } = { f l (g.thread l) with deadlock := 0 }

/-- Only the threads of the acting lanes change, as `f` says. -/
def ActingBecome (s : State) (iss : Issue) (g g' : Group) (f : Nat → Thread → Thread) : Prop :=
  ThreadsBecome (fun l t => if l ∈ acting s iss g then f l t else t) g g'

/-- A group but for registers, windows, frontiers, counts of an issue, and every thread. -/
def body (g : Group) : Group := aside (fun _ => {}) g

/-- The trap registers, mark and priorities of a strand after it takes a cause (R162). -/
def trapped (r : StrandRegs) (c : Cause) (tpc : VAddr) : StrandRegs :=
  { r with tcause := BitVec.ofNat 32 (c.code % 512), tpc := tpc.zeroExtend 64, tval := BitVec.ofNat 64 c.val,
           tinfo := BitVec.ofNat 64 c.info, th := true, sprio := r.bprio, bprio := 15#4 }

/-- The lanes `ls` of the issuing strand can take the causes `c`: none is in its handler, each has a vector, and no cause is
fatal (R162, R164, R166). -/
def CanTrap (st : Strand) (g : Group) (ls : List Nat) (c : Nat → Cause) : Prop :=
  ∀ l ∈ ls, ((g.thread l).strand st).th = false ∧ ((g.thread l).strand st).tvec ≠ 0#64 ∧ fatalCode (c l).code = false

/-- The issue of `i` is answered by the entry of the lanes `ls` into their handlers, each with its cause, and by nothing else: the
trap registers are written, tpc is the first word of the sequence (R85, R162), and each lane stands at its vector. No register,
full/empty bit, queue, access or byte of memory changes. -/
def Enters (i : Instr) (s : State) (iss : Issue) (g : Group) (ls : List Nat) (c : Nat → Cause) : Prop :=
  Answers i s iss fun t g' =>
    Written (fun _ _ => False) g g' ∧ body g' = body g ∧ OnlyGroup iss.group s t
      ∧ ThreadsBecome (fun l t => if l ∈ ls then
          t.setStrand iss.strand fun r => trapped r (c l) iss.entry.seqPc else t) g g'
      ∧ ∀ l ∈ ls, Stands g' iss.strand l (((g.thread l).strand iss.strand).tvec.truncate 56)

/-- The acting lanes have taken the causes `c` in the issuing strand. -/
def HaveTrapped (s : State) (iss : Issue) (g g' : Group) (c : Nat → Cause) : Prop :=
  ∀ l ∈ acting s iss g,
    (g'.thread l).strand iss.strand = trapped ((g.thread l).strand iss.strand) (c l) iss.entry.seqPc
      ∧ Stands g' iss.strand l (((g.thread l).strand iss.strand).tvec.truncate 56)

/-- The issue of `i` blocks: the acting lanes wait at the word under `b`, and nothing else changes. -/
def Waits (i : Instr) (s : State) (iss : Issue) (g : Group) (b : Block) : Prop :=
  Answers i s iss fun t g' =>
    Written (fun _ _ => False) g g' ∧ aside id g' = aside id g ∧ OnlyGroup iss.group s t
      ∧ ∀ l ∈ acting s iss g, Blocked g' iss.strand l iss.entry.pc b

/-- Every other group is as it was. -/
def OtherGroups (k : Nat) (s t : State) : Prop := ∀ j, j ≠ k → t.group? j = s.group? j

/-- No byte at a home and no byte of a local store has changed. -/
def SameMemory (s t : State) : Prop :=
  (∀ x, readByte t x = readByte s x) ∧ ∀ core a, lsRead t core a 1 = lsRead s core a 1

/-! ### Accesses -/

/-- The access of every acting lane passes the checks of R264 and lands where `lands` says. -/
def Lands (a : Act) (f : State → Nat → Check × State) (lands : Nat → List Land) : Prop :=
  (checkAll a.s f a.lanes).1 = a.lanes.map fun l => (l, .ok (lands l))

/-- An access of lane `l` is in flight in `g'`. -/
def InFlight (g' : Group) (l : Nat) (kind : AccKind) (m : MemForm) (va : Nat) (performed : Bool) (value : Nat) : Prop :=
  ∃ x ∈ g'.accs, x.lane = l ∧ x.kind = kind ∧ x.order = m.order ∧ x.scope = m.scope ∧ x.size = m.size ∧ x.va = va
    ∧ x.performed = performed ∧ x.value = value

/-- What a load that acts at issue reads at a FIFO bank, the aperture or the engine control page, once it has issued (R106, R287, R324). -/
def windowValue (a : Act) (ls : List Land) : Nat :=
  let s := a.retire a.s []
  if actsAtIssue ls then natOfBytes (windowBytes s a.gk ((s.group? a.gk).getD a.g) (ls.headD (.image 0 0))) else 0

/-- The byte that a weak load of a core reads: in L1 where L1 holds it, else at its home (R196, R246). -/
def coreByte (s : State) (core pa : Nat) : Byte :=
  match (if cacheable s pa then SMap.find? (s.core core).l1 (pa / 128) else none) with
  | none => readByte s pa
  | some l => if l.dirty.getLsbD (pa % 128) || l.valid.getLsbD (pa % 128 / 32) then l.byte (pa % 128) else readByte s pa

/-! ### Engine operations -/

/-- A new operation of class `cls` stands in `g'` after those of `g`, with the next place of its class (R258, R286). -/
def NewOp (g g' : Group) (cls : Nat) (kind : OpKind) : Prop :=
  ∃ o ∈ g'.ops, o.id = g.nextId ∧ o.cls = cls ∧ o.kind = kind ∧ o.ended = false ∧ o.next = 0 ∧ o.seq = g.seqs.getD cls 0

/-- The engine command `i` is accepted as an operation of class `cls`: its lanes go on, and nothing else of the group but its
operations and counts changes, no register and no byte. -/
def Accepts (i : Instr) (s : State) (iss : Issue) (g : Group) (cls : Nat) (kind : OpKind) : Prop :=
  Answers i s iss fun t g' =>
    NewOp g g' cls kind ∧ (∀ o ∈ g.ops, o ∈ g'.ops) ∧ Written (fun _ _ => False) g g'
      ∧ { aside id g' with ops := g.ops, seqs := g.seqs } = aside id g
      ∧ GoOn s iss g g' ∧ OtherGroups iss.group s t ∧ SameMemory s t

/-- Bytes stand where an engine item landed. -/
def SpotHolds (t : State) (bs : List Byte) : Spot → Prop
  | .home pa => ∀ i, i < bs.length → SMap.get 0#8 t.mem (normPA t pa + i) = bs.getD i 0#8
  | .bank core addr => lsRead t core addr bs.length = bs
  | .fifo _ _ => True

/-- Operation `id` of a group has done one item more, and its kind is `kind`. -/
def ItemDone (t : State) (gk : Nat) (o : Op) (kind : OpKind) : Prop :=
  ∃ g' o', t.group? gk = some g' ∧ g'.op? o.id = some o' ∧ o'.kind = kind ∧ o'.next = o.next + 1 ∧ o'.ended = o.ended

/-! ### Destinations -/

/-- A v run of `n` registers from `vd` in the acting lanes. -/
def toV (s : State) (iss : Issue) (g : Group) (vd n : Nat) (x : Nat → Nat → Word) (c : Nat) (y : DWord) : Prop :=
  ∃ k < n, ∃ l ∈ acting s iss g, c = vCode (vd + k) l ∧ y = (x k l).zeroExtend 64

/-- An a register in the acting lanes; writes to a0 are discarded (R72). -/
def toA (s : State) (iss : Issue) (g : Group) (ad : Nat) (x : Nat → DWord) (c : Nat) (y : DWord) : Prop :=
  ad ≠ 0 ∧ ∃ l ∈ acting s iss g, c = aCode ad l ∧ y = x l

/-- A scalar. -/
def toS (sd : Nat) (x : Word) (c : Nat) (y : DWord) : Prop := c = sCode sd ∧ y = x.zeroExtend 64

/-- A predicate of the issuing strand in the acting lanes. -/
def toP (s : State) (iss : Issue) (g : Group) (pd : Nat) (x : Nat → Bool) (c : Nat) (y : DWord) : Prop :=
  ∃ l ∈ acting s iss g, c = pCode iss.strand pd l ∧ y = if x l then 1#64 else 0#64

/-- No register. -/
def toNone (_c : Nat) (_y : DWord) : Prop := False

/-- An integer result under a saturation field: wrapped, or the exact signed or unsigned result clamped (R118). -/
def underSat (sat : BitVec 2) (wrapped : Word) (signed unsigned : Int) : Word :=
  if sat = 1#2 then BitVec.ofInt 32 (max (-(2 ^ 31)) (min (2 ^ 31 - 1) signed))
  else if sat = 2#2 then BitVec.ofInt 32 (max 0 (min (2 ^ 32 - 1) unsigned))
  else wrapped

/-- The four bytes of a word, lowest first (R4). -/
def wordBytes (x : Word) : List Byte := [x.extractLsb' 0 8, x.extractLsb' 8 8, x.extractLsb' 16 8, x.extractLsb' 24 8]

/-- The flags that a run of results raises in a lane. -/
def runFlags (n : Nat) (r : Nat → FRes) : Word := (List.range n).foldl (fun x k => x ||| (r k).flags) 0#32

/-- The number of registers of a run (R69). -/
def span (w : BitVec 2) : Nat := 2 ^ w.toNat

end Sys2Proof
end

