-- ==== Sys2Proof/WellFormed.lean ====
section
/-! DEFINITION. Which instructions are well formed on a strand: the encoding rules of R67 to R83, as the reasons of
`Machine.breaches`. -/

namespace Sys2Proof

/-- An instruction is well formed on a strand of a group of a given width when it breaks no rule of R67. -/
def WellFormed (st : Strand) (width : Nat) (i : Instr) : Prop := Machine.breaches st width i = []

/-- An instruction whose encoding holds all of its operands: xlfree with a target handle names a register other than a0
(R350), since the word with a0 is xlfree alone. -/
def Encodable : Instr → Prop
  | .xlfreeAccept f => f.ab ≠ 0#5
  | _ => True

end Sys2Proof
end

