-- ==== Sys2Proof/Certificates/Slice0/Obligations.lean ====
section
/-! DEFINITION. The statements about the model, from the numbered rules of the manual. -/

open Sys2Proof Sys2Proof.Machine

/-! ### Vector, scalar and address registers -/

/-- R117, R119: a two-source or accumulating integer form over a run writes, in every acting lane and every register of the run,
the value the tables give; R118 gives the saturated sums, differences and products. Nothing else changes (R116). -/
def Obligations.VectorIntegerResults : Prop :=
  ∀ (f : VOps) (s : State) (iss : Issue) (g : Group),
    let a := fun k l => vNow s g (f.va.toNat + k) l
    let b := fun k l => vNow s g (f.vb.toNat + k) l
    let d := fun k l => vNow s g (f.vd.toNat + k) l
    let sat := satMode iss.entry.hints
    let gives := fun (i : Instr) (x : Word → Word → Word → Word) =>
      Runs i s iss g →
        WritesOnly i s iss g (toV s iss g f.vd.toNat (span f.w) fun k l => x (d k l) (a k l) (b k l))
    gives (.iadd f) (fun _ x y => underSat sat (x + y) (x.toInt + y.toInt) (x.toNat + y.toNat))
    ∧ gives (.isub f) (fun _ x y => underSat sat (x - y) (x.toInt - y.toInt) (Int.ofNat x.toNat - y.toNat))
    ∧ gives (.imul f) (fun _ x y => underSat sat (x * y) (x.toInt * y.toInt) (x.toNat * y.toNat))
    ∧ gives (.imulh f) (fun _ x y => (x.signExtend 64 * y.signExtend 64).extractLsb' 32 32)
    ∧ gives (.imin f) (fun _ x y => if x.sle y then x else y)
    ∧ gives (.imax f) (fun _ x y => if y.sle x then x else y)
    ∧ gives (.umin f) (fun _ x y => if x.ule y then x else y)
    ∧ gives (.umax f) (fun _ x y => if y.ule x then x else y)
    ∧ gives (.land f) (fun _ x y => x &&& y)
    ∧ gives (.lor f) (fun _ x y => x ||| y)
    ∧ gives (.lxor f) (fun _ x y => x ^^^ y)
    ∧ gives (.landn f) (fun _ x y => x &&& ~~~y)
    ∧ gives (.shl f) (fun _ x y => if 32 ≤ y.toNat then 0#32 else x <<< y.toNat)
    ∧ gives (.shr f) (fun _ x y => if 32 ≤ y.toNat then 0#32 else x >>> y.toNat)
    ∧ gives (.sar f) (fun _ x y => x.sshiftRight (min y.toNat 31))
    ∧ gives (.rot f) (fun _ x y => x.rotateLeft (y.toNat % 32))
    ∧ gives (.imac f) (fun c x y =>
        underSat sat (c + x * y) (c.toInt + x.toInt * y.toInt) (c.toNat + x.toNat * y.toNat))
    ∧ gives (.imulhu f) (fun _ x y => (x.zeroExtend 64 * y.zeroExtend 64).extractLsb' 32 32)
    ∧ gives (.isad f) (fun c x y =>
        c + BitVec.ofNat 32 (List.zipWith (fun p q : Byte => (Int.ofNat p.toNat - q.toNat).natAbs) (wordBytes x) (wordBytes y)).sum)
    ∧ gives (.idot4 f) (fun c x y =>
        c + BitVec.ofInt 32 (List.zipWith (fun p q : Byte => p.toInt * q.toInt) (wordBytes x) (wordBytes y)).sum)

/-- R120, R123: a one-source form over a run, mov and sel write, in every acting lane and every register of the run, the value the tables
give.
R121, R122: so do the immediate and scalar-operand forms, with the immediate of R73. Nothing else changes. -/
def Obligations.VectorOneSourceResults : Prop :=
  (∀ (f : UnOps) (e : SelOps) (s : State) (iss : Issue) (g : Group),
    let gives := fun (i : Instr) (x : Word → Word) =>
      Runs i s iss g →
        WritesOnly i s iss g (toV s iss g f.vd.toNat (span f.w) fun k l => x (vNow s g (f.va.toNat + k) l))
    gives (.inot f) (fun x => ~~~x)
    ∧ gives (.ineg f) (fun x => -x)
    ∧ gives (.iabs f) (fun x => BitVec.ofNat 32 x.toInt.natAbs)
    ∧ gives (.popc f) (fun x => BitVec.ofNat 32 ((List.range 32).countP fun k => x.getLsbD k))
    ∧ gives (.clz f) (fun x => if x = 0#32 then 32#32 else BitVec.ofNat 32 (31 - Nat.log2 x.toNat))
    ∧ gives (.ctz f) (fun x => BitVec.ofNat 32 (((List.range 32).find? fun k => x.getLsbD k).getD 32))
    ∧ gives (.brev f) (fun x => x.reverse)
    ∧ gives (.mov f) (fun x => x)
    ∧ (Runs (.sel e) s iss g →
        WritesOnly (.sel e) s iss g (toV s iss g e.vd.toNat (span e.w) fun k l =>
          if pNow s g iss.strand e.p.toNat l then vNow s g (e.va.toNat + k) l else vNow s g (e.vb.toNat + k) l)))
  ∧ (∀ (f : ViOps) (h : ShOps) (n : LiOps) (v : VsOps) (m : MovsOps) (s : State) (iss : Issue) (g : Group),
    let imm := immInt iss.entry.hints f.imm
    let sat := satMode iss.entry.hints
    let gives := fun (i : Instr) (x : Word → Word) =>
      Runs i s iss g → WritesOnly i s iss g (toV s iss g f.vd.toNat 1 fun _ l => x (vNow s g f.va.toNat l))
    let shifts := fun (i : Instr) (x : Word → Word) =>
      Runs i s iss g → WritesOnly i s iss g (toV s iss g h.vd.toNat 1 fun _ l => x (vNow s g h.va.toNat l))
    gives (.iaddi f) (fun x => underSat sat (x + BitVec.ofInt 32 imm) (x.toInt + imm) (x.toNat + imm))
    ∧ gives (.andi f) (fun x => x &&& BitVec.ofInt 32 imm)
    ∧ gives (.ori f) (fun x => x ||| BitVec.ofInt 32 imm)
    ∧ gives (.xori f) (fun x => x ^^^ BitVec.ofInt 32 imm)
    ∧ shifts (.shli h) (fun x => x <<< h.k.toNat)
    ∧ shifts (.shri h) (fun x => x >>> h.k.toNat)
    ∧ shifts (.sari h) (fun x => x.sshiftRight h.k.toNat)
    ∧ (Runs (.li n) s iss g →
        WritesOnly (.li n) s iss g (toV s iss g n.vd.toNat 1 fun _ _ => BitVec.ofInt 32 (immInt iss.entry.hints n.imm)))
    ∧ (Runs (.iadds v) s iss g →
        WritesOnly (.iadds v) s iss g (toV s iss g v.vd.toNat (span v.w) fun k l =>
          let x := vNow s g (v.va.toNat + k) l
          let y := sNow s g v.sb.toNat
          underSat sat (x + y) (x.toInt + y.toInt) (x.toNat + y.toNat)))
    ∧ (Runs (.movs m) s iss g →
        WritesOnly (.movs m) s iss g (toV s iss g m.vd.toNat (span m.w) fun _ _ => sNow s g m.sb.toNat)))

/-- R78, R124, R128, R129, R147: the compares write one predicate bit per acting lane; the other lanes' bits stay. -/
def Obligations.CompareResults : Prop :=
  ∀ (f : CmpOps) (c : ClassOps) (h : AcmpOps) (n : AcmpiOps) (s : State) (iss : Issue) (g : Group),
    (Runs (.icmp f) s iss g →
        WritesOnly (.icmp f) s iss g (toP s iss g f.pd.toNat fun l =>
          intCond f.cond.toNat (vNow s g f.va.toNat l).toInt (vNow s g f.vb.toNat l).toInt))
    ∧ (Runs (.ucmp f) s iss g →
        WritesOnly (.ucmp f) s iss g (toP s iss g f.pd.toNat fun l =>
          intCond f.cond.toNat (vNow s g f.va.toNat l).toNat (vNow s g f.vb.toNat l).toNat))
    ∧ (Runs (.fclass c) s iss g →
        WritesOnly (.fclass c) s iss g (toP s iss g c.pd.toNat fun l =>
          fclassHolds c.cond.toNat (vNow s g c.va.toNat l).toNat))
    ∧ (Runs (.acmp h) s iss g →
        WritesOnly (.acmp h) s iss g (toP s iss g h.pd.toNat fun l =>
          addrCond h.cond.toNat (aNow s g h.aa.toNat l) (aNow s g h.ab.toNat l)))
    ∧ (Runs (.acmpi n) s iss g →
        WritesOnly (.acmpi n) s iss g (toP s iss g n.pd.toNat fun l =>
          immCond n.cond.toNat (aNow s g n.aa.toNat l).toInt (imm64 iss.entry.hints n.imm).toInt))
    ∧ (Runs (.fcmp f) s iss g →
        let r := fun l => fcmpHolds f.cond.toNat (ctlOf (g.thread l).fmode iss.entry.hints).fin
          (vNow s g f.va.toNat l).toNat (vNow s g f.vb.toNat l).toNat
        WritesFlags (.fcmp f) s iss g (toP s iss g f.pd.toNat fun l => (r l).1) fun l => (r l).2)

/-- R125 to R127: a scalar form writes one scalar once per issue. -/
def Obligations.ScalarResults : Prop :=
  ∀ (f : S3Ops) (h : SiOps) (n : SliOps) (u : S2Ops) (v : V2sOps) (s : State) (iss : Issue) (g : Group),
    let gives := fun (i : Instr) (sd : Nat) (x : Word) => Runs i s iss g → WritesOnly i s iss g (toS sd x)
    let a := sNow s g f.sa.toNat
    let b := sNow s g f.sb.toNat
    let c := sNow s g u.sa.toNat
    gives (.sadd f) f.sd.toNat (a + b)
    ∧ gives (.ssub f) f.sd.toNat (a - b)
    ∧ gives (.smul f) f.sd.toNat (a * b)
    ∧ gives (.sand f) f.sd.toNat (a &&& b)
    ∧ gives (.sor f) f.sd.toNat (a ||| b)
    ∧ gives (.sxor f) f.sd.toNat (a ^^^ b)
    ∧ gives (.sshl f) f.sd.toNat (if 32 ≤ b.toNat then 0#32 else a <<< b.toNat)
    ∧ gives (.sshr f) f.sd.toNat (if 32 ≤ b.toNat then 0#32 else a >>> b.toNat)
    ∧ gives (.smin f) f.sd.toNat (if a.sle b then a else b)
    ∧ gives (.smax f) f.sd.toNat (if b.sle a then a else b)
    ∧ gives (.saddi h) h.sd.toNat (sNow s g h.sa.toNat + BitVec.ofInt 32 (immInt iss.entry.hints h.imm))
    ∧ gives (.sli n) n.sd.toNat (BitVec.ofInt 32 (immInt iss.entry.hints n.imm))
    ∧ gives (.smov u) u.sd.toNat c
    ∧ gives (.v2s v) v.sd.toNat (vNow s g v.va.toNat v.lane.toNat)
    ∧ gives (.sclz u) u.sd.toNat (if c = 0#32 then 32#32 else BitVec.ofNat 32 (31 - Nat.log2 c.toNat))
    ∧ gives (.spopc u) u.sd.toNat (BitVec.ofNat 32 ((List.range 32).countP fun k => c.getLsbD k))

/-- R72, R128, R129: an address form writes one a register per acting lane; a write to a0 is discarded. -/
def Obligations.AddressResults : Prop :=
  ∀ (f : A3Ops) (e : LeaOps) (m : A2Ops) (v : A2sOps) (u : S2aOps) (n : AiOps) (p : AliOps) (h : AshOps)
    (s : State) (iss : Issue) (g : Group),
    let gives := fun (i : Instr) (x : DWord → DWord → DWord) =>
      Runs i s iss g →
        WritesOnly i s iss g (toA s iss g f.ad.toNat fun l => x (aNow s g f.aa.toNat l) (aNow s g f.ab.toNat l))
    let imm := imm64 iss.entry.hints n.imm
    let givesI := fun (i : Instr) (x : DWord → DWord) =>
      Runs i s iss g → WritesOnly i s iss g (toA s iss g n.ad.toNat fun l => x (aNow s g n.aa.toNat l))
    gives (.aadd f) (fun x y => x + y)
    ∧ gives (.asub f) (fun x y => x - y)
    ∧ gives (.amul f) (fun x y => x * y)
    ∧ gives (.aand f) (fun x y => x &&& y)
    ∧ gives (.aor f) (fun x y => x ||| y)
    ∧ gives (.axor f) (fun x y => x ^^^ y)
    ∧ gives (.ashl f) (fun x y => if 64 ≤ y.toNat then 0#64 else x <<< y.toNat)
    ∧ gives (.ashr f) (fun x y => if 64 ≤ y.toNat then 0#64 else x >>> y.toNat)
    ∧ gives (.asar f) (fun x y => x.sshiftRight (min y.toNat 63))
    ∧ gives (.amin f) (fun x y => if x.sle y then x else y)
    ∧ gives (.amax f) (fun x y => if y.sle x then x else y)
    ∧ (Runs (.alea e) s iss g →
        WritesOnly (.alea e) s iss g (toA s iss g e.ad.toNat fun l =>
          aNow s g e.aa.toNat l + aNow s g e.ab.toNat l <<< e.k.toNat))
    ∧ (Runs (.amov m) s iss g →
        WritesOnly (.amov m) s iss g (toA s iss g m.ad.toNat fun l => aNow s g m.aa.toNat l))
    ∧ (Runs (.a2s v) s iss g →
        ∃ lead ∈ acting s iss g, (∀ l ∈ acting s iss g, lead ≤ l) ∧
          WritesOnly (.a2s v) s iss g (toS v.sd.toNat ((aNow s g v.aa.toNat lead).extractLsb' 0 32)))
    ∧ (Runs (.s2a u) s iss g →
        WritesOnly (.s2a u) s iss g (toA s iss g u.ad.toNat fun _ => (sNow s g u.sb.toNat).signExtend 64))
    ∧ givesI (.aaddi n) (fun x => x + imm)
    ∧ givesI (.alui n) (fun x => x + imm <<< 32)
    ∧ givesI (.aandi n) (fun x => x &&& imm)
    ∧ givesI (.aori n) (fun x => x ||| imm)
    ∧ (Runs (.ali p) s iss g →
        WritesOnly (.ali p) s iss g (toA s iss g p.ad.toNat fun _ => imm64 iss.entry.hints p.imm))
    ∧ (Runs (.ashli h) s iss g →
        WritesOnly (.ashli h) s iss g (toA s iss g h.ad.toNat fun l => aNow s g h.aa.toNat l <<< h.k.toNat))
    ∧ (Runs (.ashri h) s iss g →
        WritesOnly (.ashri h) s iss g (toA s iss g h.ad.toNat fun l => aNow s g h.aa.toNat l >>> h.k.toNat))

/-! ### Floating point -/

/-- R140 to R143, R153: an FP32 two-source form over a run writes in every acting lane the value of its operation under the controls of the
lane's fmode and the h.mod hint (R55), and raises the flags of every register of the run in the lane's fmode.
R144: so do the FP32 one-source forms.
R145: a paired halfword form computes each halfword by itself, in bf16 or fp16. Nothing else changes. -/
def Obligations.FloatResults : Prop :=
  (∀ (f : VOps) (v : VsOps) (s : State) (iss : Issue) (g : Group),
    let c := fun l => ctlOf (g.thread l).fmode iss.entry.hints
    let a := fun k l => (vNow s g (f.va.toNat + k) l).toNat
    let b := fun k l => (vNow s g (f.vb.toNat + k) l).toNat
    let d := fun k l => (vNow s g (f.vd.toNat + k) l).toNat
    let run := fun (i : Instr) (vd n : Nat) (r : Nat → Nat → FRes) =>
      Runs i s iss g →
        WritesFlags i s iss g (toV s iss g vd n fun k l => BitVec.ofNat 32 (r k l).bits) fun l => runFlags n fun k => r k l
    let gives := fun (i : Instr) (r : Nat → Nat → FRes) => run i f.vd.toNat (span f.w) r
    let x := fun k l => (vNow s g (v.va.toNat + k) l).toNat
    let y := (sNow s g v.sb.toNat).toNat
    gives (.fadd f) (fun k l => addF fmt32 (c l) (a k l) (b k l))
    ∧ gives (.fsub f) (fun k l => subF fmt32 (c l) (a k l) (b k l))
    ∧ gives (.fmul f) (fun k l => mulF fmt32 (c l) (a k l) (b k l))
    ∧ gives (.fmac f) (fun k l => macF fmt32 (c l) (a k l) (b k l) (d k l))
    ∧ gives (.fmin f) (fun k l => minMaxF fmt32 (c l) false (a k l) (b k l))
    ∧ gives (.fmax f) (fun k l => minMaxF fmt32 (c l) true (a k l) (b k l))
    ∧ gives (.fsgnj f) (fun k l => sgnjF (a k l) (b k l))
    ∧ gives (.fabd f) (fun k l => abdF fmt32 (c l) (a k l) (b k l))
    ∧ run (.fadds v) v.vd.toNat (span v.w) (fun k l => addF fmt32 (c l) (x k l) y)
    ∧ run (.fmuls v) v.vd.toNat (span v.w) (fun k l => mulF fmt32 (c l) (x k l) y))
  ∧ (∀ (f : UnOps) (s : State) (iss : Issue) (g : Group),
    let gives := fun (i : Instr) (r : FCtl → Nat → FRes) =>
      let x := fun k l => r (ctlOf (g.thread l).fmode iss.entry.hints) (vNow s g (f.va.toNat + k) l).toNat
      Runs i s iss g →
        WritesFlags i s iss g (toV s iss g f.vd.toNat (span f.w) fun k l => BitVec.ofNat 32 (x k l).bits)
          fun l => runFlags (span f.w) fun k => x k l
    gives (.fneg f) (fun _ x => signOpF false x)
    ∧ gives (.fabs f) (fun _ x => signOpF true x)
    ∧ gives (.ffloor f) (fun c x => integralF .rdn false c.fin x)
    ∧ gives (.fceil f) (fun c x => integralF .rup false c.fin x)
    ∧ gives (.ftrunc f) (fun c x => integralF .rtz false c.fin x)
    ∧ gives (.frint f) (fun c x => integralF c.mode true c.fin x)
    ∧ gives (.frcp f) rcpF
    ∧ gives (.frsq f) rsqF
    ∧ gives (.fsqrt f) sqrtF
    ∧ gives (.fexp2 f) exp2F
    ∧ gives (.flog2 f) log2F
    ∧ gives (.ftanh f) tanhF
    ∧ gives (.fsin f) (trigF false)
    ∧ gives (.fcos f) (trigF true))
  ∧ (∀ (f : VOps) (s : State) (iss : Issue) (g : Group),
    let gives := fun (i : Instr) (r : FCtl → Nat → Nat → Nat → FRes) =>
      let half := fun (x : Word) (j : Nat) => (x.extractLsb' (16 * j) 16).toNat
      let e := fun k l j => r (ctlOf (g.thread l).fmode iss.entry.hints) (half (vNow s g (f.va.toNat + k) l) j)
        (half (vNow s g (f.vb.toNat + k) l) j) (half (vNow s g (f.vd.toNat + k) l) j)
      Runs i s iss g →
        WritesFlags i s iss g (toV s iss g f.vd.toNat (span f.w) fun k l =>
            BitVec.ofNat 16 (e k l 1).bits ++ BitVec.ofNat 16 (e k l 0).bits)
          fun l => runFlags (span f.w) fun k => ⟨0, (e k l 0).flags ||| (e k l 1).flags⟩
    gives (.badd2 f) (fun c x y _ => addF fmtBf16 c x y)
    ∧ gives (.bmul2 f) (fun c x y _ => mulF fmtBf16 c x y)
    ∧ gives (.bmac2 f) (fun c x y d => macF fmtBf16 c x y d)
    ∧ gives (.bmax2 f) (fun c x y _ => minMaxF fmtBf16 c true x y)
    ∧ gives (.hadd2 f) (fun c x y _ => addF fmtFp16 c x y)
    ∧ gives (.hmul2 f) (fun c x y _ => mulF fmtFp16 c x y)
    ∧ gives (.hmac2 f) (fun c x y d => macF fmtFp16 c x y d)
    ∧ gives (.hmax2 f) (fun c x y _ => minMaxF fmtFp16 c true x y))

/-- R148, R149, R150, R151, R152: conversions and block dot products write in every acting lane the values of their operation and raise its
flags, and change nothing else, where no value overflows under the trapping policy.
R57: a cvtf that overflows under that policy takes CVT_OVERFLOW in every acting lane, with the lowest lane in which a value overflowed and
its source, and writes nothing. (Of several such values of that lane the source is the first: log entry 8.) -/
def Obligations.ConversionResults : Prop :=
  ∀ (f : CvtOps) (b : BxOps) (h : DotOps) (s : State) (iss : Issue) (g : Group),
    let a := acts s iss g
    let k := fmtK f.fmt.toNat
    let c := fun l => ctlOf (g.thread l).fmode iss.entry.hints
    let cc := fun l => if f.t then { c l with mode := .rtz } else c l
    let code := fun l i => f32ToCode (cc l) f.fmt.toNat f.pol.toNat (vNow s g (f.va.toNat + i) l).toNat (g.thread l).f4x none
    let v := fun (r : BitVec 7) l => vNow s g r.toNat l
    let run := fun (i : Instr) (vd n : Nat) (r : Nat → Nat → FRes) =>
      Runs i s iss g →
        WritesFlags i s iss g (toV s iss g vd n fun k l => BitVec.ofNat 32 (r k l).bits) fun l => runFlags n fun k => r k l
    let dot := fun (i : Instr) (fmt : Nat) => run i b.vd.toNat 1 fun _ l =>
      let scale := fun (r : BitVec 7) =>
        ((vNow s g (r.toNat + 1) (l / (16 / fmtK fmt) * (16 / fmtK fmt))).extractLsb' (8 * b.bsel.toNat) 8).toNat
      accGroup (c l).fin (c l).fout (v b.vd l).toNat ((List.range (fmtK fmt)).map fun j =>
        productOf (blockElem (c l).fin fmt (v b.va l) j (scale b.va)) (blockElem (c l).fin fmt (v b.vb l) j (scale b.vb)))
    (Runs (.cvtf f) s iss g → (∀ l ∈ acting s iss g, ∀ i < span f.w, code l i ≠ .trap) →
        WritesFlags (.cvtf f) s iss g
          (toV s iss g f.vd.toNat (span f.w) fun r l => packWord k ((List.range (span f.w)).map fun i => (code l i).bits) r)
          fun l => runFlags (span f.w) fun i => ⟨0, (code l i).flags⟩)
    ∧ (∀ l i, Runs (.cvtf f) s iss g → l ∈ acting s iss g → i < span f.w → code l i = .trap → (∀ j, j < i → code l j ≠ .trap) →
        (∀ m ∈ acting s iss g, m < l → ∀ j < span f.w, code m j ≠ .trap) →
        let cause : Cause := ⟨0x080, l, (vNow s g (f.va.toNat + i) l).toNat⟩
        CanTrap iss.strand g (acting s iss g) (fun _ => cause) → Enters (.cvtf f) s iss g (acting s iss g) fun _ => cause)
    ∧ run (.cvth f) f.vd.toNat (span f.w) (fun i l =>
        codeToF32 (cc l) f.fmt.toNat (containerAt k (vNow s g (f.va.toNat + i / k) l) (i % k)) (g.thread l).f4x)
    ∧ (Runs (.bxpack f) s iss g → a.packTraps f k = [] →
        WritesFlags (.bxpack f) s iss g
          (toV s iss g f.vd.toNat (span f.w) fun r l =>
            if r = 0 then (a.packLane f k l).1
            else if r = 1 then BitVec.ofNat 32 ((a.packLane f k l).2.1 * 0x01010101) else 0#32)
          fun l => (a.packLane f k l).2.2)
    ∧ run (.bxunpack f) f.vd.toNat (span f.w) (fun j l =>
        let e := ((vNow s g (f.va.toNat + 1) (l / (16 / k) * (16 / k))).extractLsb' 0 8).toNat
        let r := blockElem (c l).fin f.fmt.toNat (v f.va l) j e
        if (c l).fout && isSubnormal fmt32 r.bits then ⟨r.bits - r.bits % 2 ^ 23, r.flags ||| flagUF ||| flagNX⟩ else r)
    ∧ dot (.bxdot2 b) 8
    ∧ dot (.bxdot4 b) 9
    ∧ dot (.bxdot7 b) 10
    ∧ run (.f4dot h) h.vd.toNat 1 (fun _ l =>
        let x := fun (r : BitVec 7) j => fp4Elem (c l).fin (g.thread l).f4x (v r l) j
        accGroup (c l).fin (c l).fout (v h.vd l).toNat ((List.range 8).map fun j => productOf (x h.va j) (x h.vb j)))

/-! ### What stands before an instruction -/

/-- R67, R71, R72, R91: an illegal word traps every member with reason and word; with no member selected the word has no effect;
a register above the allocation, or an empty source under the raising policy, traps the acting members; an empty register
otherwise blocks them. It holds of every word that is not a hint. The register that REG_NOT_ALLOCATED reports, the lowest that is not
allocated, is the model's choice (log entry 8), and so are the members whose register a2s waits for, every one of them (log entry 51).
R84, R86: a hint word moves its members to an entry of their own at the next word, which carries it; nothing else changes. -/
def Obligations.IssueChecks : Prop :=
  (∀ (i : Instr) (s : State) (iss : Issue) (g : Group), isWord i = true → isHint i = false →
    s.cur = some iss → s.group? iss.group = some g →
    let sh := shapeOf iss.strand i
    let src := sources i s iss g
    let ls := acting s iss g
    let trap := fun (lanes : List Nat) (c : Cause) => CanTrap iss.strand g lanes (fun _ => c) → Enters i s iss g lanes fun _ => c
    (∀ r w, illegalInstr g iss i = some (r, w) → trap (iss.lanes g) ⟨0x000, w.toNat, r⟩)
    ∧ (illegalInstr g iss i = none → ls = [] →
        Answers i s iss fun t g' => Written toNone g g' ∧ aside id g' = aside id g ∧ OnlyGroup iss.group s t
          ∧ ∀ l ∈ iss.lanes g, Stands g' iss.strand l (iss.entry.pc + 4#56))
    ∧ (illegalInstr g iss i = none → ls ≠ [] →
        (∀ r, notAllocated g sh = some r → trap ls ⟨0x040, iss.word.toNat, r⟩)
        ∧ (notAllocated g sh = none →
            (∀ r, emptyRead g src = some r → trap ls ⟨0x020, iss.word.toNat, r⟩)
            ∧ (emptyRead g src = none → emptyCodes g i sh src ls ≠ [] →
                Waits i s iss g (.regs (emptyCodes g i sh src ls))))))
  ∧ (∀ (f : HintOps) (s : State) (iss : Issue) (g : Group),
    s.cur = some iss → s.group? iss.group = some g → iss.entry.members ≠ [] →
    ∀ i ∈ [Instr.hImm f, .hImx f, .hKill f, .hSched f, .hMod f, .hPred f],
      Answers i s iss fun t g' =>
        Written toNone g g' ∧ aside id g' = aside id g ∧ OnlyGroup iss.group s t
          ∧ ∃ e ∈ (g'.frontier iss.strand).entries, e.pc = iss.entry.pc + 4#56 ∧ e.block = .ready
              ∧ e.hints = iss.entry.hints ++ [iss.word] ∧ e.members = iss.entry.members)

/-! ### Traps -/

/-- R162, R171: trap and brk take their causes in every acting lane, with the length of the sequence in tinfo.
R172: tret sends each acting lane to its tpc, restores its block priority and clears its handler mark; outside a handler every
acting lane takes TRET_OUTSIDE_HANDLER.
R164, R166: a cause taken in a handler, or without a vector, or a fatal one, ends the context: no group of it is left, and the
context is ended. -/
def Obligations.TrapsAndReturns : Prop :=
  (∀ (f : TrapOps) (b : BrkOps) (s : State) (iss : Issue) (g : Group),
    let len := iss.entry.hints.length + 1
    let enters := fun (i : Instr) (c : Cause) =>
      Runs i s iss g → CanTrap iss.strand g (acting s iss g) (fun _ => c) → Enters i s iss g (acting s iss g) fun _ => c
    enters (.trap f) ⟨0x1E0 + f.n.toNat, f.n.toNat, len⟩ ∧ enters (.brk b) ⟨0x1C0, b.code.toNat, len⟩)
  ∧ (∀ (s : State) (iss : Issue) (g : Group), Runs .tret s iss g →
    let r := fun l => (g.thread l).strand iss.strand
    ((∀ l ∈ acting s iss g, (r l).th = true) →
      Answers .tret s iss fun t g' =>
        Written toNone g g' ∧ body g' = body g ∧ OnlyGroup iss.group s t
          ∧ ActingBecome s iss g g' (fun _ t => t.setStrand iss.strand fun r => { r with th := false, bprio := r.sprio })
          ∧ ∀ l ∈ acting s iss g, Stands g' iss.strand l ((r l).tpc.extractLsb' 2 54 ++ 0#2))
    ∧ ((∀ l ∈ acting s iss g, (r l).th = false) → CanTrap iss.strand g (acting s iss g) (fun _ => ⟨0x1C1, 0, 0⟩) →
        Enters .tret s iss g (acting s iss g) fun _ => ⟨0x1C1, 0, 0⟩))
  ∧ (∀ (s : State) (gk : Nat) (g : Group) (x : Context) (st : Strand) (l : Nat) (c : Cause) (tpc : VAddr)
    (rest : List (Nat × Cause)),
    s.group? gk = some g → s.ctx? g.ctx = some x →
    (((g.thread l).strand st).th = true ∨ ((g.thread l).strand st).tvec = 0#64 ∨ fatalCode c.code = true) →
    let t := trapLanes s gk st tpc ((l, c) :: rest)
    (∃ y, t.ctx? g.ctx = some y ∧ y.status = .ended) ∧ ∀ k h, t.group? k = some h → h.ctx ≠ g.ctx)


/-! ### Branches and the end of a strand -/

/-- R130, R132: a branch sends the acting lanes that take it to its target with its priority, and the others to the next word;
call and ret move the return address on and off each lane's stack.
R132: a call with eight addresses stacked, and a ret with none, trap every acting lane; the lowest such lane is reported. -/
def Obligations.BranchResults : Prop :=
  (∀ (f : BrOps) (p : BrpOps) (h : RetOps) (j : JmpsOps) (s : State) (iss : Issue) (g : Group),
    let next := iss.entry.pc + 4#56
    let target := fun (d : BitVec 17) => iss.entry.pc + BitVec.ofInt 56 (4 * immInt iss.entry.hints d)
    let stack := fun l => ((g.thread l).strand iss.strand).stack
    let goes := fun (i : Instr) (prio : BitVec 4) (taken : Nat → Bool) (pc : Nat → VAddr) (st : List VAddr → List VAddr) =>
      Answers i s iss fun t g' =>
        Written toNone g g' ∧ body g' = body g ∧ OnlyGroup iss.group s t
          ∧ ActingBecome s iss g g' (fun l t =>
              if taken l then t.setStrand iss.strand fun r => { r with bprio := prio, stack := st r.stack } else t)
          ∧ ∀ l ∈ acting s iss g, Stands g' iss.strand l (if taken l then pc l else next)
    (Runs (.br f) s iss g → goes (.br f) f.prio (fun _ => true) (fun _ => target f.disp) id)
    ∧ (Runs (.brt p) s iss g →
        goes (.brt p) p.prio (fun l => pNow s g iss.strand p.p.toNat l) (fun _ => target p.disp) id)
    ∧ (Runs (.brf p) s iss g →
        goes (.brf p) p.prio (fun l => !pNow s g iss.strand p.p.toNat l) (fun _ => target p.disp) id)
    ∧ (Runs (.jmps j) s iss g →
        goes (.jmps j) j.prio (fun _ => true)
          (fun _ => iss.entry.pc + BitVec.ofInt 56 (4 * (sNow s g j.sn.toNat).toInt)) id)
    ∧ (Runs (.call f) s iss g → (∀ l ∈ acting s iss g, (stack l).length < 8) →
        goes (.call f) f.prio (fun _ => true) (fun _ => target f.disp) fun st => st ++ [next])
    ∧ (Runs (.ret h) s iss g → (∀ l ∈ acting s iss g, stack l ≠ []) →
        goes (.ret h) h.prio (fun _ => true) (fun l => (stack l).getLastD 0#56) List.dropLast))
  ∧ (∀ (f : BrOps) (h : RetOps) (s : State) (iss : Issue) (g : Group) (l : Nat),
    let stack := fun l => ((g.thread l).strand iss.strand).stack
    l ∈ acting s iss g →
    (Runs (.call f) s iss g → 8 ≤ (stack l).length → (∀ k ∈ acting s iss g, k < l → (stack k).length < 8) →
      CanTrap iss.strand g (acting s iss g) (fun _ => ⟨0x044, l, 8⟩) →
      Enters (.call f) s iss g (acting s iss g) fun _ => ⟨0x044, l, 8⟩)
    ∧ (Runs (.ret h) s iss g → stack l = [] → (∀ k ∈ acting s iss g, k < l → stack k ≠ []) →
      CanTrap iss.strand g (acting s iss g) (fun _ => ⟨0x045, l, 0⟩) →
      Enters (.ret h) s iss g (acting s iss g) fun _ => ⟨0x045, l, 0⟩))

/-- R21: exit ends the strand of each acting lane whose other strand goes on, or whose queues are empty with nothing owed; a thread
both of whose strands have ended, ends. No other lane waits on a mask that names one of them (R41). -/
def Obligations.ExitEndsStrands : Prop :=
  ∀ (s : State) (iss : Issue) (g : Group), Runs .exit s iss g →
    (∀ l ∈ acting s iss g, ((g.thread l).strand (otherStrand iss.strand)).ended = false
      ∨ (queueMask (g.thread l) = 0 ∧ g.owes l = false)) →
    (∀ a ∈ g.arrivals, ∀ l ∈ acting s iss g, a.mask.getLsbD l = false) →
    Answers .exit s iss fun _ g' =>
      ActingBecome s iss g g' (fun _ t =>
          let t := t.setStrand iss.strand fun r => { r with ended := true, stack := [] }
          { t with ended := t.comp.ended && t.addr.ended })
        ∧ ∀ c, g'.arch c = g.arch c

/-! ### Control registers, waiting and allocation -/

/-- R102, R103: csrr of every control register but pmval writes its value, low word first on the compute strand.
R103, R110: csrr of pmval makes its destination empty until the monitor block replies, which PMVAL_REPLY does with the value of
the oldest read.
R54, R102, R173: csrw writes the fields of a control register and leaves its reserved bits zero; a read-only register raises
CSR_READ_ONLY. -/
def Obligations.ControlRegisterResults : Prop :=
  (∀ (f : CsrOps) (s : State) (iss : Issue) (g : Group), Runs (.csrr f) s iss g → f.num ≠ 0x041#12 →
    let x := fun l => csrValue s g iss.strand l f.num.toNat
    let wide := csrWide f.num.toNat = some true
    WritesOnly (.csrr f) s iss g fun c y =>
      match iss.strand with
      | .addr => toA s iss g f.reg.toNat x c y
      | .comp => toV s iss g f.reg.toNat (if wide then 2 else 1) (fun k l => (x l).extractLsb' (32 * k) 32) c y)
  ∧ (∀ (f : CsrOps) (s : State) (iss : Issue) (g : Group),
    (Runs (.csrr f) s iss g → f.num = 0x041#12 →
      Answers (.csrr f) s iss fun _ g' =>
        GoOn s iss g g'
          ∧ g'.slow = g.slow ++ (acting s iss g).map (fun l => ⟨iss.strand, l, f.reg.toNat, (g.thread l).pmsel⟩)
          ∧ (∀ l ∈ acting s iss g, iss.strand = .addr → f.reg ≠ 0#7 → g'.isFull (aCode f.reg.toNat l) = false)
          ∧ ∀ l ∈ acting s iss g, iss.strand = .comp → g'.isFull (vCode f.reg.toNat l) = false)
    ∧ ∀ (gk l : Nat) (r : SlowRead), s.group? gk = some g → (g.slow.find? fun x => x.strand = .addr && x.lane = l) = some r →
        g.arrivals = [] → teamMeets s g.team = [] → r.reg ≠ 0 → l < 64 → r.reg < 32 →
        ∃ t g', exec (.pmvalReply gk .addr l) s = .next t ∧ t.group? gk = some g'
          ∧ g'.isFull (aCode r.reg l) = true ∧ ∀ n, g'.read n (aCode r.reg l) = monitorItem s g.core g.ctx r.pmsel)
  ∧ (∀ (f : CsrOps) (s : State) (iss : Issue) (g : Group), Runs (.csrw f) s iss g →
    let n := f.num.toNat
    let x := fun l => match iss.strand with
      | .addr => aNow s g f.reg.toNat l
      | .comp =>
        (if csrWide n = some true then vNow s g (f.reg.toNat + 1) l else 0#32) ++ vNow s g f.reg.toNat l
    (csrReadOnly n = false →
      Answers (.csrw f) s iss fun t g' =>
        Written toNone g g' ∧ body g' = body g ∧ OnlyGroup iss.group s t ∧ GoOn s iss g g'
          ∧ ActingBecome s iss g g' (fun l t =>
              let w := (x l).extractLsb' 0 32
              let pc := x l &&& 0x00FFFFFFFFFFFFFC#64
              if n = 0x000 then { t with fmode := w &&& 0xFC0F#32 }
              else if n = 0x001 then { t with f4x := w }
              else if n = 0x040 then { t with pmsel := w &&& 0x7FF#32 }
              else t.setStrand iss.strand fun r =>
                if n = 0x010 then { r with tcause := w &&& 0x1FF#32 }
                else if n = 0x011 then { r with tpc := pc }
                else if n = 0x012 then { r with tval := x l }
                else if n = 0x013 then { r with tinfo := x l }
                else if n = 0x014 then { r with tvec := pc } else r))
    ∧ (csrReadOnly n = true → CanTrap iss.strand g (acting s iss g) (fun _ => ⟨0x022, n, 0⟩) →
        Enters (.csrw f) s iss g (acting s iss g) fun _ => ⟨0x022, n, 0⟩))

/-- R134: nop changes nothing but the pc.
R135: sleep 0 ends at once; a longer sleep blocks its members for its count.
R136: a yield changes no state that programs see, and its members go on; the entry that then holds them waits for every other entry of
the strand that was ready, and no entry is chosen while one that it waits for is ready.
R112, R137: an rgrow that needs no more chunks than are free, when nothing else waits for registers, raises the allocation by 8k, and
the new registers read zero and are full; one that needs more than are free waits. An rshrink with no producer outstanding into what it
discards lowers the allocation by 8k and discards those registers. Every other register keeps its value and its full/empty bit.
R138: rsync with no late producer outstanding into the strand's registers goes on with the strand's window empty (R108); else it waits. -/
def Obligations.WaitingAndAllocation : Prop :=
  (∀ (f : SleepOps) (s : State) (iss : Issue) (g : Group),
    (Runs .nop s iss g → WritesOnly .nop s iss g toNone)
    ∧ (Runs (.sleep f) s iss g → f.n = 0#22 → WritesOnly (.sleep f) s iss g toNone)
    ∧ (Runs (.sleep f) s iss g → f.n ≠ 0#22 → Waits (.sleep f) s iss g (.sleep f.n.toNat)))
  ∧ (∀ (s : State) (iss : Issue) (g : Group), Runs .yield s iss g →
      let a := acts s iss g
      Answers .yield s iss fun t g' =>
        Written toNone g g' ∧ aside id g' = aside id g ∧ OnlyGroup iss.group s t ∧ GoOn s iss g g'
          ∧ ∃ e ∈ (g'.frontier iss.strand).entries, lead s iss g ∈ e.members ∧ e.pc = iss.entry.pc + 4#56
              ∧ e.yieldFor = (readyIds a.s a.g iss.strand).filter fun i => i != e.id)
  ∧ (∀ (s : State) (g : Group) (st : Strand) (e x : Entry), x ∈ (g.frontier st).hw → x.id ∈ e.yieldFor →
      g.entry? st x.id = some x → entryReady s g st x = true → chooseEntry s g st ≠ some e)
  ∧ (∀ (f : GrowOps) (s : State) (iss : Issue) (g : Group),
    let k := f.k.toNat
    let v := g.vAlloc + 8 * k
    let more := chunksFor v g.width g.sAlloc - g.chunks
    (Runs (.rgrow f) s iss g → v ≤ 128 → chunksFor v g.width g.sAlloc ≤ regCapacity (s.core g.core) →
      g.requests = [] → (∀ p ∈ s.groups, p.2.growWaits = false) →
      (more ≤ freeChunks s g.core →
        Answers (.rgrow f) s iss fun t g' =>
          { aside id g' with empty := [] } = { aside id g with empty := [], vAlloc := v } ∧ OnlyGroup iss.group s t ∧ GoOn s iss g g'
            ∧ ∀ c, let new := 64 * g.vAlloc ≤ c && decide (c < 0x4000)
                g'.arch c = (if new then 0#64 else g.arch c) ∧ g'.isFull c = (new || g.isFull c))
      ∧ (freeChunks s g.core < more → ∃ stamp, Waits (.rgrow f) s iss g (.grow k stamp false)))
    ∧ (Runs (.rshrink f) s iss g → 8 * k + 8 ≤ g.vAlloc → g.requests = [] → g.owedAbove k = [] →
      Answers (.rshrink f) s iss fun t g' =>
        { aside id g' with empty := [] } = { aside id g with empty := [], vAlloc := g.vAlloc - 8 * k }
          ∧ OnlyGroup iss.group s t ∧ GoOn s iss g g'
          ∧ ∀ c, let gone := 64 * (g.vAlloc - 8 * k) ≤ c && decide (c < 0x4000)
              g'.arch c = (if gone then 0#64 else g.arch c) ∧ g'.isFull c = (gone || g.isFull c))
    ∧ (Runs .rsync s iss g →
      (g.emptyOwned iss.strand = [] →
        Answers .rsync s iss fun t g' =>
          Written toNone g g' ∧ aside id g' = aside id g ∧ OnlyGroup iss.group s t ∧ GoOn s iss g g'
            ∧ g'.window iss.strand = [])
      ∧ (g.emptyOwned iss.strand ≠ [] → Waits .rsync s iss g (.rsync (g.emptyOwned iss.strand)))))


/-! ### Queues -/

/-- R319 to R322: push appends, pop takes from the head, peek reads the head and qlen the length, in every acting lane. A pop also
brings into sight the aperture stores that R109 has it show (log entry 6 names which pops count). -/
def Obligations.QueueResults : Prop :=
  ∀ (f : QOps) (s : State) (iss : Issue) (g : Group),
    let q := f.queue.toNat
    let n := takeCount q (span f.w)
    let len := fun l => (g.thread l).queueLen q
    let dest := fun (c : Nat) (y : DWord) => match iss.strand with
      | .comp => toV s iss g f.reg.toNat (span f.w) (fun k l => popWord (g.thread l) q (span f.w) k) c y
      | .addr => toA s iss g (f.reg.toNat % 32) (fun l => (g.thread l).entryAt q 0) c y
    (Runs (.push f) s iss g → (∀ l ∈ acting s iss g, len l + n ≤ queueCap q ∧ g.pushDead q n l = false) →
      Answers (.push f) s iss fun t g' =>
        Written toNone g g' ∧ body g' = body g ∧ OnlyGroup iss.group s t ∧ GoOn s iss g g'
          ∧ ActingBecome s iss g g' fun l t => t.pushQueue q ((acts s iss g).pushEntries f l))
    ∧ (Runs (.pop f) s iss g → (∀ l ∈ acting s iss g, n ≤ len l ∧ g.popDead q n l = false) →
      Answers (.pop f) s iss fun t g' =>
        Written dest (g.handOver q n (acting s iss g)) g' ∧ body g' = body g ∧ GoOn s iss g g'
          ∧ OnlyGroup iss.group { s with monitors := [] } { t with monitors := [] }
          ∧ ActingBecome s iss g g' fun _ t => t.popQueue q n)
    ∧ (Runs (.peek f) s iss g → (∀ l ∈ acting s iss g, n ≤ len l ∧ g.popDead q n l = false) →
      WritesOnly (.peek f) s iss g dest)
    ∧ (Runs (.qlen f) s iss g →
      WritesOnly (.qlen f) s iss g fun c y => match iss.strand with
        | .comp => toV s iss g f.reg.toNat 1 (fun _ l => BitVec.ofNat 32 (len l)) c y
        | .addr => toA s iss g (f.reg.toNat % 32) (fun l => BitVec.ofNat 64 (len l)) c y)

/-! ### Memory instructions -/

/-- R264, R266, R267, R110: a load whose members all pass the checks puts one access per acting lane in flight at its effective address.
An lda makes its register empty. No byte changes. That a load of a FIFO bank, the register aperture or the engine control page is read at
once, as the instruction issues, is the model's choice (log entry 18).
R270: ldl writes what it reads in a window to its register, or its even pair for 16 bytes, zero-extended. -/
def Obligations.LoadsIssue : Prop :=
  (∀ (f : LdqOps) (h : MOps) (s : State) (iss : Issue) (g : Group) (lands : Nat → List Land),
    let a := acts s iss g
    let issues := fun (i : Instr) (m : MemForm) (ea : Nat → Nat) (kind : AccKind) (full : Prop) (frame : Group → Group → Prop) =>
      Runs i s iss g →
      Lands a (fun s l => checkAccess s a.g { by_ := .load, kind := 1, align := m.scope != 0 } (ea l) m.size) lands →
      a.memWait false lands (fun l => a.access m l (ea l) kind (lands l)) = none → full →
      Answers i s iss fun t g' =>
        (∀ l ∈ acting s iss g, InFlight g' l kind m (ea l) (actsAtIssue (lands l)) (windowValue a (lands l)))
          ∧ (∀ x ∈ g.accs, x ∈ g'.accs) ∧ GoOn s iss g g' ∧ Written toNone g g' ∧ frame g g' ∧ OtherGroups iss.group s t
          ∧ ((beyondCore m.scope (pairOf s g) = false ∨ ∀ l ∈ acting s iss g, actsAtIssue (lands l) = false) → SameMemory s t)
    let q := a.form f.order.toNat f.scope.toNat (2 ^ f.size.toNat)
    let r := a.form h.order.toNat h.scope.toNat (2 ^ h.size.toNat)
    let at_ := fun (base : BitVec 5) (off : BitVec 9) (size l : Nat) =>
      addrPlus (aNow s g base.toNat l).toNat (immInt iss.entry.hints off * size)
    issues (.ldq f) q (at_ f.base f.off q.size) .loadQ (∀ l ∈ acting s iss g, g.hasRoom (wordsOf q.size) l = true)
        (fun g g' => { aside id g' with accs := g.accs } = aside id g)
    ∧ issues (.lda h) r (at_ h.base h.off r.size) (.loadA h.t.toNat) True
        (fun g g' => { aside id g' with accs := g.accs, empty := g.empty } = aside id g
          ∧ ∀ l ∈ acting s iss g, h.t ≠ 0#5 → g'.isFull (aCode h.t.toNat l) = false))
  ∧ (∀ (f : LtOps) (s : State) (iss : Issue) (g : Group) (lands : Nat → List Land),
    let a := acts s iss g
    let size : Nat := 2 ^ f.size.toNat
    let ea := fun l => addrPlus (aNow s g f.base.toNat l).toNat (immInt iss.entry.hints f.off * size)
    let x := fun l => natOfBytes ((lands l).flatMap (windowBytes a.s a.gk a.g))
    Runs (.ldl f) s iss g →
    Lands a (fun s l => checkAccess s a.g { by_ := .ldl, kind := 1 } (ea l) size) lands →
    a.memWait true lands (fun l => a.access (a.form 0 0 size) l (ea l) (.loadA f.t.toNat) (lands l)) = none →
    Answers (.ldl f) s iss fun t g' =>
      Written (fun c y => toA s iss g f.t.toNat (fun l => BitVec.ofNat 64 (x l)) c y
          ∨ (size = 16 ∧ toA s iss g (f.t.toNat + 1) (fun l => BitVec.ofNat 64 (x l / 2 ^ 64)) c y)) g g'
        ∧ aside id g' = aside id g ∧ GoOn s iss g g' ∧ OtherGroups iss.group s t ∧ SameMemory s t)

/-- R264, R267, R270: a store whose members all pass the checks, none of them to KICK, puts one access per acting lane in flight with the
bytes of its register, or of qsd where t is a0. R287: the only lane that lands at the register aperture or the engine control page, at
MSTAT, clears the bits that are 1 in its bytes; that this is done as the instruction issues is the model's choice (log entry 18). R264,
R268: an atomic whose members pass the checks takes its operands from qsd, and one access per acting lane is in flight with its operation.
The words popped show the aperture stores made before they were pushed (R109, log entry 6). -/
def Obligations.StoresAndAtomicsIssue : Prop :=
  (∀ (f : MOps) (h : LtOps) (s : State) (iss : Issue) (g : Group) (lands : Nat → List Land),
    let a := acts s iss g
    let issues := fun (i : Instr) (by_ : Reacher) (align : Bool) (m : MemForm) (ea data : Nat → Nat) (pops : Nat) =>
      Runs i s iss g →
      Lands a (fun s l => checkAccess s a.g { by_ := by_, kind := 2, align := align } (ea l) m.size) lands →
      (∀ l ∈ acting s iss g, lands l ≠ [.page 0 8] ∧ pops ≤ (g.thread l).qsd.length) →
      a.memWait false lands (fun l => a.access m l (ea l) (.store (bytesOfNat (data l) m.size)) (lands l)) = none →
      Answers i s iss fun t g' =>
        (∀ l ∈ acting s iss g, actsAtIssue (lands l) = false →
            InFlight g' l (.store (bytesOfNat (data l) m.size)) m (ea l) false 0)
          ∧ (∀ l ∈ acting s iss g, lands l = [.page 0x18 8] → (∀ k ∈ acting s iss g, k ≠ l → actsAtIssue (lands k) = false) →
              g'.mstat = g.mstat &&& ~~~(BitVec.ofNat 5 (data l)))
          ∧ (∀ x ∈ g.accs, x ∈ g'.accs) ∧ GoOn s iss g g' ∧ OtherGroups iss.group s t
          ∧ ActingBecome s iss g g' (fun _ t => t.popQueue 3 pops)
          ∧ ((∀ l ∈ acting s iss g, actsAtIssue (lands l) = false) →
              SameMemory s t ∧ Written toNone (g.handOver 3 pops (acting s iss g)) g')
    let pair := fun (t size l : Nat) =>
      (aNow s g t l).toNat + (if size = 16 then (if t = 0 then 0 else (aNow s g (t + 1) l).toNat) * 2 ^ 64 else 0)
    let m := a.form f.order.toNat f.scope.toNat (2 ^ f.size.toNat)
    let pops := if f.t = 0#5 then wordsOf m.size else 0
    let n := a.form 0 0 (2 ^ h.size.toNat)
    issues (.st f) .store (f.scope != 0#3) m
        (fun l => addrPlus (aNow s g f.base.toNat l).toNat (immInt iss.entry.hints f.off * m.size))
        (fun l => (if f.t = 0#5 then a.qsdValue l 0 pops else pair f.t.toNat m.size l) % 2 ^ (8 * m.size)) pops
    ∧ issues (.stl h) .stl false n
        (fun l => addrPlus (aNow s g h.base.toNat l).toNat (immInt iss.entry.hints h.off * n.size))
        (fun l => pair h.t.toNat n.size l % 2 ^ (8 * n.size)) 0)
  ∧ (∀ (f : AtomOps) (h : AtomMOps) (s : State) (iss : Issue) (g : Group) (lands : Nat → List Land),
    let a := acts s iss g
    let issues := fun (i : Instr) (op : Nat) (uns : Bool) (m : MemForm) (ea : Nat → Nat) (ret : Bool) =>
      let w := m.size / 4
      let pops := if op = 7 then 2 * w else w
      Runs i s iss g →
      Lands a (fun s l => checkAccess s a.g
        { by_ := .atomic, kind := 3, align := true, host := op = 0 || op = 6 || op = 7 } (ea l) m.size) lands →
      (∀ l ∈ acting s iss g, pops ≤ (g.thread l).qsd.length ∧ (ret = true → g.hasRoom w l = true)
        ∧ actsAtIssue (lands l) = false) →
      Answers i s iss fun t g' =>
        (∀ l ∈ acting s iss g,
            InFlight g' l (.atomic op uns ret (a.qsdValue l 0 w) (a.qsdValue l w w)) m (ea l) false 0)
          ∧ (∀ x ∈ g.accs, x ∈ g'.accs) ∧ GoOn s iss g g' ∧ OtherGroups iss.group s t
          ∧ ActingBecome s iss g g' (fun _ t => t.popQueue 3 pops) ∧ SameMemory s t
          ∧ Written toNone (g.handOver 3 pops (acting s iss g)) g'
    let m := a.form f.order.toNat f.scope.toNat (if f.sz64 then 8 else 4)
    let n := a.form h.order.toNat h.scope.toNat (if h.sz64 then 8 else 4)
    let at_ := fun (base : BitVec 5) (off : BitVec 9) (size l : Nat) =>
      addrPlus (aNow s g base.toNat l).toNat (immInt iss.entry.hints off * size)
    let one := fun (i : Instr) (op : Nat) => issues i op false m (at_ f.base f.off m.size) f.ret
    let two := fun (i : Instr) (op : Nat) => issues i op h.uns n (at_ h.base h.off n.size) h.ret
    one (.atomAdd f) 0 ∧ two (.atomMin h) 1 ∧ two (.atomMax h) 2 ∧ one (.atomAnd f) 3 ∧ one (.atomOr f) 4
      ∧ one (.atomXor f) 5 ∧ one (.atomXchg f) 6 ∧ one (.atomCas f) 7)

/-- R264: where the access of some member of a load, a store or an atomic has a handled cause, each such member takes its own, and no
access of the instruction is made. The others stay at the instruction. -/
def Obligations.AccessCausesTrap : Prop :=
  ∀ (f : LdqOps) (h : MOps) (n : LtOps) (p : AtomOps) (q : AtomMOps) (s : State) (iss : Issue) (g : Group) (c : Nat → Option Cause),
    let a := acts s iss g
    let at_ := fun (base : BitVec 5) (off : Int) (size l : Nat) => addrPlus (aNow s g base.toNat l).toNat (off * size)
    let traps := fun (i : Instr) (how : Reach264) (size : Nat) (ea : Nat → Nat) =>
      Runs i s iss g →
      (∀ p ∈ (checkAll a.s (fun s l => checkAccess s a.g how (ea l) size) a.lanes).1, p.2 = match c p.1 with
        | some x => .cause x
        | none => .ok p.2.lands) →
      (∃ l ∈ acting s iss g, (c l).isSome) →
      CanTrap iss.strand g ((acting s iss g).filter fun l => (c l).isSome) (fun l => (c l).getD ⟨0, 0, 0⟩) →
      Answers i s iss fun _ g' =>
        g'.accs = g.accs ∧ Written toNone g g'
          ∧ (∀ l ∈ acting s iss g, ∀ x, c l = some x →
              (g'.thread l).strand iss.strand = trapped ((g.thread l).strand iss.strand) x iss.entry.seqPc)
          ∧ ∀ l ∈ acting s iss g, c l = none →
              ∃ e ∈ (g'.frontier iss.strand).entries, e.pc = iss.entry.pc ∧ e.hints = iss.entry.hints ∧ l ∈ e.members
    let disp := fun (off : BitVec 9) => immInt iss.entry.hints off
    let plain := fun (i : Instr) (how : Reach264) (size : BitVec 3) (base : BitVec 5) (off : Int) =>
      traps i how (2 ^ size.toNat) (at_ base off (2 ^ size.toNat))
    let one := fun (i : Instr) (op : Nat) =>
      let size := if p.sz64 then 8 else 4
      traps i { by_ := .atomic, kind := 3, align := true, host := op = 0 || op = 6 || op = 7 } size (at_ p.base (disp p.off) size)
    let two := fun (i : Instr) =>
      let size := if q.sz64 then 8 else 4
      traps i { by_ := .atomic, kind := 3, align := true } size (at_ q.base (disp q.off) size)
    plain (.ldq f) { by_ := .load, kind := 1, align := f.scope != 0#3 } f.size f.base (disp f.off)
    ∧ plain (.lda h) { by_ := .load, kind := 1, align := h.scope != 0#3 } h.size h.base (disp h.off)
    ∧ plain (.st h) { by_ := .store, kind := 2, align := h.scope != 0#3 } h.size h.base (disp h.off)
    ∧ plain (.ldl n) { by_ := .ldl, kind := 1 } n.size n.base (immInt iss.entry.hints n.off)
    ∧ plain (.stl n) { by_ := .stl, kind := 2 } n.size n.base (immInt iss.entry.hints n.off)
    ∧ one (.atomAdd p) 0 ∧ two (.atomMin q) ∧ two (.atomMax q) ∧ one (.atomAnd p) 3 ∧ one (.atomOr p) 4 ∧ one (.atomXor p) 5
    ∧ one (.atomXchg p) 6 ∧ one (.atomCas p) 7

/-- R253, R275: a fence with no earlier access outstanding goes on; on the compute strand it has no effect; an acquire at
clu scope or wider leaves the L1 of its core empty (R196, R252). The model marks the threads that have passed a release fence (log entry
52). -/
def Obligations.FenceResults : Prop :=
  ∀ (f : FenceOps) (s : State) (iss : Issue) (g : Group), Runs (.fence f) s iss g →
    (iss.strand = .comp → WritesOnly (.fence f) s iss g toNone)
    ∧ (iss.strand = .addr → (∀ x ∈ g.accs, x.performed = true) →
        Answers (.fence f) s iss fun t g' =>
          Written toNone g g' ∧ aside (fun t => { t with fenced := false }) g' = aside (fun t => { t with fenced := false }) g
            ∧ GoOn s iss g g' ∧ OtherGroups iss.group s t ∧ (f.order ≠ 2#3 → 3 ≤ f.scope.toNat → (t.core g.core).l1 = []))

/-- R194, R276: lsmode to the mode a bank has goes on at once; another change that nothing refuses begins and blocks the entry; its
completion gives the bank its mode and zeroed bytes. -/
def Obligations.BankModeResults : Prop :=
  ∀ (f : LsmodeOps) (s : State) (iss : Issue) (g : Group),
    let bank := f.bank.toNat
    (Runs (.lsmode f) s iss g → bankMode (s.core g.core) bank = f.mode.toNat → (s.core g.core).switch = none →
      WritesOnly (.lsmode f) s iss g toNone)
    ∧ (Runs (.lsmode f) s iss g → bankMode (s.core g.core) bank ≠ f.mode.toNat → (s.core g.core).switch = none →
      modeRefused (acts s iss g).s iss.group (acts s iss g).g bank = none →
      Answers (.lsmode f) s iss fun t g' =>
        (∀ l ∈ acting s iss g, Blocked g' iss.strand l iss.entry.pc (.bank bank))
          ∧ (t.core g.core).switch = some (bank, f.mode.toNat) ∧ (t.core g.core).modes = (s.core g.core).modes
          ∧ SameMemory s t)
    ∧ ∀ (core b mode : Nat), (s.core core).switch = some (b, mode) → modeReady s core b = true → b < (s.core core).modes.length →
      (∀ p ∈ s.groups, ∀ x ∈ p.2.accs, x.inBanks core b 1 = false) →
      ∃ t, exec (.lsmodeComplete core b) s = .next t ∧ bankMode (t.core core) b = mode ∧ (t.core core).switch = none
        ∧ (∀ x, x / 65536 = b → lsRead t core x 1 = [0#8])
        ∧ (∀ x, x / 65536 ≠ b → lsRead t core x 1 = lsRead s core x 1)
        ∧ (bankMode (s.core core) b ≠ 2 → ∀ x, readByte t x = readByte s x)

/-! ### Accesses performed and delivered -/

/-- R246, R248, R249: a store in flight that nothing is ordered before is performed: it leaves the accesses, its core reads the stored
bytes, and every byte outside the lines it touches reads as before; one to a bank stores its bytes there, and no other byte of a bank.
R110, R266, R267: a performed load is delivered: an ldq's words enter the lane's qld in order, low word first, and an lda's value
its register, which is full again; the access is over. -/
def Obligations.AccessesComplete : Prop :=
  (∀ (s : State) (gk id pa : Nat) (g : Group) (a : Access) (data : List Byte),
    s.group? gk = some g → g.accs.find? (fun x => x.id = id) = some a →
    a.kind = .store data → a.pieces = [(pa, data.length)] → a.performed = false → a.todo = none → mayPerform g.accs a = true →
    a.releases = false → accessPoison s g.core (scopeLevel a.scope (pairOf s g)) false a.pieces = none →
    (a.scope = 0 ∨ (g.thread a.lane).fenced = false ∨ beyondCore a.scope (pairOf s g) = true) →
    ∃ t g', exec (.storePerformed gk id) s = .next t ∧ t.group? gk = some g'
      ∧ g'.accs = g.accs.filter (fun x => x.id != id)
      ∧ (isBankPlace pa = false → normPA s pa = pa → pa % 128 + data.length ≤ 128 →
          (∀ i, i < data.length → coreByte t g.core (pa + i) = data.getD i 0#8)
            ∧ ∀ x, normPA s x = x → x / 128 ≠ pa / 128 →
                coreByte t g.core x = coreByte s g.core x ∧ readByte t x = readByte s x)
      ∧ (∀ core addr, pa = bankPlace core addr → addr + data.length ≤ 2 ^ 24 →
          lsRead t core addr data.length = data
            ∧ (∀ c x, (c ≠ core ∨ x < addr ∨ addr + data.length ≤ x) → lsRead t c x 1 = lsRead s c x 1)
            ∧ ∀ x, readByte t x = readByte s x))
  ∧ (∀ (s : State) (gk id : Nat) (g : Group) (a : Access),
    s.group? gk = some g → g.accs.find? (fun x => x.id = id) = some a → a.performed = true → ctxAway s g.ctx = false →
    g.status ≠ .parked →
    (a.owed ≠ 0 → g.oldestOwed a.lane id = true → (g.thread a.lane).qld.length + a.owed ≤ 16 → a.lane < g.threads.length →
      ∃ t g', exec (.loadDelivery gk id) s = .next t ∧ t.group? gk = some g'
        ∧ (g'.thread a.lane).qld = (g.thread a.lane).qld
            ++ (List.range a.owed).map (fun k => BitVec.ofNat 32 (a.value / 2 ^ (32 * k)))
        ∧ g'.accs = g.accs.filter (fun x => x.id != id) ∧ Written toNone g g' ∧ SameMemory s t)
    ∧ (∀ r, a.kind = .loadA r → r ≠ 0 → r < 32 → a.lane < 64 → g.arrivals = [] → teamMeets s g.team = [] →
      ∃ t g', exec (.ldaFill gk id) s = .next t ∧ t.group? gk = some g'
        ∧ Written (fun c y => c = aCode r a.lane ∧ y = BitVec.ofNat 64 a.value) g g'
        ∧ g'.isFull (aCode r a.lane) = true ∧ g'.accs = g.accs.filter (fun x => x.id != id)))

/-! ### Barriers, events and cwait -/

/-- R363, R365: a step at a barrier expects, then counts arrivals, then counts sectors down; the phase completes exactly when both
counts are zero, and the arrivals are reloaded; a count that would fall below zero becomes zero, one that would pass 2^32 - 1 stays, and
either is reported and marks the barrier: in bit 4, or in bit 6 where the phase completes with that step.
R364, R367: a barrier instruction whose check passes, with nothing ordered before it outstanding, acts on the 16 bytes of its barrier
and on no other byte of a bank. tbwait reads the low byte when the phase differs and waits otherwise; an underflow is raised after
the step. -/
def Obligations.BarrierResults : Prop :=
  (∀ (b : Bar) (st : BarStep), st.fault = false → st.cancel = false →
    let r := b.step st
    (b.sectors + st.expect < 2 ^ 32 → st.arrive ≤ b.arrivals → st.down ≤ b.sectors + st.expect →
      r.2 = 0
        ∧ ((b.arrivals = st.arrive ∧ b.sectors + st.expect = st.down) →
            r.1.arrivals = b.reload ∧ r.1.sectors = 0 ∧ r.1.phase = (b.phase + 1) % 16)
        ∧ (¬ (b.arrivals = st.arrive ∧ b.sectors + st.expect = st.down) →
            r.1 = { b with arrivals := b.arrivals - st.arrive, sectors := b.sectors + st.expect - st.down }))
    ∧ (2 ^ 32 ≤ b.sectors + st.expect → r.2 = 2)
    ∧ (b.sectors + st.expect < 2 ^ 32 → b.arrivals < st.arrive → r.2 = 1)
    ∧ (b.sectors + st.expect < 2 ^ 32 → st.arrive ≤ b.arrivals → b.sectors + st.expect < st.down → r.2 = 2)
    ∧ (r.2 ≠ 0 →
      let sectors := (if 2 ^ 32 ≤ b.sectors + st.expect then b.sectors else b.sectors + st.expect) - st.down
      let ends := b.arrivals - st.arrive = 0 ∧ sectors = 0
      (ends → r.1.arrivals = b.reload ∧ r.1.sectors = 0 ∧ r.1.phase = (b.phase + 1) % 16
        ∧ r.1.low.testBit 6 = true ∧ r.1.low.testBit 4 = false)
      ∧ (¬ ends → r.1.arrivals = b.arrivals - st.arrive ∧ r.1.sectors = sectors ∧ r.1.phase = b.phase ∧ r.1.low.testBit 4 = true)))
  ∧ (∀ (f : XabOps) (h : TbarvOps) (n : XaOps) (w : XabdOps) (s : State) (iss : Issue) (g : Group) (core addr : Nat),
    let a := acts s iss g
    let lead := lead s iss g
    let bar := barAt s core addr
    let b := (aNow s g f.ab.toNat lead).toNat
    let others := fun (t : State) => ∀ c x, (c ≠ core ∨ x < addr ∨ addr + 16 ≤ x) → lsRead t c x 1 = lsRead s c x 1
    let steps := fun (i : Instr) (aa : BitVec 5) (st : BarStep) =>
      Runs i s iss g → (∀ x ∈ g.accs, x.performed = true) →
      a.barrier (aNow s g aa.toNat lead).toNat true = .ok (core, addr) →
      ((bar.step st).2 = 0 →
        Answers i s iss fun t g' => barAt t core addr = (bar.step st).1 ∧ others t ∧ GoOn s iss g g')
      ∧ ((bar.step st).2 ≠ 0 →
        let c : Cause := ⟨0x180, (aNow s g aa.toNat lead).toNat, (bar.step st).2⟩
        CanTrap iss.strand g (acting s iss g) (fun _ => c) →
        Answers i s iss fun t g' => barAt t core addr = (bar.step st).1 ∧ others t ∧ HaveTrapped s iss g g' fun _ => c)
    steps (.tbarv h) h.aa { arrive := h.k.toNat }
    ∧ steps (.tbarvLanes n) n.aa { arrive := (acting s iss g).length }
    ∧ steps (.tbexp f) f.aa { expect := b % 2 ^ 32 }
    ∧ steps (.tbexpArv f) f.aa { expect := b % 2 ^ 32, arrive := 1 }
    ∧ (Runs (.tbinit f) s iss g → (∀ x ∈ g.accs, x.performed = true) →
        a.barrier (aNow s g f.aa.toNat lead).toNat false = .ok (core, addr) →
        Answers (.tbinit f) s iss fun t g' =>
          barAt t core addr = ⟨2 ^ 31 + treeNumber s g % 2 ^ 15 * 2 ^ 16 + teamId s g % 2 ^ 16, 0, 0, b % 2 ^ 24, b % 2 ^ 24, 0⟩
            ∧ others t ∧ GoOn s iss g g')
    ∧ (Runs (.tbwait w) s iss g → (∀ x ∈ g.accs, x.performed = true) →
        a.barrier (aNow s g w.aa.toNat lead).toNat true = .ok (core, addr) →
        let p := (aNow s g w.ab.toNat lead).toNat % 16
        (bar.phase ≠ p →
          Answers (.tbwait w) s iss fun t g' =>
            Written (toA s iss g w.ad.toNat fun _ => BitVec.ofNat 64 bar.low) g g' ∧ aside id g' = aside id g
              ∧ GoOn s iss g g' ∧ OtherGroups iss.group s t)
        ∧ (bar.phase = p → Waits (.tbwait w) s iss g (.barrier core addr p w.ad.toNat none))))

/-- R355 to R357: evset sets the event and evclr clears it, evtest reads it into its register, and evwait goes on when it is set and
otherwise waits for it.
R356: a waiter that found the overflow area full reads its event again when its count has run out, and goes on if it is set. -/
def Obligations.EventResults : Prop :=
  (∀ (f : EvOps) (h : XaOps) (d : EvdOps) (s : State) (iss : Issue) (g : Group) (x : Context),
    (∀ x ∈ g.accs, x.performed = true) → s.ctx? g.ctx = some x →
    let name := fun (aa : BitVec 5) => (aNow s g aa.toNat (lead s iss g)).toNat % 65536
    (Runs (.evset f) s iss g →
      Answers (.evset f) s iss fun t g' => eventState t g.ctx (name f.aa) = true ∧ GoOn s iss g g')
    ∧ (Runs (.evclr h) s iss g →
      Answers (.evclr h) s iss fun t g' =>
        eventState t g.ctx (name h.aa) = false ∧ GoOn s iss g g' ∧ Written toNone g g' ∧ aside id g' = aside id g
          ∧ SameMemory s t)
    ∧ (Runs (.evtest d) s iss g →
      Answers (.evtest d) s iss fun _ g' =>
        Written (toA s iss g d.ad.toNat fun _ => if eventState s g.ctx (name d.aa) then 1#64 else 0#64) g g'
          ∧ aside id g' = aside id g ∧ GoOn s iss g g')
    ∧ (Runs (.evwait f) s iss g →
      (eventState s g.ctx (name f.aa) = true →
        Answers (.evwait f) s iss fun _ g' => Written toNone g g' ∧ aside id g' = aside id g ∧ GoOn s iss g g')
      ∧ (eventState s g.ctx (name f.aa) = false →
        Answers (.evwait f) s iss fun _ g' =>
          Written toNone g g' ∧ aside id g' = aside id g
            ∧ ∀ l ∈ acting s iss g, ∃ p, Blocked g' iss.strand l iss.entry.pc (.event (name f.aa) f.scope.toNat p))))
  ∧ (∀ (s : State) (gk id n scope : Nat) (g : Group) (e : Entry),
    s.group? gk = some g → g.entry? .addr id = some e → e.block = .event n scope (some 0) → ctxRuns s g.ctx = true →
    eventState s g.ctx n = true → 
    ∃ t g', exec (.eventOverflowPoll gk .addr id) s = .next t ∧ t.group? gk = some g'
      ∧ ∀ l ∈ e.members, l < 64 → Stands g' .addr l (e.pc + 4#56))

/-- R361, R362: cwait blocks while more than n operations of its class are outstanding; else it goes on, and the failure it may report is
raised in the thread that issued the operation. -/
def Obligations.CwaitResults : Prop :=
  ∀ (f : CwaitOps) (s : State) (iss : Issue) (g : Group), Runs (.cwait f) s iss g →
    let cls := f.cls.toNat
    let n := f.n.toNat
    (n < g.count cls → Waits (.cwait f) s iss g (.counter cls n))
    ∧ (g.count cls ≤ n → g.failure cls n = none →
        Answers (.cwait f) s iss fun _ g' => Written toNone g g' ∧ aside id g' = aside id g ∧ GoOn s iss g g')
    ∧ (∀ o c, g.count cls ≤ n → g.failure cls n = some o → o.lane ∈ acting s iss g → o.failed = some c →
        CanTrap iss.strand g [o.lane] (fun _ => c) →
        Answers (.cwait f) s iss fun _ g' =>
          (g'.thread o.lane).strand iss.strand = trapped ((g.thread o.lane).strand iss.strand) c iss.entry.seqPc
            ∧ ∀ l ∈ acting s iss g, l ≠ o.lane → Stands g' iss.strand l (iss.entry.pc + 4#56))

/-! ### Copies and prefetches -/

/-- R288 to R290: a cpl whose lanes pass their checks is accepted with one item per acting lane; with a barrier it expects one sector per
item there, and one arrival where it is told to.
R291, R293, R299: a run of request blocks that pass their checks, none with a barrier, is accepted, one operation per block in order,
by cpk or by a store to KICK.
R295: so is a run with barriers that can all be stepped: each block takes one step on the barrier of each of its targets, which expects its
items under X and counts an arrival under A. -/
def Obligations.CopiesIssue : Prop :=
  (∀ (f : CplOps) (s : State) (iss : Issue) (g : Group), Runs (.cpl f) s iss g →
    let a := acts s iss g
    let n := 4 * 2 ^ f.size.toNat
    let dst := fun l => (aNow s g f.aa.toNat l).toNat
    let src := fun l => (aNow s g f.ab.toNat l).toNat
    let va := (aNow s g f.bar.toNat (lead s iss g)).toNat
    let items := (acting s iss g).map fun l => (l, dst l, src l)
    (∀ l ∈ acting s iss g, cplCheck a.s a.g 4 (src l) n = none ∧ cplCheck a.s a.g 5 (dst l) n = none) →
    g.count 0 < 63 →
    (f.bar = 0#5 → Accepts (.cpl f) s iss g 0 (.cpl items n va f.arv))
    ∧ (∀ core addr, f.bar ≠ 0#5 → coreWindow ≤ va → va < coreWindow + 0x400000 →
        engineBarrier s g.who g.core (va - coreWindow) va = .ok (core, addr) →
        let r := (barAt s core addr).step { expect := items.length, arrive := if f.arv then 1 else 0 }
        r.2 = 0 →
        Answers (.cpl f) s iss fun t g' =>
          barAt t core addr = r.1 ∧ GoOn s iss g g'
            ∧ ∃ o ∈ g'.ops, o.id = g.nextId ∧ o.kind = .cpl items n va f.arv ∧ o.bars = [(core, addr)]))
  ∧ (∀ (s : State) (bs : List (Nat × Option Desc)), (∀ b ∈ bs, blkFlag b.1 368 = false) →
    let kinds := fun (nextId : Nat) (ops : List Op) =>
      ∀ k, k < bs.length → ∃ o ∈ ops, o.id = nextId + k ∧ o.cls = 0 ∧ o.ended = false
        ∧ o.kind = match bs.getD k (0, none) with
          | (x, some d) => .copyTile x d none
          | (x, none) => .copy x 0 0 0 0
    (∀ (f : CpkOps) (iss : Issue) (g : Group), Runs (.cpk f) s iss g →
      let a := acts s iss g
      (∃ u, getBlocks a.s a.g iss.strand a.lanes a.nol1 (aNow s g f.aa.toNat (lead s iss g)).toNat f.n.toNat = (u, .ok bs)) →
      Answers (.cpk f) s iss fun _ g' => kinds g.nextId g'.ops ∧ GoOn s iss g g' ∧ Written toNone g g')
    ∧ ∀ (gk lane : Nat) (v : BitVec 64) (g : Group), s.group? gk = some g →
      v.extractLsb' 0 6 = 0#6 → v.extractLsb' 22 2 = 0#2 → v.extractLsb' 30 34 = 0#34 → v.extractLsb' 24 6 ≠ 0#6 →
      (∃ u, getBlocks s g .addr [lane] false (coreWindow + (v.extractLsb' 0 22).toNat) (v.extractLsb' 24 6).toNat = (u, .ok bs)) →
      ∃ t g', exec (.kick gk lane v) s = .next t ∧ t.group? gk = some g' ∧ kinds g.nextId g'.ops)
  ∧ (∀ (s u : State) (bs : List (Nat × Option Desc)),
    let places := fun (g : Group) (b : Nat × Option Desc) =>
      if blkFlag b.1 368 then (barrierCores b.1 g.core).map fun c => engineBarrier u g.who c (blkBarrier b.1) (coreWindow + blkBarrier b.1)
      else []
    let good := fun (g : Group) (b : Nat × Option Desc) => (places g b).filterMap Except.toOption
    let steps := fun (g : Group) (p : Nat × Nat) => bs.flatMap fun b => ((good g b).filter (· = p)).map fun _ =>
      ({ expect := if blkFlag b.1 370 then blockItems b.1 else 0, arrive := if blkFlag b.1 369 then 1 else 0 } : BarStep)
    let after := fun (g : Group) (p : Nat × Nat) (k : Nat) =>
      ((steps g p).take k).foldl (fun r st => (r.step st).1) (barAt u p.1 p.2)
    let fine := fun (g : Group) => (∀ b ∈ bs, (good g b).length = (places g b).length)
      ∧ ∀ b ∈ bs, ∀ p ∈ good g b, ∀ k, k < (steps g p).length → ((after g p k).step ((steps g p).getD k {})).2 = 0
    let starts := fun (g : Group) (t : State) (g' : Group) =>
      (g'.ops.drop g.ops.length).map (fun o => (o.cls, o.ended, o.kind, o.bars)) = bs.map (fun b => (0, false, (match b with
          | (x, some d) => .copyTile x d none
          | (x, none) => .copy x 0 0 0 0), good g b))
        ∧ ∀ p, p.2 % 16 = 0 → barAt t p.1 p.2 = after g p (steps g p).length
    (∀ (f : CpkOps) (iss : Issue) (g : Group), Runs (.cpk f) s iss g → fine g →
      let a := acts s iss g
      getBlocks a.s a.g iss.strand a.lanes a.nol1 (aNow s g f.aa.toNat (lead s iss g)).toNat f.n.toNat = (u, .ok bs) →
      Answers (.cpk f) s iss fun t g' => starts g t g' ∧ GoOn s iss g g')
    ∧ ∀ (gk lane : Nat) (v : BitVec 64) (g : Group), s.group? gk = some g → fine g →
      v.extractLsb' 0 6 = 0#6 → v.extractLsb' 22 2 = 0#2 → v.extractLsb' 30 34 = 0#34 → v.extractLsb' 24 6 ≠ 0#6 →
      getBlocks s g .addr [lane] false (coreWindow + (v.extractLsb' 0 22).toNat) (v.extractLsb' 24 6).toNat = (u, .ok bs) →
      ∃ t g', exec (.kick gk lane v) s = .next t ∧ t.group? gk = some g' ∧ starts g t g')

/-- R289, R294, R296: the next item of a copy that nothing holds up reads its bytes, writes them where it lands, and is counted; here an
operation with no barrier, and not its last item.
R300, R301: a pft whose range and token pass their checks is accepted, and each step fills one line at its home slice. -/
def Obligations.CopyItemsLand : Prop :=
  (∀ (s u : State) (gk : Nat) (o : Op) (w : Who) (bs : List Byte),
    heldOp s (.ofGroup gk o.id) = some (o, w) → heldMay s (.ofGroup gk o.id) o w = true → o.bars = [] →
    o.next + 1 ≠ o.count →
    (∀ items n bar arv lane dst src p rest, o.kind = .cpl items n bar arv → laneReady s (.ofGroup gk o.id) o lane = true →
      items.find? (fun i => i.1 = lane) = some (lane, dst, src) →
      (∀ i ∈ items, i.1 < lane → runsMeet n i.2.1 dst = false) →
      (∀ i ∈ items, i.1 ≤ lane → cplFault s w n i = none) →
      (∃ v, engineRun s w 5 dst n = .ok ((p, n) :: rest, v)) → engineRead s w src n = .ok (bs, u) → spotFull u p = false →
      ∃ t, exec (.cplItem gk o.id lane) s = .next t ∧ SpotHolds t bs p
        ∧ ItemDone t gk o (.cpl (items.filter fun i => i.1 != lane) n bar arv))
    ∧ ∀ x p r pos taken passed ps v, o.kind = .copy x p r pos taken →
      let dst := addrPlus (blkDest x) (p * strideOf x 255 224 + r * strideOf x 223 192 + pos)
      let n := min (blkRowBytes x - pos) (32 - dst % 32)
      itemBytes s w x p r pos n taken = .ok (bs, passed, u) → targetSpots u w x dst = .ok (ps, v) →
      ps.any (spotFull v) = false →
      let c := nextCursor x p r pos n
      ∃ t, exec (.copyItem (.ofGroup gk o.id)) s = .next t ∧ (∀ q ∈ ps, SpotHolds t bs q)
        ∧ ItemDone t gk o (.copy x c.1 c.2.1 c.2.2 (taken + passed)))
  ∧ ((∀ (f : PftOps) (s : State) (iss : Issue) (g : Group), Runs (.pft f) s iss g →
    let a := acts s iss g
    let start := (aNow s g f.aa.toNat (lead s iss g)).toNat
    let ab := (aNow s g f.ab.toNat (lead s iss g)).toNat
    let pages := f.size.toNat + 1
    pftCause a.s a.g start (4096 * pages) f.comp.toNat ab = none →
    (∃ u, pftReach a.s a.g iss.strand a.lanes start f.comp.toNat ab = (u, .ok ())) → g.count 3 < 63 → f.comp ≠ 1#2 →
    Accepts (.pft f) s iss g 3 (.pft start (32 * pages) f.comp.toNat ab false))
  ∧ ∀ (s u : State) (gk pa start lines comp ab : Nat) (o : Op) (w : Who) (part : Bool),
    heldOp s (.ofGroup gk o.id) = some (o, w) → heldMay s (.ofGroup gk o.id) o w = true → o.bars = [] →
    o.kind = .pft start lines comp ab part → (comp = 0 → o.stall ≠ .unchecked) → o.next + 1 < lines →
    engineSpot s w 4 (start + 128 * o.next) = .ok (.home pa, u) → normPA u pa = pa → pa % 128 = 0 →
    (tierOf pa = .hbm ∨ tierOf pa = .cxl) →
    ∃ t, exec (.prefetchLine gk o.id) s = .next t ∧ (SMap.get {} t.msc (pa / 128)).valid = 15#4
      ∧ ∃ g' o', t.group? gk = some g' ∧ g'.op? o.id = some o' ∧ o'.next = o.next + 1)

/-! ### Cross-lane instructions and rendezvous -/

/-- R40, R154 to R157: where the issuing lanes are the whole mask, and their registers are full, a cross-lane instruction completes at
once: shfl takes from the lane that its mode and selector name, vote counts the lanes whose source is not zero, redux combines the
members in rising order and scan their prefixes. -/
def Obligations.LaneResults : Prop :=
  ∀ (f : LnOps) (s : State) (iss : Issue) (g : Group),
    let ms := acting s iss g
    let x := fun r l => ((agedGroup iss g).read (s.free + 2) (vCode r l)).truncate 32
    let a := x f.va.toNat
    let c := ctlOf (g.thread (lead s iss g)).fmode iss.entry.hints
    let hits := ms.filter fun l => a l != 0#32
    let mode := f.mode.toNat
    let comb : Word → Word → Word := fun x y =>
      if mode = 0 then x + y
      else if mode = 1 then (if x.sle y then x else y)
      else if mode = 2 then (if y.sle x then x else y)
      else if mode = 3 then (if x.ule y then x else y)
      else if mode = 4 then (if y.ule x then x else y)
      else if mode = 5 then x &&& y else x ||| y
    let fold : List Word → Word := fun xs => match xs with
      | [] => 0#32
      | y :: ys => ys.foldl comb y
    let fadds := fun (scan : Bool) => laneValues 7 c scan (ms.map a)
    let upto := fun (l : Nat) => (ms.filter fun m => m ≤ l).map a
    let gives := fun (i : Instr) (y : Nat → Word) (fl : Word) =>
      Runs i s iss g → decodeOp iss.word = some i → g.arrivals = [] →
      lanesOfMask (sNow s g (f.sm.toNat + 1) ++ sNow s g f.sm.toNat) = ms →
      (∀ l ∈ ms, l < g.width ∧ (g.thread l).comp.ended = false) →
      (laneCodes i ms).all g.isFull = true →
      WritesFlags i s iss g (toV s iss g f.vd.toNat 1 fun _ l => y l) fun _ => fl
    gives (.shfl f) (fun l =>
        let b := (x (f.va.toNat + 1) l).toNat
        let src : Int := if mode = 0 then b else if mode = 1 then (l : Int) - b else if mode = 2 then l + b else (l ^^^ b : Nat)
        if 0 ≤ src ∧ src.toNat ∈ ms then a src.toNat else a l) 0#32
    ∧ gives (.vote f) (fun l =>
        if mode = 0 then (if hits = [] then 0#32 else 1#32)
        else if mode = 1 then (if hits = ms then 1#32 else 0#32)
        else if mode = 2 then
          BitVec.ofNat 32 (((List.range 32).filter fun i => hits.contains (32 * (l / 32) + i)).map (2 ^ ·)).sum
        else if mode = 3 then (if l ∈ hits ∧ ∀ m ∈ hits, l ≤ m then 1#32 else 0#32)
        else BitVec.ofNat 32 hits.length) 0#32
    ∧ (mode < 7 →
        gives (.redux f) (fun _ => fold (ms.map a)) 0#32 ∧ gives (.scan f) (fun l => fold (upto l)) 0#32)
    ∧ (mode = 7 →
        gives (.redux f) (fun _ => (fadds false).1.getLastD 0#32) (fadds false).2
        ∧ gives (.scan f) (fun l => (fadds true).1.getD (ms.idxOf l) 0#32) (fadds true).2)

/-- R115, R158: an xsend that finds a receiver of another group of its team waiting at its slot, with a run of its length, writes its
covered lanes' registers into the receiver's run, which is full again, and both go on. Runs that differ in length raise
RENDEZVOUS_MISMATCH in both. With nobody waiting it waits.
R110, R115, R158: an xrecv that finds a sender of another group of its team waiting at its slot, with a full run of its length, takes
the covered lanes' values and goes on, and so does the sender. With nobody waiting its run is empty and it waits. -/
def Obligations.RendezvousResults : Prop :=
  (∀ (f : SendOps) (s : State) (iss : Issue) (g : Group),
    let ms := teamMeets s g.team
    let slot := f.slot.toNat
    let ls := acting s iss g
    Runs (.xsend f) s iss g → (∀ j, j ≠ slot → firstMeet ms true j = none ∨ firstMeet ms false j = none) →
    (∀ (m : Meet) (k : Group), firstMeet ms true slot = none → firstMeet ms false slot = some m → m.gk ≠ iss.group →
      s.group? m.gk = some k → m.lanes.Nodup → (∀ l ∈ m.lanes, l < 64) → m.reg + 2 ^ m.w ≤ 128 →
      (m.w = f.w.toNat →
        Answers (.xsend f) s iss fun t g' =>
          Written toNone g g' ∧ aside id g' = aside id g ∧ GoOn s iss g g'
            ∧ ∃ k', t.group? m.gk = some k' ∧ (∀ l ∈ m.entry.members, Stands k' .comp l (m.entry.pc + 4#56))
              ∧ ∀ l ∈ m.lanes, ∀ j < 2 ^ m.w, k'.isFull (vCode (m.reg + j) l) = true
                ∧ (l ∈ ls → ∀ n, k'.read n (vCode (m.reg + j) l) = (agedGroup iss g).read (s.free + 2) (vCode (f.va.toNat + j) l))
                ∧ (l ∉ ls → k'.arch (vCode (m.reg + j) l) = k.arch (vCode (m.reg + j) l)))
      ∧ (m.w ≠ f.w.toNat → CanTrap .comp g ls (fun _ => ⟨0x064, 0, 0⟩) →
        CanTrap .comp k m.lanes (fun _ => ⟨0x064, 0, 0⟩) →
        Answers (.xsend f) s iss fun t g' =>
          Written toNone g g' ∧ HaveTrapped s iss g g' (fun _ => ⟨0x064, slot, f.w.toNat + 4 * m.w⟩)
            ∧ ∃ k', t.group? m.gk = some k' ∧ ∀ l ∈ m.lanes,
                (k'.thread l).comp = trapped (k.thread l).comp ⟨0x064, slot, m.w + 4 * f.w.toNat⟩ m.entry.seqPc))
    ∧ (firstMeet ms false slot = none →
        Answers (.xsend f) s iss fun t g' =>
          Written toNone g g' ∧ aside id g' = aside id g ∧ OnlyGroup iss.group { s with stamp := s.stamp + 1 } t
            ∧ ∀ l ∈ ls, Blocked g' .comp l iss.entry.pc (.rendezvous true slot s.stamp f.va.toNat f.w.toNat ls)))
  ∧ (∀ (f : RecvOps) (s : State) (iss : Issue) (g : Group),
    let ms := teamMeets s g.team
    let slot := f.slot.toNat
    let ls := acting s iss g
    Runs (.xrecv f) s iss g → (∀ j, j ≠ slot → firstMeet ms true j = none ∨ firstMeet ms false j = none) →
    (∀ (m : Meet) (k : Group), firstMeet ms false slot = none → firstMeet ms true slot = some m → m.gk ≠ iss.group →
      s.group? m.gk = some k → m.w = f.w.toNat → (∀ l ∈ m.lanes, l < 64) →
      (meetCodes m (ls.filter m.lanes.contains)).all k.isFull = true →
      Answers (.xrecv f) s iss fun t g' =>
        Written (fun c y => ∃ j < 2 ^ m.w, ∃ l ∈ ls, l ∈ m.lanes ∧ c = vCode (f.vd.toNat + j) l
            ∧ y = k.read (s.free + 2) (vCode (m.reg + j) l)) g g'
          ∧ { aside id g' with empty := g.empty } = aside id g ∧ (∀ c, g'.isFull c = g.isFull c) ∧ GoOn s iss g g'
          ∧ ∃ k', t.group? m.gk = some k' ∧ ∀ l ∈ m.entry.members, Stands k' .comp l (m.entry.pc + 4#56))
    ∧ (firstMeet ms true slot = none →
        Answers (.xrecv f) s iss fun t g' =>
          Written toNone g g' ∧ { aside id g' with empty := g.empty } = aside id g
            ∧ OnlyGroup iss.group { s with stamp := s.stamp + 1 } t
            ∧ (∀ j < 2 ^ f.w.toNat, ∀ l ∈ ls, g'.isFull (vCode (f.vd.toNat + j) l) = false)
            ∧ ∀ l ∈ ls, Blocked g' .comp l iss.entry.pc (.rendezvous false slot s.stamp f.vd.toNat f.w.toNat ls)))

/-! ### Operand slots and engine commands -/

/-- R197, R204, R302, R305: tsclaim claims slots that are all free, and tsrel frees slots of the group on which none of its operations is
unfinished; no other slot changes. A slot that is claimed already raises SLOT_CLAIMED, and one that is not the group's SLOT_NOT_CLAIMED,
for the lowest such slot. -/
def Obligations.SlotResults : Prop :=
  ∀ (f : SlotOps) (s : State) (iss : Issue) (g : Group),
    let named := fun (k : Nat) => f.slot.toNat ≤ k ∧ k ≤ f.slot.toNat + f.count.toNat
    let slot := fun (s : State) (k : Nat) => slotOf s g.core k
    let mine := fun (k : Nat) => (slot s k).state ≠ 0 ∧ (slot s k).owner = iss.group
    let becomes := fun (i : Instr) (x : Slot) =>
      Answers i s iss fun t g' =>
        Written toNone g g' ∧ aside id g' = aside id g ∧ GoOn s iss g g' ∧ OtherGroups iss.group s t ∧ SameMemory s t
          ∧ ∀ k, slot t k = if named k then x else slot s k
    (Runs (.tsclaim f) s iss g → (∀ k, named k → (slot s k).state = 0) →
      becomes (.tsclaim f) { state := 1, owner := iss.group })
    ∧ (∀ k, Runs (.tsclaim f) s iss g → named k → (slot s k).state ≠ 0 → (∀ j, named j → j < k → (slot s j).state = 0) →
        CanTrap iss.strand g (acting s iss g) (fun _ => ⟨0x142, k, 0⟩) →
        Enters (.tsclaim f) s iss g (acting s iss g) fun _ => ⟨0x142, k, 0⟩)
    ∧ (Runs (.tsrel f) s iss g → (∀ k, named k → mine k) →
        (∀ o ∈ g.ops, o.ended = false → ∀ k ∈ o.slots, ¬ named k) → becomes (.tsrel f) {})
    ∧ (∀ k, Runs (.tsrel f) s iss g → named k → ¬ mine k → (∀ j, named j → j < k → mine j) →
        CanTrap iss.strand g (acting s iss g) (fun _ => ⟨0x141, k, 0⟩) →
        Enters (.tsrel f) s iss g (acting s iss g) fun _ => ⟨0x141, k, 0⟩)

/-- R271, R274, R303: tload, ldt and stt read their descriptor, check their coordinates (and tload its slots), and are accepted in class 1;
an stt blocks until its values have been popped, and an ldt while regions are in play and a page of its tile does not translate (log entry
34); an entry that such a wait has opened again goes on. -/
def Obligations.TileCommandsAccepted : Prop :=
  ∀ (f : TloadOps) (h : LtOps) (s u : State) (iss : Issue) (g : Group) (d : Desc),
    let a := acts s iss g
    let reads := fun (va align : Nat) => descGet a.s a.g iss.strand (acting s iss g) a.nol1 va align = (u, .ok d)
    let coord := (aNow s g h.t.toNat (lead s iss g)).toNat
    let at_ := fun (n : Nat) => addrPlus (aNow s g h.base.toNat (lead s iss g)).toNat (immInt iss.entry.hints h.off * n)
    g.count 1 < 63 →
    (∀ cs, Runs (.tload f) s iss g → reads (aNow s g f.aa.toNat (lead s iss g)).toNat 1 → tloadCoords { a with s := u } f = .ok cs →
      tloadRange d f (aNow s g f.ab.toNat (lead s iss g)).toNat cs = none →
      (∀ k, k < cs.length → slotMine u g.core iss.group (f.slot.toNat + k) = true) →
      Accepts (.tload f) s iss g 1 (.tload d cs f.slot.toNat))
    ∧ (Runs (.ldt h) s iss g → reads (at_ (2 ^ h.size.toNat)) (2 ^ h.size.toNat) → coordCause d coord = none →
      a.tileDone = false → tileRegion u g.who d coord false = some false →
      Accepts (.ldt h) s iss g 1 (.ldt d coord (2 ^ h.size.toNat = 8) (acting s iss g) none))
    ∧ (Runs (.ldt h) s iss g → reads (at_ (2 ^ h.size.toNat)) (2 ^ h.size.toNat) → coordCause d coord = none →
      a.tileDone = false → tileRegion u g.who d coord false = none →
      Answers (.ldt h) s iss fun t g' =>
        NewOp g g' 1 (.ldt d coord (2 ^ h.size.toNat = 8) (acting s iss g) none) ∧ Written toNone g g' ∧ OtherGroups iss.group s t
          ∧ SameMemory s t ∧ ∀ l ∈ acting s iss g, Blocked g' iss.strand l iss.entry.pc (.tile g.nextId))
    ∧ (∀ i, i = .ldt h ∨ i = .stt h → Runs i s iss g → a.tileDone = true →
      Answers i s iss fun t g' => Written toNone g g' ∧ GoOn s iss g g' ∧ OtherGroups iss.group s t ∧ SameMemory s t)
    ∧ (Runs (.stt h) s iss g → reads (at_ 4) 4 → d.vkind ≠ 2 → coordCause d coord = none →
      a.tileDone = false → tileRegion u g.who d coord true ≠ some true →
      Answers (.stt h) s iss fun t g' =>
        NewOp g g' 1 (.stt d coord (acting s iss g) []) ∧ Written toNone g g' ∧ OtherGroups iss.group s t ∧ SameMemory s t
          ∧ ∀ l ∈ acting s iss g, Blocked g' iss.strand l iss.entry.pc (.stt g.nextId))

/-- R306, R307, R314, R315, R347: a matrix command whose block and slots pass their checks is accepted in class 2, mattn with the
snapshots of its two sequences. macz zeroes its tile when no matrix operation of the group is unfinished and the engine has not begun
one. macrd empties its registers and is accepted. -/
def Obligations.MatrixCommandsAccepted : Prop :=
  ∀ (f : XaOps) (z : MaczOps) (r : MacrdOps) (s : State) (iss : Issue) (g : Group) (bs : List Byte),
    let a := acts s iss g
    let va := (aNow s g f.aa.toNat (lead s iss g)).toNat
    let x := natOfBytes bs
    let passes := fun (op : Nat) =>
      localBytes a.s a.g va 64 64 = .ok bs ∧ g.bankPending (lead s iss g) = [] ∧ g.count 2 < 63 ∧ matCause a.s g.core iss.group op va x = none
    let word := (aNow s g r.aa.toNat (lead s iss g)).toNat
    let n : Nat := 2 ^ r.w.toNat
    let place := fun i l => macrdPlace r.mode.toNat (word % 128) (word / 2 ^ 8 % 64) (word / 2 ^ 16 % 8) n i l
    let kind : OpKind := .macrd (acting s iss g) r.vd.toNat n r.tile.toNat r.mode.toNat (word % 128) (word / 2 ^ 8 % 64)
      (word / 2 ^ 16 % 8)
    (Runs (.mma f) s iss g → passes 0 → Accepts (.mma f) s iss g 2 (.mat 0 va x [] [] []))
    ∧ (Runs (.mdist f) s iss g → passes 1 → Accepts (.mdist f) s iss g 2 (.mat 1 va x [] [] []))
    ∧ (Runs (.mtopk f) s iss g → passes 2 → Accepts (.mtopk f) s iss g 2 (.mat 2 va x [] [] []))
    ∧ (∀ (u₁ u₂ u₃ u₄ : State) (kd vd : Desc) (ks vs : List Nat), Runs (.mattn f) s iss g → passes 3 →
        descGet a.s a.g iss.strand (acting s iss g) a.nol1 (matD1 x) = (u₁, .ok kd) →
        descGet u₁ a.g iss.strand (acting s iss g) a.nol1 (x / 2 ^ 448 % 2 ^ 64) = (u₂, .ok vd) →
        kd.vkind = 0 → vd.vkind = 0 → kd.ext.getD 0 0 = 16 * matNT x → vd.ext.getD 0 0 = 16 * matNT x →
        attnHandle u₂ g.who x (matX1 x) kd = .ok (u₃, ks) → attnHandle u₃ g.who x (matX2 x) vd = .ok (u₄, vs) →
        Accepts (.mattn f) s iss g 2 (.mat 3 va x [kd, vd] [ks, vs] []))
    ∧ (Runs (.macz z) s iss g → (∀ o ∈ g.ops, o.cls = 2 → o.ended = true) → matBegun s g.core = false →
        Answers (.macz z) s iss fun t g' =>
          Written toNone g g' ∧ aside id g' = aside id g ∧ GoOn s iss g g' ∧ OtherGroups iss.group s t ∧ SameMemory s t
            ∧ accOf t g.core z.tile.toNat = {} ∧ ∀ k, k ≠ z.tile.toNat → accOf t g.core k = accOf s g.core k)
    ∧ (Runs (.macrd r) s iss g → g.count 2 < 63 → word < 2 ^ 19 → word / 2 ^ 7 % 2 = 0 → word / 2 ^ 14 % 4 = 0 →
        (r.mode ≠ 2#5 → word / 2 ^ 16 % 8 = 0) → (∀ l ∈ acting s iss g, ∀ i < n, (place i l).isSome = true) →
        Answers (.macrd r) s iss fun t g' =>
          NewOp g g' 2 kind ∧ Written toNone g g' ∧ GoOn s iss g g' ∧ OtherGroups iss.group s t ∧ SameMemory s t
            ∧ ∀ i < n, ∀ l ∈ acting s iss g, g'.isFull (vCode (r.vd.toNat + i) l) = false)

/-! ### What the tile engines do -/

/-- R266, R273, R274: a delivery of an ldt gives each member the words that its qld has room for, once every older delivery to it has
been made; a step of an stt pops one value from every member at once into its place in the tile, and after the last its entry goes on.
The pops show the aperture stores made before the values were pushed (R109, log entry 6). -/
def Obligations.TileRegistersMove : Prop :=
  ∀ (s : State) (gk id : Nat) (g : Group) (o : Op), s.group? gk = some g → g.op? id = some o → o.ended = false →
    (∀ ws, o.ldtWords? = some ws → ctxAway s g.ctx = false → (ws.map (·.1)).Nodup → (∀ w ∈ ws, w.1 < g.threads.length) →
      ∃ t g', exec (.ldtDelivery gk id) s = .next t ∧ t.group? gk = some g' ∧ Written toNone g g'
        ∧ ∀ w ∈ ws, (g'.thread w.1).qld = (g.thread w.1).qld ++
            (if g.oldestOwed w.1 id then w.2.take (16 - (g.thread w.1).qld.length) else []))
    ∧ (∀ d coord members values e, o.kind = .stt d coord members values → g.sttEntry id = some e → o.id = id →
      g.status = .resident → ctxRuns s g.ctx = true → members.Nodup →
      (∀ l ∈ members, l < g.threads.length ∧ l < g.width ∧ (g.thread l).qsd ≠ []) →
      (256 ≤ g.width * (o.next + 1) → streamRegion s g.who d coord (g.sttValues o members values) = some false) →
      ∃ t g' vs, exec (.sttPopStep gk id) s = .next t ∧ t.group? gk = some g' ∧ Written toNone (g.handOver 3 1 members) g'
        ∧ (g'.op? id).map (·.kind) = some (.stt d coord members vs)
        ∧ (∀ l ∈ members, (g'.thread l).qsd = (g.thread l).qsd.drop 1)
        ∧ (∀ k, SMap.get 0#32 vs k =
            if k / g.width = o.next ∧ k % g.width ∈ members then (g.thread (k % g.width)).qsd.getD 0 0#32
            else SMap.get 0#32 values k)
        ∧ (256 ≤ g.width * (o.next + 1) → ∀ l ∈ e.members, l < 64 → Stands g' .addr l (e.pc + 4#56)))

/-- R219, R220, R272, R297, R304: a decode port binds the next tile of the oldest operation that it may take and decodes it: into the
next slot of a tload, the words of an ldt, or the image of a decode copy.
R222, R274, R298: the encode path takes the oldest stt whose values have all been popped, or encode copy, and encodes its tile at its
own entry; an stt then ends. The bytes are those that the encode path writes. -/
def Obligations.TilesAreCoded : Prop :=
  (∀ (s u : State) (core port gk id : Nat) (o : Op) (w : Who) (d : Desc) (coord : Nat) (pl : TilePlace) (t : Tile) (e : IndexEntry),
    nextOp s core (portTakes s port) = some (.ofGroup gk id, o, w) → bindTile s w d coord o.stall = .go pl false → o.entry = none →
    decodeTile s w d coord pl = .ok (t, e, u) →
    (∀ cs slot, o.kind = .tload d cs slot → o.failed = none → cs.getD o.next 0 = coord → o.next + 1 < cs.length →
      ∃ v, exec (.tileDecode core port) s = .next v ∧ (slotOf v o.core (slot + o.next)).state = 2
        ∧ (slotOf v o.core (slot + o.next)).tile = some t ∧ ItemDone v gk o (.tload d cs slot))
    ∧ (∀ g scales members, s.group? gk = some g → o.kind = .ldt d coord scales members none →
      ∃ v g' o', exec (.tileDecode core port) s = .next v ∧ v.group? gk = some g' ∧ g'.op? id = some o'
        ∧ o'.kind = .ldt d coord scales members (some (members.map fun l => (l, t.laneWords g.width scales l))))
    ∧ (∀ x, o.kind = .copyTile x d none → blkCoord x = coord →
      ∃ v g' o', exec (.tileDecode core port) s = .next v ∧ v.group? gk = some g' ∧ g'.op? o.id = some o'
        ∧ o'.kind = .copyTile x d (some t.image)))
  ∧ (∀ (s u : State) (core gk id : Nat) (o : Op) (w : Who) (d : Desc) (coord : Nat),
    nextOp s core (encodeTakes s) = some (.ofGroup gk id, o, w) →
    let encodes := fun (s : State) (vals : List Word) =>
      encodeTile s w d coord vals (lowestSlot (s.ctx? w.ctx) d) none 0 false (plainPlace d coord) = .ok u
    (∀ g members values, s.group? gk = some g → (∀ p ∈ g.ops, p.failed = none) → o.kind = .stt d coord members values →
      encodes s ((List.range 256).map (SMap.get 0#32 values)) →
      ∃ t, exec (.encodeTile core) s = .next t ∧ SameMemory u t
        ∧ ∀ g' o', t.group? gk = some g' → g'.op? id = some o' → o'.ended = true)
    ∧ ∀ x im bs v, o.kind = .copyTile x d im → blkCoord x = coord → o.bars = [] → o.next + 1 ≠ o.count →
      engineRead s w (blkSource x) 1024 = .ok (bs, v) →
      encodes v ((List.range 256).map fun n => BitVec.ofNat 32 (natOfBytes ((bs.drop (4 * n)).take 4))) →
      ∃ t, exec (.encodeTile core) s = .next t ∧ SameMemory u t ∧ ItemDone t gk o (.copyTile x d im))

/-! ### What the matrix engine does -/

/-- R60, R308, R309: a product or distance leaves in every output element of its tile the sum of its groups of 16 terms, from zero under
Z and else from the element, and changes no other element, tile or row statistic; the operation then ends. Here B is not under the INT4
prologue. -/
def Obligations.ProductsAccumulate : Prop :=
  ∀ (s : State) (core gk id op va x : Nat) (g : Group) (o : Op) (w : Who),
    nextOp s core (fun r o => matReady s r o && (o.kind.matOp = some 0 || o.kind.matOp = some 1)) = some (.ofGroup gk id, o, w) →
    s.group? gk = some g → o.kind = .mat op va x [] [] [] → o.meetsError s = false → productCause s o.core op va x = none →
    matFlag x 12 = false → matRange op x = none →
    let fz := matFlag x 9
    let a := (slotsValues s o.core (matSA x) (matMT x * matKT x) fz).1
    let b := (slotsValues s o.core (matSB x) (matKT x * matNT x) fz).1
    let elem := fun (s : State) (t r c : Nat) => (SMap.get 0#32 (accOf s o.core t).elems (64 * r + c)).toNat
    let term := fun (m n k : Nat) =>
      let y := matrixAt a (matKT x) (matFlag x 10) m k
      let z := matrixAt b (matNT x) (matFlag x 11) k n
      if op = 0 then mulV y z
      else
        let d := addV .rne y z.negate
        ((mulV d.1 d.1).1, d.2 ||| (mulV d.1 d.1).2)
    let out := fun (r c : Nat) => (List.range (matKT x)).foldl (fun acc i =>
        (accGroup false fz acc ((List.range 16).map fun j => term (r - matRow0 x) (c - matCol0 x) (16 * i + j))).bits)
      (if matFlag x 8 then 0 else elem s (matAC x) r c)
    let inside := fun (r c : Nat) =>
      matRow0 x ≤ r ∧ r < matRow0 x + 16 * matMT x ∧ matCol0 x ≤ c ∧ c < matCol0 x + 16 * matNT x
    ∃ t, exec (.matrixProductExecute core) s = .next t
      ∧ (∀ r c, c < 64 → elem t (matAC x) r c % 2 ^ 32 = if inside r c then out r c % 2 ^ 32 else elem s (matAC x) r c)
      ∧ (accOf t o.core (matAC x)).stats = (accOf s o.core (matAC x)).stats
      ∧ (∀ k, k ≠ matAC x → accOf t o.core k = accOf s o.core k)
      ∧ ∀ g' o', t.group? gk = some g' → g'.op? id = some o' → o'.ended = true

/-- R310: a top-k pass leaves in each row of the row statistics of its output tile the K best of the entries held there and the candidate
columns of the row, best first and then the lower index, padded to kp; the operation then ends. Here every column is a candidate. -/
def Obligations.TopKKeepsTheBest : Prop :=
  ∀ (s : State) (core gk id va x : Nat) (g : Group) (o : Op) (w : Who),
    nextOp s core (fun r o => matReady s r o && o.kind.matOp = some 2) = some (.ofGroup gk id, o, w) →
    s.group? gk = some g → o.kind = .mat 2 va x [] [] [] → o.meetsError s = false → matD1 x = 0 → matBreaches 2 x = [] →
    matRange 2 x = none →
    let largest := matFlag x 12
    let kp := matKp x
    let fill := (fmt32.infBits + (if largest then fmt32.signBit else 0), 2 ^ 32 - 1)
    let word := fun (s : State) (r i j : Nat) => (SMap.get 0#32 (accOf s o.core (matOut x)).stats (2 * (r * kp + i) + j)).toNat
    let held := fun (r : Nat) => (List.range (matK x)).map fun i => if matFlag x 8 then fill else (word s r i 0, word s r i 1)
    let cands := fun (r : Nat) => (List.range (matCols x)).map fun c =>
      ((SMap.get 0#32 (accOf s o.core (matAC x)).elems (64 * (matRow0 x + r) + matCol0 x + c)).toNat, (matX1 x + c) % 2 ^ 32)
    ∃ t, exec (.topkExecute core) s = .next t
      ∧ (∀ r, r < matRows x → ∃ best : List (Nat × Nat),
          best.Perm (held r ++ cands r)
            ∧ (∀ i, i + 1 < best.length → ranksBefore largest (best.getD (i + 1) fill) (best.getD i fill) = false)
            ∧ ∀ i, i < kp → (word t r i 0, word t r i 1) = if i < matK x then best.getD i fill else fill)
      ∧ (∀ k, k ≠ matOut x → accOf t o.core k = accOf s o.core k)
      ∧ (accOf t o.core (matOut x)).elems = (accOf s o.core (matOut x)).elems
      ∧ ∀ g' o', t.group? gk = some g' → g'.op? id = some o' → o'.ended = true

/-- R311 to R313: an attention pass begins, under Z, by setting its rows to zero with no maximum. Each of its moves decodes one KV tile, K
before V, and stages it; with the last tile of a token tile, that token tile is applied to every row, and the next move takes the next.
With the last token tile the rows are finished under P, and the operation ends. (One KV tile a move is the model's: log entry 1.) -/
def Obligations.AttentionSteps : Prop :=
  ∀ (s u : State) (core gk id va x : Nat) (g : Group) (o : Op) (w : Who) (kd vd : Desc) (ks vs : List Nat) (ref : SMap Word) (t : Tile),
    nextOp s core (fun r o => matReady s r o && o.kind.matOp = some 3) = some (.ofGroup gk id, o, w) →
    s.group? gk = some g → o.kind = .mat 3 va x [kd, vd] [ks, vs] ref → o.meetsError s = false →
    productCause s o.core 3 va x = none → portFirst s o = false →
    let tile := matX3 x / 16 + o.next
    let dt := matNT x
    let fz := matFlag x 9
    let n := o.staged.length
    let begins := o.next = 0 && n = 0
    let b := if begins then attnStart s o x else (accOf s o.core (matAC x), ref)
    let s₁ := if begins then setAccTile s o.core (matAC x) fun _ => b.1 else s
    let all := o.staged ++ [t]
    let r := attnTile fz x tile (slotsValues s o.core (matSA x) (matMT x * dt) fz).1 (stagedValues (all.take dt) fz).1
      (stagedValues (all.drop dt) fz).1 b.1 b.2
    let kind := fun (ref : SMap Word) => OpKind.mat 3 va x [kd, vd] [ks, vs] ref
    n < 2 * dt →
    stageTile s₁ w (if n < dt then kd else vd) (if n < dt then ks else vs) dt (16 * tile) (n % dt) o.entry = .ok (t, u) →
    ∃ z, exec (.attentionExecute core) s = .next z
      ∧ (n + 1 < 2 * dt → accOf z o.core (matAC x) = b.1 ∧ ∃ g' o', z.group? gk = some g' ∧ g'.op? o.id = some o'
          ∧ o'.kind = kind b.2 ∧ o'.next = o.next ∧ o'.staged = all ∧ o'.ended = o.ended)
      ∧ (n + 1 = 2 * dt → o.next + 1 ≠ o.count → accOf z o.core (matAC x) = r.1 ∧ ItemDone z gk o (kind r.2.1))
      ∧ (n + 1 = 2 * dt → o.next + 1 = o.count →
          accOf z o.core (matAC x) = (if matFlag x 12 then (eachRow x (fun _ q => attnFinish fz q) r.1 r.2.1).1 else r.1)
            ∧ ∀ g' o', z.group? gk = some g' → g'.op? id = some o' → o'.ended = true)
      ∧ (begins = true → matFlag x 8 = true → ∀ i j, i < 16 * matMT x → j < 16 * dt →
          let y := accOf z o.core (matAC x)
          let row := matRow0 x + i
          SMap.get 0#32 y.elems (64 * row + matCol0 x + j) = 0#32
            ∧ SMap.get 0#32 y.stats (8 * row) = 0xFF800000#32 ∧ SMap.get 0#32 y.stats (8 * row + 1) = 0#32
            ∧ SMap.get 0#32 y.stats (8 * row + 2) = 0#32)

/-- R110, R315, R316: a macrd whose turn it is writes the elements it names into its registers, which are full again; R64, R65: the
record of a sampled tile that waits in a core goes to the telemetry ring of its context.
R287: a store to MSTAT clears the bits that are 1 in it. -/
def Obligations.AccumulatorsAreRead : Prop :=
  (∀ (s : State) (core gk id : Nat) (g : Group) (o : Op) (w : Who),
    (∀ members d n tile mode row col kp,
      nextOp s core (fun r o => matReady s r o && (match o.kind with
        | .macrd .. => true
        | _ => false)) = some (.ofGroup gk id, o, w) →
      s.group? gk = some g → o.kind = .macrd members d n tile mode row col kp → (accOf s o.core tile).bad = false →
      o.core = core → g.arrivals = [] → teamMeets s g.team = [] → g.status = .resident → (∀ l ∈ members, l < 64) → d + n ≤ 128 →
      (∀ p ∈ g.ops, p.failed = none) →
      ∃ t g', exec (.accumulatorRead core) s = .next t ∧ t.group? gk = some g'
        ∧ Written (fun c y => ∃ l ∈ members, ∃ i < n, c = vCode (d + i) l ∧ y = (match macrdPlace mode row col kp n i l with
            | some (true, k) => SMap.get 0#32 (accOf s core tile).stats k
            | some (false, k) => SMap.get 0#32 (accOf s core tile).elems k
            | none => 0#32).zeroExtend 64) g g'
        ∧ (∀ l ∈ members, ∀ i < n, g'.isFull (vCode (d + i) l) = true)
        ∧ SameMemory s t)
    ∧ ∀ c r rest, (s.core core).proofs = (c, r) :: rest →
      exec (.proofSample core) s = .next (ringEmit (s.setCore core fun x => { x with proofs := rest }) c 2 r))
  ∧ (∀ (s : State) (gk : Nat) (g : Group) (v : BitVec 64), s.group? gk = some g →
    ∃ t, exec (.mstat gk v) s = .next t ∧ t.group? gk = some { g with mstat := g.mstat &&& ~~~(v.extractLsb' 0 5) }
      ∧ OnlyGroup gk s t)

/-! ### Code tables and KV sequences -/

/-- R217: codewords are assigned canonically, to the present symbols in order of length and then of value: the first is all zeros,
and each later one is the previous one plus 1, shifted left by the difference of the lengths. A table whose Kraft sum is below 1
leaves a bit string with no codeword. (A table's lengths are at most 12: R216.) -/
def Obligations.CodewordsAreCanonical : Prop :=
  ∀ ls : List Nat, (∀ n ∈ ls, n ≤ 12) →
    let cs := codewords ls
    (∀ sym n, (∃ c, (sym, n, c) ∈ cs) ↔ sym < ls.length ∧ n = ls.getD sym 0 ∧ n ≠ 0)
    ∧ cs.Pairwise (fun p q => p.2.1 < q.2.1 ∨ (p.2.1 = q.2.1 ∧ p.1 < q.1))
    ∧ (∀ p, cs.head? = some p → p.2.2 = 0)
    ∧ (∀ i p q, cs[i]? = some p → cs[i + 1]? = some q → q.2.2 = (p.2.2 + 1) * 2 ^ (q.2.1 - p.2.1))
    ∧ (kraftSum ls < 4096 → ∃ x, x < 4096 ∧ ∀ p ∈ cs, x / 2 ^ (12 - p.2.1) ≠ p.2.2)

/-- R218: ctload reads the header, then the whole table, and puts a valid one into its slot of the context; an invalid header, and an
invalid table, raise CODE_TABLE_INVALID with the reason. ctinv empties the slot. -/
def Obligations.CodeTableResults : Prop :=
  ∀ (f : CtloadOps) (h : CtinvOps) (s u v : State) (iss : Issue) (g : Group) (c : Context) (hd bs : List Byte) (n m : Nat),
    s.ctx? g.ctx = some c →
    let a := acts s iss g
    let va := (aNow s g f.aa.toNat (lead s iss g)).toNat
    let slots := fun (i : Instr) (k : Nat) (x : Option (List Nat)) =>
      Answers i s iss fun t g' =>
        Written toNone g g' ∧ aside id g' = aside id g ∧ GoOn s iss g g' ∧ OtherGroups iss.group s t ∧ SameMemory s t
          ∧ ∃ y, t.ctx? g.ctx = some y ∧ ∀ j, SMap.find? y.codes j = if j = k then x else SMap.find? c.codes j
    (Runs (.ctload f) s iss g → va % 8 = 0 →
      plainGet a.s a.g iss.strand (acting s iss g) a.nol1 va 8 = (u, .ok hd) → tableHeader (natOfBytes hd) = some (n, m) →
      plainGet u a.g iss.strand (acting s iss g) a.nol1 va (8 + (n + 1) / 2) = (v, .ok bs) →
      (∀ t, parseTable bs = .ok t → slots (.ctload f) f.slot.toNat (some t))
      ∧ ∀ reason, parseTable bs = .error reason → CanTrap iss.strand g (acting s iss g) (fun _ => ⟨0x160, va, reason⟩) →
        Answers (.ctload f) s iss fun _ g' =>
          Written toNone g g' ∧ HaveTrapped s iss g g' fun _ => ⟨0x160, va, reason⟩)
    ∧ (Runs (.ctload f) s iss g → va % 8 = 0 →
      plainGet a.s a.g iss.strand (acting s iss g) a.nol1 va 8 = (u, .ok hd) → tableHeader (natOfBytes hd) = none →
      CanTrap iss.strand g (acting s iss g) (fun _ => ⟨0x160, va, 1⟩) →
        Answers (.ctload f) s iss fun _ g' =>
          Written toNone g g' ∧ HaveTrapped s iss g g' fun _ => ⟨0x160, va, 1⟩)
    ∧ (Runs (.ctinv h) s iss g → slots (.ctinv h) h.slot.toNat none)

/-- R347, R349 to R353: an extent instruction, with nothing of its thread outstanding, works on the records at the home slices after its
core's L1 has been written back and emptied. xlmap.new makes an empty record under the lowest free handle; xlmap.rd finds the page of a
token; xlfork shares every slot; xlfree drops them and zeroes the record; xlfree.accept puts the child's record in its parent's place;
xlseal of a record with no open page changes nothing. R351, R352, R354: xlmap.wr of a token of the open page, or of the one after the last
token, opens its page for writing and writes the template and the record; of the token after a full open page, it seals that page first.
xlseal replaces the open page by a sealed one. xlpfx shares the whole pages with a new handle, and fills a fresh open page of it with the
tokens that remain, where there are some and no request that goes before it at the port and the encode path of its core is still to be
served (R15; when a request arrives is the model's choice, log entry 53). -/
def Obligations.ExtentResults : Prop :=
  (∀ (f : XadOps) (h : XlmapOps) (n : XaOps) (m : XabOps) (s u v w : State) (iss : Issue) (g : Group) (r : KvRec) (x k : Nat),
    (∀ y ∈ g.accs, y.performed = true) →
    let a := acts s iss g
    let s₀ := l1Invalidate (l1WriteBack a.s g.core) g.core
    let arg := fun (r : BitVec 5) => (aNow s g r.toNat (lead s iss g)).toNat
    let done := fun (i : Instr) (ad : Option (BitVec 5)) (z : Nat) (u : State) (names : Context → Context) =>
      Answers i s iss fun t g' =>
        Written (fun c y => match ad with
            | some d => toA s iss g d.toNat (fun _ => BitVec.ofNat 64 z) c y
            | none => False) g g'
          ∧ aside id g' = aside id g ∧ GoOn s iss g g' ∧ OtherGroups iss.group s t ∧ SameMemory u t
          ∧ t.ctx? g.ctx = (u.ctx? g.ctx).map names
    let hold := fun (slots : List (Nat × Nat)) (c : Context) =>
      { c with slotRefs := slots.eraseDups.foldl (fun m p => SMap.modify m (p.1 / 4096) (· + 1)) c.slotRefs }
    let drop := fun (slots : List (Nat × Nat)) (c : Context) =>
      slots.eraseDups.foldl (fun c p => { c with slotRefs := SMap.modify c.slotRefs (p.1 / 4096) (· - 1) }.reap (p.1 / 4096)) c
    (Runs (.xlmapNew f) s iss g → getTemplate s₀ a.g (arg f.aa) none = .ok x → freeHandle s₀ g.who = .ok (k, u) →
      putRec u g.who k (some { len := 0, fmt := x / 2 ^ 264 % 16, dt := x / 2 ^ 128 % 2 ^ 32 / 16 }) = .ok v →
      done (.xlmapNew f) (some f.ad) k v id)
    ∧ (∀ slot, Runs (.xlmapRd h) s iss g → getRec s₀ g.who (arg h.hh) = .ok (r, u) →
      getTemplate u a.g (arg h.aa) (some r) = .ok x → arg h.ab < r.len → pageSlot r.exts (arg h.ab / 64) = some slot →
      engineWrite u g.who (arg h.aa) (bytesOfNat (pageTemplate x r.dt slot) 64) = .ok v →
      done (.xlmapRd h) (some h.ad) (arg h.ab % 64 / 16 * 2 ^ 16) v id)
    ∧ (Runs (.xlfork f) s iss g → getRec s₀ g.who (arg f.aa) = .ok (r, u) → freeHandle u g.who = .ok (k, v) →
      putRec v g.who k (some { r with fork := true }) = .ok w →
      done (.xlfork f) (some f.ad) k w (hold (slotsNamed r.exts)))
    ∧ (Runs (.xlfree n) s iss g → getRec s₀ g.who (arg n.aa) = .ok (r, u) → putRec u g.who (arg n.aa) none = .ok v →
      done (.xlfree n) none 0 v (drop (slotsNamed r.exts)))
    ∧ (∀ old y, Runs (.xlfreeAccept m) s iss g → getRec s₀ g.who (arg m.aa) = .ok (r, u) → arg m.ab ≠ arg m.aa →
      getRec u g.who (arg m.ab) = .ok (old, v) → putRec v g.who (arg m.ab) (some { r with fork := false }) = .ok w →
      putRec w g.who (arg m.aa) none = .ok y → done (.xlfreeAccept m) none 0 y (drop (slotsNamed old.exts)))
    ∧ (Runs (.xlseal n) s iss g → getRec s₀ g.who (arg n.aa) = .ok (r, u) → r.opn = false → done (.xlseal n) none 0 u id))
  ∧ (∀ (h : XlmapOps) (n : XaOps) (s u v w y : State) (iss : Issue) (g : Group) (r r₁ : KvRec) (x : Nat),
    (∀ y ∈ g.accs, y.performed = true) →
    let a := acts s iss g
    let s₀ := l1Invalidate (l1WriteBack a.s g.core) g.core
    let arg := fun (r : BitVec 5) => (aNow s g r.toNat (lead s iss g)).toNat
    let done := fun (i : Instr) (P : Nat → DWord → Prop) (u : State) =>
      Answers i s iss fun t g' =>
        Written P g g' ∧ aside id g' = aside id g ∧ GoOn s iss g g' ∧ OtherGroups iss.group s t ∧ SameMemory u t
          ∧ t.ctx? g.ctx = u.ctx? g.ctx
    (∀ slot, Runs (.xlmapWr h) s iss g → getRec s₀ g.who (arg h.hh) = .ok (r, u) →
      getTemplate u a.g (arg h.aa) (some r) = .ok x → arg h.ab ≤ r.len → 64 * pagesIn r.sealed ≤ arg h.ab →
      (r.opn = true → arg h.ab ≠ 64 * (pagesIn r.sealed + 1)) → openForWrite u g.who r = .ok (r₁, v) →
      pageSlot r₁.exts (arg h.ab / 64) = some slot →
      engineWrite v g.who (arg h.aa) (bytesOfNat (pageTemplate x r₁.dt slot) 64) = .ok w →
      putRec w g.who (arg h.hh) (some { r₁ with len := max r₁.len (arg h.ab + 1) }) = .ok y →
      done (.xlmapWr h) (toA s iss g h.ad.toNat fun _ => BitVec.ofNat 64 (arg h.ab % 64 / 16 * 2 ^ 16)) y)
    ∧ (∀ slot r₂ z, Runs (.xlmapWr h) s iss g → getRec s₀ g.who (arg h.hh) = .ok (r, u) →
      getTemplate u a.g (arg h.aa) (some r) = .ok x → r.opn = true → arg h.ab = 64 * (pagesIn r.sealed + 1) → r.len = arg h.ab →
      sealPage u g.who (arg h.hh) r = .ok (r₁, v) → openForWrite v g.who r₁ = .ok (r₂, w) →
      pageSlot r₂.exts (arg h.ab / 64) = some slot →
      engineWrite w g.who (arg h.aa) (bytesOfNat (pageTemplate x r₂.dt slot) 64) = .ok y →
      putRec y g.who (arg h.hh) (some { r₂ with len := arg h.ab + 1 }) = .ok z →
      done (.xlmapWr h) (toA s iss g h.ad.toNat fun _ => 0#64) z)
    ∧ (Runs (.xlseal n) s iss g → getRec s₀ g.who (arg n.aa) = .ok (r, u) → r.opn = true →
      sealPage u g.who (arg n.aa) r = .ok (r₁, v) → putRec v g.who (arg n.aa) (some r₁) = .ok w → done (.xlseal n) toNone w)
    ∧ (∀ k, Runs (.xlpfx h) s iss g → getRec s₀ g.who (arg h.hh) = .ok (r, u) →
      getTemplate u a.g (arg h.aa) (some r) = .ok x → arg h.ab ≤ r.len → arg h.ab % 64 = 0 →
      (cutExtents r.exts (arg h.ab / 64)).length < 16 →
      freeHandle (kvHold u g.ctx (slotsNamed (cutExtents r.exts (arg h.ab / 64)))) g.who = .ok (k, v) →
      putRec v g.who k (some { r with len := arg h.ab, fork := false, opn := false,
                                      exts := cutExtents r.exts (arg h.ab / 64) }) = .ok w →
      done (.xlpfx h) (toA s iss g h.ad.toNat fun _ => BitVec.ofNat 64 k) w)
    ∧ (∀ k slot p, Runs (.xlpfx h) s iss g → getRec s₀ g.who (arg h.hh) = .ok (r, u) →
      getTemplate u a.g (arg h.aa) (some r) = .ok x → arg h.ab ≤ r.len → arg h.ab % 64 ≠ 0 → portBusy a.s a.g.core a.arrival = false →
      let shared := cutExtents r.exts (arg h.ab / 64)
      shared.length < 16 → freeHandle (kvHold u g.ctx (slotsNamed shared)) g.who = .ok (k, v) →
      pageSlot r.exts (arg h.ab / 64) = some slot → prefixPage v g.who (arg h.aa) x r (arg h.ab % 64) slot = .ok (p, w) →
      putRec w g.who k (some { r with len := arg h.ab, fork := false, opn := true, exts := shared ++ [⟨3, 1, p⟩] }) = .ok y →
      done (.xlpfx h) (toA s iss g h.ad.toNat fun _ => BitVec.ofNat 64 k) y))

/-! ### Views and segments -/

/-- R281, R282: vwsync of a registered view is accepted in class 4 and waits for the blocks of the view whose refreshes have not been
published; with none it is done at once. vwstat reads the group's view status and clears it.
R238, R241: the view engine of a cluster takes its oldest pending block; it reads the master entry and decodes the master tile, laid out
for the view; it reads the entry again, and begins again where it has changed, or else clears the pending bit, unless the view has been
dropped; then it encodes the tile
beside the entry's present place. -/
def Obligations.ViewResults : Prop :=
  (∀ (f : XaOps) (h : XdOps) (s : State) (iss : Issue) (g : Group),
    let x := (aNow s g f.aa.toNat (lead s iss g)).toNat
    let blocks := syncBlocks s g.ctx x
    (Runs (.vwsync f) s iss g → x < 2 ^ 9 → (viewOf s g.ctx x).isSome = true → g.count 4 < 63 →
      (∀ p ∈ s.groups, ∀ o ∈ p.2.ops, o.synced = false ∧ o.failed = none) →
      (blocks ≠ [] → Accepts (.vwsync f) s iss g 4 (.vwsync x blocks))
      ∧ (blocks = [] → Answers (.vwsync f) s iss fun t g' =>
          Written toNone g g' ∧ GoOn s iss g g' ∧ OtherGroups iss.group s t ∧ SameMemory s t
            ∧ ∀ o, g'.op? g.nextId = some o → o.ended = true ∨ o ∈ g.ops))
    ∧ (Runs (.vwstat h) s iss g →
        Answers (.vwstat h) s iss fun t g' =>
          Written (toA s iss g h.ad.toNat fun _ => g.vstat.zeroExtend 64) g g' ∧ g'.vstat = 0#32
            ∧ { aside id g' with vstat := g.vstat } = aside id g ∧ OnlyGroup iss.group s t ∧ GoOn s iss g g'))
  ∧ (∀ (s : State) (cluster : Nat) (b : ViewBlock) (vw : View), SMap.find? s.refreshing cluster = none →
    s.refresh.find? (fun b => b.stack = cluster) = some b → viewOf s b.ctx b.view = some vw →
    ∃ t, exec (.viewRefresh cluster) s = .next t ∧ SameMemory s t ∧ t.refresh = s.refresh
      ∧ SMap.find? t.refreshing cluster = some { block := b, view := vw, stamp := s.stamp,
                                                  cyc := (s.core (viewCore s cluster)).cyc.toNat })
  ∧ ∀ (s : State) (cluster : Nat) (r : Refresh), SMap.find? s.refreshing cluster = some r → r.faultIds = [] → r.cause = none →
    refreshWaits s cluster r = false →
    let b := r.block
    let vw := r.view
    let w := b.who s
    let mc := masterCoord vw b.tile
    let mp := plainPlace vw.master mc
    (∀ bs u v t e, r.values = none → r.entry = none → tileRead s w vw.master mp.entry 16 = .ok (bs, u) →
      decodeTile (setRefresh u cluster fun _ => { r with first := some (natOfBytes bs) }) w vw.master mc mp = .ok (t, e, v) →
      (SMap.find? v.refreshing cluster).isSome = true →
      ∃ z, exec (.viewRefresh cluster) s = .next z ∧ SameMemory v z
        ∧ SMap.find? z.refreshing cluster = some { r with
            first := some (natOfBytes bs)
            values := some ((List.range 256).map fun n =>
              BitVec.ofNat 32 (t.value false (if vw.transpose then 16 * (n % 16) + n / 16 else n)).bits) })
    ∧ (∀ vals bs u, r.values = some vals → r.cleared = false → tileRead s w vw.master mp.entry 16 = .ok (bs, u) →
      ∃ z, exec (.viewRefresh cluster) s = .next z ∧ SameMemory u z
        ∧ (r.first = some (natOfBytes bs) →
            z.refresh = (if r.dropped then u.refresh else u.refresh.filter fun c => decide (c ≠ b))
              ∧ (SMap.find? u.refreshing cluster = some r → SMap.find? z.refreshing cluster = some { r with cleared := true }))
        ∧ (r.first ≠ some (natOfBytes bs) → z.refresh = u.refresh
              ∧ (SMap.find? u.refreshing cluster = some r →
                  SMap.find? z.refreshing cluster = some { r with first := none, values := none })))
    ∧ ∀ vals old u y, r.values = some vals → r.cleared = true →
      let pl := viewPlace vw.desc vw b.stack b.tile
      let units := rawUnits vw.desc.fmt
      let place := if (entryOfNat (natOfBytes old)).offset = units * (2 * b.tile + 1) then units * (2 * b.tile) else units * (2 * b.tile + 1)
      tileRead s w vw.desc pl.entry 16 = .ok (old, u) →
      encodeTile u w vw.desc (packCoord (tileCoord vw.desc b.tile)) vals vw.slot (some place) (r.gen.getD 0) true pl = .ok y →
      (∀ p ∈ y.groups, ∀ o ∈ p.2.ops, o.failed = none) →
      ∃ z, exec (.viewRefresh cluster) s = .next z ∧ SameMemory y z ∧ SMap.find? z.refreshing cluster = none

/-- R226, R230, R231, R278 to R280: segmk makes a zeroed RESIDENT segment, attached, at the banks it is given, and answers its base;
segatt attaches one that is resident on the pair and waits for one that moves; segdet detaches; segdrop frees one that nothing attaches
and marks one that something does; segseal of a live segment goes on. R229, R233: an eviction starts where banks are wanted and none is in
progress, on the segment that the order gives; when its bytes have reached the backing area its banks are zeroed and it is EVICTED. A
restore or a move ends with its bytes in the target banks and the segment RESIDENT there; the segatt that pulled it then attaches it,
answers its base and is done. -/
def Obligations.SegmentResults : Prop :=
  (∀ (f : SegmkOps) (h : SegattOps) (n : XaOps) (s : State) (iss : Issue) (g : Group) (k : Nat) (x : Segment),
    let arg := fun (r : BitVec 5) => (aNow s g r.toNat (lead s iss g)).toNat
    let becomes := fun (i : Instr) (P : Nat → DWord → Prop) (attach : List Nat) (y : Option Segment) (more : State → Prop) =>
      Answers i s iss fun t g' =>
        Written P g g' ∧ g'.attach = attach ∧ { aside id g' with attach := g.attach } = aside id g ∧ GoOn s iss g g'
          ∧ OtherGroups iss.group s t ∧ t.seg? g.ctx k = y ∧ (∀ j, j ≠ k → t.seg? g.ctx j = s.seg? g.ctx j) ∧ more t
    let still := fun (t : State) => SameMemory s t
    let quiet := ∀ p ∈ s.groups, ∀ a ∈ p.2.accs, a.inBanks x.core x.first x.banks = false
    let zeroed := fun (first banks : Nat) (core : Nat) (t : State) =>
      (∀ x, readByte t x = readByte s x)
        ∧ ∀ c b, lsRead t c b 1 = if c = core ∧ first ≤ b / 65536 ∧ b / 65536 < first + banks then [0#8] else lsRead s c b 1
    (∀ b, Runs (.segmk f) s iss g → segmkRefused s g (arg f.aa) (arg f.ab) f.cls.toNat f.n.toNat = none →
      scrRun s (fun _ => false) g.core f.n.toNat = some b → freePlace s g.ctx = some k → k ∉ g.attach → (s.ctx? g.ctx).isSome = true →
      becomes (.segmk f) (toA s iss g f.ad.toNat fun _ => BitVec.ofNat 64 (coreWindow + b * 65536)) (g.attach ++ [k])
        (some { backing := arg f.ab, name := arg f.aa, tree := treeNumber s g, attachments := 1, core := g.core, first := b,
                banks := f.n.toNat, cls := f.cls.toNat, state := 0 })
        (zeroed b f.n.toNat g.core))
    ∧ (∀ name, segByName s g.ctx name = some (k, x) → s.seg? g.ctx k = some x → x.state ≠ 4 → x.dropAfter = false →
        (arg h.aa = name → Runs (.segatt h) s iss g →
          ((x.state = 1 ∨ x.state = 3) → Waits (.segatt h) s iss g (.segment name))
          ∧ (x.state = 0 → x.core / 2 = g.core / 2 → k ∉ g.attach →
              becomes (.segatt h)
                (toA s iss g h.ad.toNat fun _ =>
                  BitVec.ofNat 64 ((if x.core = g.core then coreWindow else peerWindow) + x.first * 65536))
                (g.attach ++ [k]) (some { x with attachments := x.attachments + 1 })
                fun t => h.acq = false → still t))
        ∧ (arg n.aa = name → x.state ≠ 1 → x.state ≠ 3 →
            (Runs (.segdet n) s iss g → k ∈ g.attach → g.bankAccesses x = [] → g.windowCopies = [] →
              becomes (.segdet n) toNone (g.attach.filter (· != k))
                (some { x with attachments := x.attachments - 1, stamp := s.stamp }) still)
            ∧ (Runs (.segdrop n) s iss g →
                (x.attachments ≠ 0 → becomes (.segdrop n) toNone g.attach (some { x with state := 4 }) still)
                ∧ (x.attachments = 0 → x.state ≠ 2 → x.core ≠ noCore →
                    becomes (.segdrop n) toNone g.attach none (zeroed x.first x.banks x.core)))
            ∧ (Runs (.segseal n) s iss g →
                (g.bankAccesses x ≠ [] → x.state = 0 → Waits (.segseal n) s iss g (.accesses (g.bankAccesses x)))
                ∧ (quiet → WritesOnly (.segseal n) s iss g toNone))))
    ∧ (Runs (.segdet n) s iss g → segByName s g.ctx (arg n.aa) = none → WritesOnly (.segdet n) s iss g toNone))
  ∧ (∀ (s : State) (c k core : Nat) (x : Segment),
    (evictionVictim s core = some (c, k, x) → s.seg? c k = some x → banksWanted s core = true → ctxRuns s c = true →
      (∀ p ∈ s.ctxs, ∀ q ∈ p.2.segments, q.2.core = core → q.2.state ≠ 1) →
      ∃ t, exec (.segmentEvict core) s = .next t ∧ t.seg? c k = some { x with state := 1 } ∧ SameMemory s t)
    ∧ (s.seg? c k = some x → x.faultIds = [] → x.dropAfter = false → ctxRuns s c = true →
      (∀ p ∈ s.groups, ∀ a ∈ p.2.accs, a.inBanks x.core x.first x.banks = false) →
      (∀ u, x.state = 1 → areaWrite s c x.backing (lsRead s x.core (x.first * 65536) (x.banks * 65536)) = .ok u →
        ∃ t, exec (.segmentEvictionComplete c k) s = .next t
          ∧ t.seg? c k = some { x with state := 2, core := noCore, mover := none }
          ∧ (∀ b, x.first ≤ b / 65536 → b / 65536 < x.first + x.banks → lsRead t x.core b 1 = [0#8])
          ∧ ∀ y, readByte t y = readByte u y)
      ∧ (∀ bs, x.state = 3 → x.mover = none →
        (if x.core = noCore then igierRead s c x.backing (x.banks * 65536) = .ok bs
         else bs = lsRead s x.core (x.first * 65536) (x.banks * 65536)) →
        ∃ t, exec (.segmentRestoreComplete c k) s = .next t
          ∧ t.seg? c k = some { x with state := 0, core := x.target, first := x.targetFirst }
          ∧ (∀ i, i < x.banks * 65536 → lsRead t x.target (x.targetFirst * 65536 + i) 1 = [bs.getD i 0#8])
          ∧ ∀ y, readByte t y = readByte s y)
      ∧ ∀ bs gk g e f, x.state = 3 → x.core = noCore → x.mover = some gk → s.group? gk = some g → g.status = .resident →
        igierRead s c x.backing (x.banks * 65536) = .ok bs →
        let u := (landSegment s x bs).setSeg c k fun y =>
          { y with state := 0, core := y.target, first := y.targetFirst, faultIds := [], mover := none }
        (g.frA.entries.findSome? fun e => (pullOf u g x.name e).map fun f => (e, f)) = some (e, f) → k ∉ g.attach →
        ∃ t h, exec (.segmentRestoreComplete c k) s = .next t ∧ t.group? gk = some h ∧ h.attach = g.attach ++ [k]
          ∧ Written (fun c y => f.ad ≠ 0#5 ∧ ∃ l ∈ e.acting g .addr, c = aCode f.ad.toNat l
              ∧ y = BitVec.ofNat 64 ((if x.target = g.core then coreWindow else peerWindow) + x.targetFirst * 65536)) g h
          ∧ (∀ l ∈ e.members, l < 64 → Stands h .addr l (e.pc + 4#56))
          ∧ t.seg? c k = some { x with state := 0, core := x.target, first := x.targetFirst, mover := none,
                                       attachments := x.attachments + 1 }))

/-! ### Spawns, admission and the clock -/

/-- R328, R329, R370: a spawn whose block and kernel record pass their checks writes its core's L1 back, joins the queue of its cluster
and is accepted in class 5. The dispatcher then accepts the next spawn of the queue: its groups take the next numbers of the tree,
PENDING, with their entry data, the rise counter counts them, and the operation ends; a spawn for which the counter has no room below 2^32
waits. -/
def Obligations.SpawnResults : Prop :=
  (∀ (f : XaOps) (s u : State) (iss : Issue) (g : Group) (bs kb : List Byte) (k : Kernel),
    let a := acts s iss g
    let x := natOfBytes bs
    let cl := clusterOf g.core
    Runs (.spawn f) s iss g → (∀ y ∈ g.accs, y.performed = true) →
    localBytes a.s a.g (aNow s g f.aa.toNat (lead s iss g)).toNat 64 64 = .ok bs → spawnBreaches x = [] →
    x % 2 ^ 64 % 128 = 0 → engineRead a.s g.who (x % 2 ^ 64) 128 = .ok (kb, u) → parseKernel (x % 2 ^ 64) kb = .ok k →
    g.depth < 32 → g.count 5 < 63 → (SMap.get [] u.spawnQ cl).length < 256 →
    (∃ c ∈ hintCores u (ctxOwner s g.ctx).1 g.core (x / 2 ^ 85 % 8) (x.testBit 88), teamFits u k (largestTeam x) c (x.testBit 88) = true) →
    Answers (.spawn f) s iss fun t g' =>
      NewOp g g' 5 (.spawn x) ∧ Written toNone g g' ∧ GoOn s iss g g' ∧ OtherGroups iss.group s t
        ∧ (∀ p, readByte t p = readByte (l1WriteBack u g.core) p)
        ∧ SMap.get [] t.spawnQ cl = SMap.get [] u.spawnQ cl ++ [{
            group := iss.group, op := g.nextId, ctx := g.ctx, tree := g.tree, part := (ctxOwner s g.ctx).1, core := g.core, gid := g.gid,
            depth := g.depth + 1, count := x / 2 ^ 64 % 2 ^ 16, team := x / 2 ^ 80 % 2 ^ 5, pair := x.testBit 88,
            hint := x / 2 ^ 85 % 8, kernel := k, args := bs.drop 24 }])
  ∧ ∀ (s : State) (gk op : Nat) (g : Group) (e : SpawnEntry) (tr : Tree), s.group? gk = some g →
    nextSpawn s (clusterOf g.core) = some e → e.group = gk → e.op = op → SMap.find? s.trees e.tree = some tr → 0 < e.team →
    (∀ p ∈ s.groups, ∀ o ∈ p.2.ops, o.failed = none) →
    (2 ^ 32 ≤ tr.rise + e.count → exec (.spawnAccept gk op) s = .next s)
    ∧ (tr.rise + e.count < 2 ^ 32 → ∃ t, exec (.spawnAccept gk op) s = .next t
      ∧ SMap.find? t.trees e.tree = some { tr with nextGid := tr.nextGid + e.count, rise := tr.rise + e.count }
      ∧ (∀ i, i < e.count → ∃ p ∈ t.groups, p.2.status = .pending ∧ p.2.gid = tr.nextGid + i ∧ p.2.tree = e.tree ∧ p.2.ctx = e.ctx
          ∧ p.2.kernel = e.kernel ∧ p.2.depth = e.depth ∧ p.2.firstGid = tr.nextGid ∧ p.2.groupCount = e.count
          ∧ p.2.spawner = e.gid ∧ p.2.args = e.args ∧ p.2.vAlloc = e.kernel.regs ∧ p.2.width = e.kernel.width)
      ∧ ∀ g' o, t.group? gk = some g' → g'.op? op = some o → o.ended = true)

/-- R30 to R34, R183, R326, R331, R432: the waiting team that stands first at the core R432 gives (which teams and candidates the model
ranks: log entries 24 and 46), and fits it, enters: its groups are RESIDENT with fresh threads at their entry points. A parked team whose
waits have ended enters again where it was, with the registers of its images. A DRAINING group with nothing outstanding retires and its
tree counts one less. R35, R113, R114, R137: the team that a core parks next leaves RESIDENT with an image slot for each group; the only
register waiter of a core, whose chunks are free, is granted its request. -/
def Obligations.GroupsEnterAndLeave : Prop :=
  (∀ (s : State) (gk core : Nat) (g : Group), s.group? gk = some g →
    (∀ (w : Waiter) (seats : List (Nat × Nat)) (u : State), g.status = .pending → waiterOf s gk = some w →
      w.target s = some core → isFirst s w core = true →
      planAt s w core = some (seats, u) → (∀ p ∈ w.gs, p.2.kernel.args = 0 ∧ u.group? p.1 = some p.2) →
      (w.gs.map (·.1)).Nodup →
      ∃ t, exec (.groupAdmit gk core) s = .next t ∧ ∀ p ∈ w.gs, ∃ h, t.group? p.1 = some h
          ∧ h.status = .resident ∧ (p.1, h.core) ∈ seats ∧ h.threads.length = p.2.width
          ∧ h.gid = p.2.gid ∧ h.regs = p.2.regs
          ∧ ∀ l, l < p.2.width → Stands h .comp l (BitVec.ofNat 56 p.2.kernel.centry)
              ∧ Stands h .addr l (BitVec.ofNat 56 p.2.kernel.aentry))
    ∧ (∀ (w : Waiter) (cand : Nat) (plan : List (Nat × Nat) × State) (images : List (Nat × List Byte)), g.status = .parked →
      waiterOf s gk = some w → w.target s = some cand → isFirst s w cand = true → planAt s w cand = some plan →
      readImages s w.gs = .ok images → (∀ p ∈ w.gs, p.2.parkFaults = [] ∧ p.2.owed = [] ∧ plan.2.group? p.1 = some p.2) →
      (w.gs.map (·.1)).Nodup →
      ∃ t, exec (.groupReadmit gk) s = .next t ∧ ∀ p ∈ w.gs, ∃ h bs, t.group? p.1 = some h ∧ (p.1, bs) ∈ images
        ∧ h.status = .resident ∧ h.core = p.2.core ∧ h.spillSlot = none
        ∧ ∀ i l, i < 128 → l < 64 → h.arch (vCode i l) = (p.2.loadImage bs).arch (vCode i l))
    ∧ (g.mayRetire = true → ctxAway s g.ctx = false → ∀ tr, SMap.find? s.trees g.tree = some tr →
      ∃ t, exec (.groupRetire gk) s = .next t ∧ t.group? gk = none ∧ OtherGroups gk s t
        ∧ SMap.find? t.trees g.tree = some { tr with rise := tr.rise - 1 }))
  ∧ ((∀ (s : State) (gk : Nat) (g : Group), s.group? gk = some g → g.status = .resident → ctxRuns s g.ctx = true →
    nextPark s g.core = some g.team →
    let gs := s.groups.filter fun p => p.2.team = g.team && p.2.status = .resident
    (∀ p ∈ gs, p.2.ctx = g.ctx ∧ p.2.slow = []) → (gs.map (·.1)).Nodup → gs.length ≤ (spillSlots s g.ctx gs.length).length →
    (∀ n ∈ spillSlots s g.ctx gs.length, ∀ i < gs.length,
      let u := ((gs.zip (spillSlots s g.ctx gs.length)).take i).foldl (fun s p => parkGroup s p.1.1 p.2) s
      areaCheck u g.ctx (spillSlotVa u g.ctx n) 65536 = none) →
    ∃ t, exec (.groupPark gk) s = .next t ∧ ∀ p ∈ gs, ∃ h, t.group? p.1 = some h ∧ h.status = .parked
      ∧ (∃ n ∈ spillSlots s g.ctx gs.length, h.spillSlot = some n) ∧ h.winC = [] ∧ h.winA = [] ∧ ∀ c, h.arch c = p.2.arch c)
  ∧ ∀ (s : State) (core gk k stamp : Nat) (g : Group) (e : Entry),
    (holdersOn s core).filter (fun p => p.2.requests != []) = [(gk, g)] → s.group? gk = some g →
    e ∈ g.frC.entries → e.block = .grow k stamp false → g.requests = [stamp] →
    let v := g.vAlloc + 8 * k
    v ≤ 128 → chunksFor v g.width g.sAlloc ≤ regCapacity (s.core g.core) →
    chunksFor v g.width g.sAlloc - g.chunks ≤ freeChunks s g.core →
    ∃ t h, exec (.regGrant core) s = .next t ∧ t.group? gk = some h ∧ h.vAlloc = v
      ∧ ∀ l ∈ e.members, l < 64 → Stands h .comp l (e.pc + 4#56))

/-- R23, R25, R27, R28, R34, R35, R37, R135, R372: a cycle of a core advances its clock by one, closes the entries that wait for operands or
queues, and ages the ready entries of its groups but for what has just issued. A sleep whose count is out goes on; past the turn timer the
next issue slot goes to the group that R28 gives; the oldest spilled entry takes the place of the one of lowest priority; a thread that
has been deadlocked for 2^20 cycles takes STRAND_DEADLOCK; the limits of parking and admission mark their groups. -/
def Obligations.ClockResults : Prop :=
  ∀ (s : State) (gk core id : Nat) (g : Group) (st : Strand), s.group? gk = some g →
    (∃ t, exec (.coreCycle core) s = .next t ∧ (t.core core).cyc = (s.core core).cyc + 1#64 ∧ SameMemory s t
      ∧ (g.core = core → g.status = .resident → (s.ctx? g.ctx).map (·.status) = some .running →
          let z := closeBoth s g
          ∀ e ∈ g.frC.hw,
            let b := if e.block.before then (nextBlock s g .comp e).getD e.block else e.block
            ∃ h, t.group? gk = some h ∧ ∃ e' ∈ h.frC.hw, e'.id = e.id ∧ e'.pc = e.pc ∧ e'.members = e.members
              ∧ e'.age = (if (g.frC.beats = 0 ∨ e.id ∉ g.frC.held) ∧ entryReady s z .comp { e with block := b } = true
                  then e.age + 1 else e.age)
              ∧ (e.block.before = true → e'.block = b) ∧ ∀ n, e.block = .sleep n → e'.block = .sleep (n - 1)))
    ∧ (∀ e, g.entry? st id = some e → e.block = .sleep 0 →
      ∃ t h, exec (.sleepExpiry gk st id) s = .next t ∧ t.group? gk = some h ∧ Written toNone g h
        ∧ ∀ l ∈ e.members, l < 64 → Stands h st l (e.pc + 4#56))
    ∧ (∀ e ∈ candidates s g st, 2 ^ (8 + g.kernel.turn) < e.age → ∀ k, nextIssuer s g.core st = some k →
      exec (.turnTimerExpiry gk st) s = .next { s with agenda := .issue k st :: s.agenda })
    ∧ (∀ h rest e, (g.frontier st).spill = h :: rest → lowestEntry g st (g.frontier st).hw = some e → g.status = .resident →
      2 ^ (8 + g.kernel.turn) ≤ (g.frontier st).turn →
      ∃ t g', exec (.frontierSpillExchange gk st) s = .next t ∧ t.group? gk = some g'
        ∧ g'.frontier st = { g.frontier st with hw := (g.frontier st).hw.filter (fun x => x.id != e.id) ++ [h],
                                                 spill := rest ++ [e], turn := 0 })
    ∧ (∀ l c a e, g.deadlocked l = some (c, a) → g.entryOf .comp l = some e → (g.thread l).deadlock = 2 ^ 20 →
      CanTrap .comp g [l] (fun _ => ⟨0x061, c + 4 * a, 0⟩) →
      ∃ t h, exec (.deadlockCount gk l) s = .next t ∧ t.group? gk = some h
        ∧ (h.thread l).comp = trapped (g.thread l).comp ⟨0x061, c + 4 * a, 0⟩ e.seqPc ∧ (h.thread l).deadlock = 0)
    ∧ (∀ x, s.ctx? g.ctx = some x →
      ∃ t, exec (.swapThreshold gk) s = .next t
        ∧ t.group? gk = some { g with idleDue := decide (2 ^ x.swap ≤ g.idle), residedDue := decide (2 ^ x.swap ≤ g.resided) })
    ∧ ∃ t, exec (.admissionWaitLimit gk) s = .next t
      ∧ t.group? gk = some { g with waitDue := decide (2 ^ 20 ≤ g.waited) && (g.status = .pending || g.status = .parked) }

/-- R165: the deadlock count of R23 does not advance in a cycle in which either strand of the thread is in its handler. -/
def Obligations.HandlersRestTheDeadlockCount : Prop :=
  ∀ (s : State) (core gk l : Nat) (g : Group), s.group? gk = some g →
    ((g.thread l).comp.th = true ∨ (g.thread l).addr.th = true) →
    ∃ t h, exec (.coreCycle core) s = .next t ∧ t.group? gk = some h ∧ (h.thread l).deadlock = (g.thread l).deadlock

/-! ### Packets and queues -/

/-- R330 to R335, R371: Igier reads the next packet of a queue that may begin one and does its work: a NOP ends at once; a WAIT ends when
its semaphore is high enough or its event is set, and waits otherwise; a SIGNAL adds to its semaphore, modulo 2^64, or sets its event,
after its release, if it makes one, has written every L1 of its context back, which is the model's reading of what that release covers
(log entry 31); a COPY takes its blocks in order; a VIEW_REG does the work of its record. R232, R325, R334: a LAUNCH whose kernel record
is valid, and whose named segments are all in the directory, starts a tree with a seed of one group, PENDING until its segments are in
place; then the launch runs. -/
def Obligations.PacketsBegin : Prop :=
  (∀ (s : State) (q c : Nat) (b bs : List Byte),
    let h := s.queue q
    let x := natOfBytes bs
    let u := s.setQueue q fun h => { h with header := x % 2 ^ 64 }
    let field := fun (lo n : Nat) => x / 2 ^ lo % 2 ^ n
    let event := field 64 16
    h.bound = some c → mayBegin s q c = true → igierRead s c (h.qcb + 32) 1 = .ok b → natOfBytes b % 2 = 0 →
    igierRead s c ((h.ring + 64 * (h.ridx % 2 ^ h.log)) % 2 ^ 64) 64 = .ok bs → packetBreaches s (ctxOwner s c).1 x = [] →
    let answers := fun (i : Instr) (st : QStage) => ∃ t, exec i s = .next t ∧ (t.queue q).stage = st
    (field 0 8 = 0 → answers (.nopPacket q) .ended)
    ∧ (field 0 8 = 2 → field 128 8 = 0 → ∀ pa, devicePlace u c (field 64 64) 8 4 = .ok pa →
        answers (.wait q) (if field 192 64 ≤ readNat s pa 8 then .ended else .semaphore (field 64 64) (field 192 64)))
    ∧ (field 0 8 = 2 → field 128 8 = 1 → answers (.wait q) (if eventState s c event then .ended else .event event))
    ∧ (field 0 8 = 3 → field 128 8 = 0 → ∀ pa, devicePlace u c (field 64 64) 8 3 = .ok pa → normPA s pa = pa → pa % 8 = 0 →
        let r := packetRelease u c x
        ∃ t, exec (.signal q) s = .next t ∧ (t.queue q).stage = .ended ∧ readNat t pa 8 = (readNat r pa 8 + field 192 64) % 2 ^ 64
          ∧ (∀ y, normPA s y = y → y / 8 ≠ pa / 8 → readByte t y = readByte r y)
          ∧ (field 11 3 = 0 → r = u)
          ∧ (field 11 3 ≠ 0 → ∀ k, (t.core k).ctx = some c → ∀ l ∈ (t.core k).l1, l.2.dirty = 0#128))
    ∧ (field 0 8 = 3 → field 128 8 = 1 →
        ∃ t, exec (.signal q) s = .next t ∧ (t.queue q).stage = .ended ∧ eventState t c event = true)
    ∧ (field 0 8 = 4 → ∀ pa cb ops, devicePlace u c (field 64 64) 64 4 = .ok pa →
        igierRead u c (field 64 64) (64 * field 128 6) = .ok cb →
        packetOps (viewCore u (field 136 4)) (u.core (viewCore u (field 136 4))).cyc.toNat u.stamp ((List.range (field 128 6)).map fun i =>
          (field 64 64 + 64 * i, natOfBytes ((cb.drop (64 * i)).take 64))) = .ok ops →
        answers (.copy q) (.copying ops))
    ∧ (field 0 8 = 5 → ∀ v, viewPacket u c (field 64 64) = .ok v →
        ∃ t, exec (.viewReg q) s = .next t ∧ (t.queue q).stage = .ended ∧ t.ctxs = v.ctxs ∧ t.refresh = v.refresh
          ∧ SameMemory v t))
  ∧ ((∀ (s : State) (q c : Nat) (b bs kb : List Byte) (k : Kernel) (y : Context),
    let h := s.queue q
    let x := natOfBytes bs
    let u := s.setQueue q fun h => { h with header := x % 2 ^ 64 }
    let field := fun (lo n : Nat) => x / 2 ^ lo % 2 ^ n
    h.bound = some c → mayBegin s q c = true → igierRead s c (h.qcb + 32) 1 = .ok b → natOfBytes b % 2 = 0 →
    igierRead s c ((h.ring + 64 * (h.ridx % 2 ^ h.log)) % 2 ^ 64) 64 = .ok bs → packetBreaches s (ctxOwner s c).1 x = [] →
    field 0 8 = 1 → s.ctx? c = some y → field 64 64 % 128 = 0 → igierRead u c (field 64 64) 128 = .ok kb →
    parseKernel (field 64 64) kb = .ok k → field 128 64 = 0 → (∀ n ∈ k.starters, namedSegments s c [n] ≠ []) →
    ∃ t tree tr p, exec (.launch q) s = .next t ∧ (t.queue q).stage = .placing tree ∧ SMap.find? t.trees tree = some tr
      ∧ tr.ctx = c ∧ tr.number = y.launches ∧ tr.rise = 1 ∧ tr.nextGid = 1 ∧ tr.admitted = 0 ∧ tr.queue = q
      ∧ (t.ctx? c).map (·.launches) = some ((y.launches + 1) % 2 ^ 32)
      ∧ p ∈ t.groups ∧ p.2.tree = tree ∧ p.2.gid = 0 ∧ p.2.status = .pending ∧ p.2.kernel = k ∧ p.2.depth = 0
      ∧ p.2.spawner = 0xFFFFFFFF ∧ p.2.groupCount = 1 ∧ p.2.args = (bytesOfNat x 64).drop 24)
  ∧ ∀ (s u : State) (q tree k core : Nat) (g : Group) (tm : Team), (s.queue q).stage = .placing tree →
    s.groups.find? (fun p => p.2.tree = tree) = some (k, g) → s.team? g.team = some tm → ctxRuns s g.ctx = true →
    tm.core = some core → placeNamed s g.ctx core tm.names = ([], u) →
    ∃ t, exec (.seedStart q) s = .next t ∧ (t.queue q).stage = .running tree ∧ (t.team? g.team).map (·.placing) = some false)

/-- R330, R333, R336, R338, R382: a doorbell takes WIDX from the QCB; a packet whose work has ended is completed: RIDX counts it, an event
record and an interrupt follow where it asks for them; a waiting queue reads its semaphore again; the device reads CONS of a ring. -/
def Obligations.QueuesAdvance : Prop :=
  ∀ (s : State) (q c : Nat),
    let h := s.queue q
    h.bound = some c →
    (∀ bs, q < 32 → s.up = true → h.unbinding = false → h.lost = false → h.qcbFault = false → h.halted = false →
      SMap.get 0 s.queuePart q = h.part → igierRead s c h.qcb 64 = .ok bs → natOfBytes bs / 2 ^ 256 % 4 = 0 →
      let w := natOfBytes bs / 2 ^ 128 % 2 ^ 64
      h.ridx ≤ w → w ≤ h.ridx + 2 ^ h.log →
      ∃ t, exec (.doorbell (32 * h.part + q)) s = .next t ∧ t.queue q = { h with widx := w, bell := false } ∧ SameMemory s t)
    ∧ (∀ x pa, h.stage = .ended → ctxRuns s c = true → h.faultIds = [] → reachQcb s c (h.qcb + 24) = .ok pa → s.ctx? c = some x →
      x.rings.length = 4 → (x.ring 0).held = [] → (x.ring 0).summary = false → (x.ring 0).prod < (x.ring 0).cons + 2 ^ (x.ring 0).log →
      ∃ t y, exec (.packetComplete q) s = .next t ∧ t.queue q = { h with ridx := h.ridx + 1, stage := .idle, header := 0 }
        ∧ t.ctx? c = some y ∧ (y.ring 0).prod = (x.ring 0).prod + (if h.header.testBit 15 then 1 else 0)
        ∧ t.msix = if h.header.testBit 14 then s.msix ++ [(h.part, h.vec)] else s.msix)
    ∧ (∀ va n pa, h.stage = .semaphore va n → ctxRuns s c = true → h.faultIds = [] → devicePlace s c va 8 4 = .ok pa →
      ∃ t, exec (.semaphorePoll q) s = .next t ∧ SameMemory s t
        ∧ (t.queue q).stage = if n ≤ readNat s pa 8 then .ended else .semaphore va n)
    ∧ ∀ r x, r < 4 → s.ctx? c = some x → x.rings.length = 4 → (x.ring r).held = [] → (x.ring r).dropped = 0 → (x.ring r).summary = false →
      let v := readNat s (hostPA (x.ringBlock + 32 * r + 24)) 8
      ∃ t, exec (.ringConsPoll c r) s = .next t ∧ SameMemory s t
        ∧ (t.ctx? c).map (fun y => y.ring r) = some { x.ring r with
            cons := if (x.ring r).cons ≤ v ∧ v ≤ (x.ring r).prod then v else (x.ring r).cons }

/-! ### The host's commands -/

/-- R169, R176, R183, R380, R381, R383, R384: CTXCMD creates a context from a valid record, destroys one, and starts its pre-emption and
its resume; a save that succeeds leaves the context out, and a reload, once the cores it names are free and its area can be read, leaves
it running. -/
def Obligations.ContextCommands : Prop :=
  ∀ (s : State) (part c : Nat) (v : BitVec 60) (x : Context), s.up = true → SMap.get 0 s.ctxcmd part % 4 ≠ 1 →
    (v.toNat < 2 ^ 51 → v.toNat % 128 = 0 → makeContext s part (readNat s (hostPA v.toNat) 128) = .ok (c, x) →
      ∃ t, exec (.ctxcmdCreate part v) s = .next t ∧ t.ctx? c = some x ∧ SMap.get 0 t.ctxcmd part = 0 ∧ SameMemory s t)
    ∧ (s.ctx? c = some x → c = part * 64 + v.toNat → v.toNat < 64 →
      (∃ t, exec (.ctxcmdDestroy part v) s = .next t ∧ t.ctx? c = none ∧ SMap.get 0 t.ctxcmd part = 0
        ∧ (∀ p ∈ t.groups, p.2.ctx ≠ c) ∧ (∀ k, (t.core k).ctx ≠ some c) ∧ ∀ e ∈ t.events, e.ctx ≠ c)
      ∧ (x.status = .running →
        ∃ t, exec (.ctxcmdPreempt part v) s = .next t ∧ t.ctx? c = some { x with status := .preempting, command := true }
          ∧ SMap.get 0 t.ctxcmd part = 1)
      ∧ (x.status = .out →
        ∃ t, exec (.ctxcmdResume part v) s = .next t
          ∧ t.ctx? c = some { x with status := .resuming, command := true, resumeFaults := [] } ∧ SMap.get 0 t.ctxcmd part = 1))
    ∧ (∀ u, s.ctx? c = some x → x.status = .preempting →
      let w := settleWork s c
      ctxRuns w c = true → saveContext w c = .ok u →
      ∃ t, exec (.preemptSave c) s = .next t ∧ (t.ctx? c).map (·.status) = (u.ctx? c).map fun _ => CtxStatus.out)
    ∧ (∀ area, s.ctx? c = some x → x.status = .resuming → x.resumeFaults = [] → x.faults = [] →
      (∀ m ∈ x.savedModes, coreOpen s c m.1 = true) → igierRead s c x.saveBase x.saveLen = .ok area →
      (∀ p ∈ s.groups, p.2.ctx = c → p.2.argFaults = [] ∧ p.2.parkFaults = []
        ∧ (∀ o ∈ p.2.ops, o.faultIds = []) ∧ ∀ e ∈ p.2.frC.entries ++ p.2.frA.entries, ∀ who held, e.block ≠ .faults who held) →
      (∀ p ∈ x.segments, p.2.faultIds = []) → (∀ q ∈ s.queues, q.2.bound ≠ some c) → s.refreshing = [] →
      ∃ t, exec (.contextResume c) s = .next t ∧ (t.ctx? c).map (·.status) = some .running
        ∧ (t.ctx? c).map (·.codes) = some (loadCodes area) ∧ (t.ctx? c).map (·.samples) = some (loadSamples area)
        ∧ ∀ m ∈ x.savedModes, (t.core m.1).ctx = some c)

/-- R168, R330, R344, R382, R424: QCMD binds a free queue to a valid QCB and unbinds it once its packet has ended; an answer to a fault is
noted while the context is out, and while it runs lets the members of the one entry that waits for it go on, and makes the registers that
it held empty full again (that the bits of FAULTANS which R380 has zero are ignored is the model's choice: log entry 16); an invalidation
drops the translations of its range from the TLBs and walk caches of every core and the TLBs of the dies, and runs until the accesses that
used them have been performed. -/
def Obligations.QueueAndFaultCommands : Prop :=
  ∀ (s : State) (part q c : Nat) (v : BitVec 60), s.up = true →
    (SMap.get 0 s.qcmd part % 4 ≠ 1 → v.toNat < 2 ^ 14 → v.toNat / 2 ^ 5 % 8 = 0 → q = v.toNat % 32 →
      c = part * 64 + v.toNat / 2 ^ 8 % 64 → SMap.get 0 s.queuePart q = part →
      (∀ bs, (s.queue q).bound = none → (s.ctx? c).isSome = true → SMap.get 0 s.qcbaddr part % 64 = 0 →
        igierRead s c (SMap.get 0 s.qcbaddr part) 64 = .ok bs → qcbBreaches (natOfBytes bs) = [] →
        let x := natOfBytes bs
        ∃ t, exec (.qcmdBind part v) s = .next t ∧ SMap.get 0 t.qcmd part = 0
          ∧ t.queue q = { part := part, bound := some c, qcb := SMap.get 0 s.qcbaddr part, log := x / 2 ^ 64 % 32, ring := x % 2 ^ 64,
                          vec := x / 2 ^ 80 % 2 ^ 16, widx := x / 2 ^ 128 % 2 ^ 64, ridx := x / 2 ^ 192 % 2 ^ 64 })
      ∧ ((s.queue q).bound = some c →
        ∃ t, exec (.qcmdUnbind part v) s = .next t ∧ SMap.get 0 t.qcmd part = 1
          ∧ t.queue q = { s.queue q with halted := true, unbinding := true }))
    ∧ ((s.queue q).unbinding = true → (s.queue q).stage = .idle → (s.queue q).faultIds = [] →
      ∃ t, exec (.queueFree q) s = .next t ∧ t.queue q = {} ∧ SMap.get 0 t.qcmd (s.queue q).part = 0)
    ∧ (∀ (a : BitVec 64) (x : Context) (f : FaultRec), c = part * 64 + a.toNat / 2 ^ 40 % 64 → s.ctx? c = some x →
      x.faults.find? (fun f => f.seq = some (a.toNat % 2 ^ 32) && f.answer.isNone) = some f →
      (ctxRuns s c = false → s.refreshing = [] →
        ∃ t, exec (.faultans part a) s = .next t ∧ t.ctx? c = some { x with
          faults := x.faults.map fun y => if y.id = f.id then { y with answer := some (a.getLsbD 32) } else y })
      ∧ (∀ gk g id e lane held, ctxRuns s c = true → a.getLsbD 32 = false → s.refreshing = [] → s.queues = [] → x.segments = [] →
        s.groups = [(gk, g)] → g.ctx = c → g.ops = [] → g.argFaults = [] → g.parkFaults = [] → g.frC.entries = [] →
        g.frA.entries = [e] → e.id = id → e.block = .faults [⟨lane, f.id, f.va, f.kind⟩] held → x.faults = [f] → e.hints = [] →
        (g.status = .parked → held = none ∧ g.owed = []) →
        ∃ t h, exec (.faultans part a) s = .next t ∧ t.group? gk = some h ∧ (t.ctx? c).map (·.faults) = some []
          ∧ (∀ l ∈ e.members, Stands h .addr l e.pc) ∧ ∀ r ∈ held.getD [], h.isFull r = true))
    ∧ (∀ (n : Nat) (hi : BitVec 64), n < 64 → c = part * 64 + n →
      let r := SMap.get {} s.invals c
      (r.busy = false → r.low.toNat < 2 ^ 56 → r.low.toNat / 2 % 2 ^ 15 = 0 → hi.toNat < 2 ^ 40 →
        let base := r.low.toNat / 2 ^ 16 * 2 ^ 16
        let len := hi.toNat * 2 ^ 16
        let within := fun (ctx at_ size : Nat) => ctx = c ∧ (r.low.getLsbD 0 = true ∨ (at_ < base + len ∧ base < at_ + size))
        let hit := fun (e : TlbEntry) => within e.ctx e.base e.size
        let walks := fun (e : WalkEntry) => within e.ctx e.base e.size
        ∃ t, exec (.inval part n hi) s = .next t ∧ (SMap.get {} t.invals c).busy = true ∧ SameMemory s t
          ∧ (∀ p ∈ t.cores, (∀ e ∈ p.2.tlb, ¬ hit e) ∧ ∀ e ∈ p.2.walks, ¬ walks e) ∧ (∀ p ∈ t.dieTlb, ∀ e ∈ p.2, ¬ hit e)
          ∧ (∀ p ∈ s.cores, ∃ k, (p.1, k) ∈ t.cores ∧ (∀ e ∈ p.2.tlb, ¬ hit e → e ∈ k.tlb) ∧ ∀ e ∈ p.2.walks, ¬ walks e → e ∈ k.walks)
          ∧ ∀ p ∈ s.dieTlb, ∀ e ∈ p.2, ¬ hit e → ∃ l, (p.1, l) ∈ t.dieTlb ∧ e ∈ l)
      ∧ (r.busy = true → (∀ p ∈ r.accs, ∀ g, s.group? p.1 = some g → ∀ a ∈ g.accs, a.id = p.2 → a.performed = true) →
        ∃ t, exec (.invalidationComplete part n) s = .next t ∧ SMap.get {} t.invals c = { r with busy := false, accs := [] }))

/-- R373 to R376, R379, R380, R385, R389, R390: a store to a register of a function's page gives it its value: a monitor with no record
due is configured anew, and a record that is due goes to a telemetry ring; the Barpor domain and its training; the partition of a granule;
the pair of cycle and host time that CORRSEL samples; the QCB address; the low word of a free invalidation record; a power cap in its
range; the scan control; and a cluster no context holds, whose queues are free, goes to a partition. -/
def Obligations.RegisterWrites : Prop :=
  (∀ (s : State) (part : Nat) (v : BitVec 64), s.up = true →
    let f := fun (lo n : Nat) => v.toNat / 2 ^ lo % 2 ^ n
    (∀ cluster mon cl, clusterOfPart s part cluster = some cl → mon < 32 → monitorWordOk v.toNat = true →
      (s.monitor (cl * 32 + mon)).due = [] →
      ∃ t, exec (.moncfg part cluster mon v) s = .next t ∧ t.monitor (cl * 32 + mon) = { config := v })
    ∧ (∀ cl mon r, mon < 32 → (s.monitor (cl * 32 + mon)).due = [r] →
      let u := ringEmit s (monitorCtx s cl (s.monitor (cl * 32 + mon))) 2 r
      exec (.monitorSnapshot cl mon) s = .next (u.setMonitor (cl * 32 + mon) fun m => { m with due := [] }))
    ∧ (f 22 42 = 0 → f 16 5 ≤ 16 → rangeInUse s (2 ^ 44 + f 0 16 * 2 ^ 28) (2 ^ 28) = false →
      ∃ t, exec (.extasn v) s = .next t
        ∧ ∀ k, SMap.find? t.granules k =
            if k = f 0 16 then (if v.getLsbD 21 then some (f 16 5) else none) else SMap.find? s.granules k)
    ∧ (∀ core (ptm : BitVec 64), core < 256 →
      ∃ t, exec (.corrsel part core ptm) s = .next t ∧ SMap.get 0 t.corrsel part = core
        ∧ SMap.get 0#64 t.corrcyc part = (s.core core).cyc ∧ SMap.get 0#64 t.corrptm part = ptm)
    ∧ (∃ t, exec (.registerWrite part 0x2010 v) s = .next t ∧ SMap.get 0 t.qcbaddr part = v.toNat)
    ∧ (∀ n, n < 64 → (SMap.get {} s.invals (part * 64 + n)).busy = false →
      ∃ t, exec (.registerWrite part (0x1000 + 16 * n) v) s = .next t
        ∧ SMap.get {} t.invals (part * 64 + n) = { SMap.get {} s.invals (part * 64 + n) with low := v })
    ∧ (∃ t, exec (.registerWrite 0 0x4000 v) s = .next t
        ∧ t.pwrcap = if 1000 ≤ f 0 12 ∧ f 0 12 ≤ 3000 then f 0 12 else s.pwrcap)
    ∧ (∃ t, exec (.registerWrite 0 0x4010 v) s = .next t ∧ t.scanctl = f 8 24 * 256 + f 0 3)
    ∧ ∀ cl p, cl < 16 → p ≤ 16 → (∀ k ∈ s.cores, clusterOf k.1 = cl → k.2.ctx = none) →
      (s.queue (2 * cl)).bound = none → (s.queue (2 * cl + 1)).bound = none →
      ∃ t, exec (.partitionAssign cl p) s = .next t ∧ SMap.get 0 t.clusterPart cl = p
        ∧ SMap.get 0 t.queuePart (2 * cl) = p ∧ SMap.get 0 t.queuePart (2 * cl + 1) = p)
  ∧ ∀ (s : State) (v : BitVec 64), s.power = .d0 → 4 ≤ s.bringup →
    ∃ t, exec (.domain v) s = .next t ∧ t.domain = v.toNat % 2 ^ 6 ∧ t.domainOn = v.getLsbD 8 ∧ (v.getLsbD 8 = false → t.links = [])
      ∧ t.bringup = if v.getLsbD 8 then max 5 s.bringup else s.bringup

/-! ### Memory system, links and device -/

/-- R186, R188, R189, R196, R205, R391: a line evicted from a slice or from L1 is gone there, and what L1 alone held is at its home. An
uncorrectable error poisons its line and is reported to each context of the partition, or marks its slot or tile. An extent is added, is
being released, is gone after the acknowledgement, or is revoked. A request of a link or of RDMA acts at its home. The model's choices
here are the layout of a request's data (log entry 14), and the numbers of the kinds of error, the code of a tier in the record and the
contexts that get it, every one of the partition (log entry 13). -/
def Obligations.MemorySystemEvents : Prop :=
  ∀ (s : State) (line core kind ext base len port part addr data : Nat),
    let pa := line * 128
    let bs := requestBytes data
    let lands := fun (t : State) =>
      (∀ i, i < bs.length → readByte t (addr + i) = bs.getD i 0#8)
        ∧ ∀ x, normPA s x = x → x < addr ∨ addr + bs.length ≤ x → readByte t x = readByte s x
    let others := fun (t : State) => ∀ k, k ≠ ext → SMap.find? t.extents k = SMap.find? s.extents k
    (∃ t, exec (.mscEviction line) s = .next t ∧ SameMemory s t
      ∧ ∀ k, SMap.find? t.msc k = if k = line then none else SMap.find? s.msc k)
    ∧ (∀ l, SMap.find? (s.core core).l1 line = some l → normPA s pa = pa →
      ∃ t, exec (.l1Eviction core line) s = .next t
        ∧ (∀ k, SMap.find? (t.core core).l1 k = if k = line then none else SMap.find? (s.core core).l1 k)
        ∧ (∀ j, j < 128 → readByte t (pa + j) = if l.dirty.getLsbD j then l.byte j else readByte s (pa + j))
        ∧ ∀ x, normPA s x = x → x / 128 ≠ line → readByte t x = readByte s x)
    ∧ (kind < 3 → (kind = 0 → tierOf pa = .hbm) → (kind = 1 → (SMap.find? s.msc line).isSome) → (kind = 2 → tierOf pa = .cxl) →
      exec (.eccUncorrectable line kind) s = .next
        (((s.ctxs.filter fun p => p.2.part = partOfAddr s pa).map (·.1)).foldl
          (fun s c => ringEmit s c 3 (mkRec 0x32 0 0xFFFF [pa, kind, 0, 0, 0, 0, 0])) { s with poison := SMap.insert s.poison line 0 }))
    ∧ (∃ t, exec (.eccUncorrectable line 3) s = .next t ∧ SameMemory s t
        ∧ ∀ x, SMap.find? (s.core (line / 64)).slots (line % 64) = some x → (slotOf t (line / 64) (line % 64)).bad = true)
    ∧ (∃ t, exec (.eccUncorrectable line 4) s = .next t ∧ SameMemory s t ∧ (accOf t (line / 8) (line % 8)).bad = true)
    ∧ (∀ c, (s.core line).ctx = some c → 5 ≤ kind → kind ≤ 7 → ∀ x, s.ctx? c = some x →
      ∃ t, exec (.eccUncorrectable line kind) s = .next t ∧ (t.ctx? c).map (·.status) = some .ended)
    ∧ (extentOk base len = true → (∀ p ∈ s.extents, p.1 ≠ ext ∧ p.2.meets base len = false) →
      ∃ t, exec (.dynamicCapacityAdd ext base len) s = .next t ∧ SameMemory s t
        ∧ SMap.find? t.extents ext = some { base := base, len := len } ∧ others t)
    ∧ (∀ e, SMap.find? s.extents ext = some e →
      (e.revoked = false →
        ∃ t, exec (.extentRelease ext) s = .next t ∧ SMap.find? t.extents ext = some { e with releasing := true } ∧ others t)
      ∧ (e.releasing = true → rangeInUse s e.base e.len = false → (∀ p ∈ s.msc, e.hasLine p.1 = true → p.2.dirty = 0#4) →
        ∃ t, exec (.extentReleaseAck ext) s = .next t ∧ SMap.find? t.extents ext = none ∧ others t ∧ SameMemory s t)
      ∧ (e.revoked = false →
        ∃ t, exec (.extentRevoke ext) s = .next t ∧ others t
          ∧ SMap.find? t.extents ext = some { e with releasing := false, revoked := true }
          ∧ ∀ k, e.hasLine k = true → SMap.find? t.msc k = none))
    ∧ (bs ≠ [] → addr / 128 = (addr + bs.length - 1) / 128 →
      (tierOf addr = .hbm → s.up = true → s.domainOn = true → port ∈ s.links → regionAt s addr = none →
        let kind := data / 2 ^ 8 % 8
        let n := data % 256
        ∃ t, exec (.barporFlit port true addr data) s = .next t
          ∧ ((kind = 1 ∨ kind = 3) → lands t)
          ∧ (kind = 4 → (n = 4 ∨ n = 8) → addr % n = 0 →
              let old := readNat s addr n
              readNat t addr n = (atomicNew (data / 2 ^ 11 % 8) (data.testBit 14) n old (data / 2 ^ 16 % 2 ^ (8 * n))
                (data / 2 ^ (16 + 8 * n) % 2 ^ (8 * n))).getD old % 2 ^ (8 * n))
          ∧ (kind ≠ 1 → kind ≠ 3 → kind ≠ 4 → SameMemory s t))
      ∧ ((tierOf addr = .hbm ∨ tierOf addr = .cxl) → s.up = true → homeCause s part 0 addr = none →
        (∃ t, exec (.rdmaAccess part true addr data) s = .next t ∧ lands t)
        ∧ ∃ t, exec (.rdmaAccess part false addr data) s = .next t ∧ SameMemory s t))
    ∧ exec (.barporFlit port false addr data) s = .next s
    ∧ exec (.barporLinkDown port) s = .next { s with links := s.links.filter (· ≠ port) }

/-- R201, R203, R386 to R389, R392, R393: a region is created zeroed and destroyed with its lines' cached copies; a TDI that leaves RUN
ends its contexts and regions, and a lock or start request moves its state; a recovery image that verifies and is not older than the fuses
is taken; a device reset empties the machine; the last step of bring-up enables the functions; a core with no segments is scanned, and its
scan ends or is given up; power and heat throttle, and shut the device down, at their limits. The model's choices here are the bits of a
request (log entry 15), the state that a TDI which leaves RUN takes (log entry 2), and what a device reset, a recovery image and the
enabling of the functions leave: HBM that reads 0 and the bring-up steps 1, 4 and 6 (log entry 36). -/
def Obligations.DeviceEvents : Prop :=
  ∀ (s : State) (region tdi base len req image core n : Nat),
    let t₀ := SMap.get {} s.tdis (req / 4 % 2 ^ 16)
    let allEnd := fun (t : State) => ∀ c x, s.ctx? c = some x → (t.ctx? c).map (·.status) = some .ended
    let emptied := fun (t : State) =>
      t.ctxs = [] ∧ t.groups = [] ∧ t.queues = [] ∧ ∀ x, tierOf x = .hbm → SMap.get 0#8 t.mem x = 0#8
    (s.up = true → freeRegion s = some region → regionRefused s tdi base len = false →
      ∃ t, exec (.createRegion region tdi base len) s = .next t
        ∧ SMap.find? t.regions region = some { tdi := tdi, base := base, len := len }
        ∧ ∀ x, normPA s x = x → readByte t x = if base ≤ x ∧ x < base + len then 0#8 else readByte s x)
    ∧ (∀ r, s.up = true → 0 < region → region < 1024 → SMap.find? s.regions region = some r →
      ∃ t, exec (.destroyRegion region) s = .next t ∧ SMap.find? t.regions region = none
        ∧ (∀ x, normPA s x = x → (x / 128 * 128 < r.base ∨ r.base + r.len ≤ x / 128 * 128) → readByte t x = readByte s x)
        ∧ ∀ k, r.base ≤ k * 128 → k * 128 < r.base + r.len → SMap.find? t.msc k = none)
    ∧ (tdi ≠ 0 → (SMap.get {} s.tdis tdi).state = .run →
      ∃ t, exec (.tdiLeaveRun tdi) s = .next t
        ∧ ((SMap.get {} t.tdis tdi).state = .error ∨ (SMap.get {} t.tdis tdi).state = .configUnlocked)
        ∧ (∀ r ∈ t.regions, r.2.live = true → r.2.tdi ≠ tdi)
        ∧ ∀ c x, s.ctx? c = some x → x.tdi = tdi → (t.ctx? c).map (·.status) = some .ended)
    ∧ (s.up = true → req / 4 % 2 ^ 16 ≠ 0 →
      ∃ t rest, exec (.spdmRequest req) s = .next t ∧ t.spdm = (if req % 4 = 3 then measurements s else []) ++ rest ∧ rest.length = 8
        ∧ SMap.get {} t.tdis (req / 4 % 2 ^ 16) =
            if req % 4 = 1 ∧ t₀.state = .configUnlocked then { state := .configLocked, part := req / 2 ^ 18 % 2 ^ 5 }
            else if req % 4 = 2 ∧ t₀.state = .configLocked then { t₀ with state := .run } else t₀)
    ∧ (s.power = .d0 → s.bringup = 1 →
      ∃ t, exec (.recoveryImage image) s = .next t
        ∧ if Config.imageVerifies image = true ∧ s.fused ≤ Config.imageVersion image
          then t = { s with firmware := image, bringup := 4, fused := Config.imageVersion image } else t = s)
    ∧ (∃ t, exec .deviceReset s = .next t ∧ t.power = .d0 ∧ emptied t
        ∧ t.bringup = if Config.imageVerifies s.firmware = true ∧ s.fused ≤ Config.imageVersion s.firmware then 4 else 1)
    ∧ (∀ rest, s.agenda = .enableFunctions :: rest → s.power = .d0 → 4 ≤ s.bringup →
      step s = .next { afterStep s with agenda := rest, bringup := 6 })
    ∧ (scanAllowed s core = true →
      (scanSegments s core = [] →
        ∃ t, exec (.coreScan core) s = .next t ∧ (t.core core).scanning = true ∧ (t.core core).banks = []
          ∧ (t.core core).l1 = [])
      ∧ (scanSegments s core ≠ [] →
        ∃ t, exec (.coreScan core) s = .next t ∧ SameMemory s t
          ∧ ∀ p ∈ scanSegments s core, s.seg? p.1 p.2.1 = some p.2.2 → p.2.2.evictable core = true →
              t.seg? p.1 p.2.1 = some { p.2.2 with state := 1 }))
    ∧ ((s.core core).scanning = true →
      (∀ pass, ∃ t, exec (.scanEnd core pass) s = .next t ∧ (t.core core).scanning = false ∧ (t.core core).removed = !pass
        ∧ (t.core core).banks = [])
      ∧ (scanWanted s core = true →
        ∃ t, exec (.scanAbort core) s = .next t ∧ (t.core core).scanning = false ∧ (t.core core).removed = false
          ∧ ∀ x, readByte t x = readByte s x)
      ∧ (scanWanted s core = false → exec (.scanAbort core) s = .next s))
    ∧ (s.power = .d0 →
      (∃ t, exec .d3hot s = .next t ∧ t.power = .d3hot ∧ allEnd t)
      ∧ (1000 * s.pwrcap < n → exec (.powerLimitThrottle n) s = .next { s with clockSteps := s.clockSteps + 1 })
      ∧ (105 ≤ n → exec (.thermalThrottle n) s = .next { s with clockSteps := s.clockSteps + 1 })
      ∧ (115 ≤ n → ∃ t, exec (.thermalShutdown n) s = .next t ∧ t.power = .d3cold ∧ t.bringup = 0 ∧ emptied t))
    ∧ (n ≤ 1000 * s.pwrcap → exec (.powerLimitThrottle n) s = .next s)
    ∧ (n < 105 → exec (.thermalThrottle n) s = .next s ∧ exec (.thermalShutdown n) s = .next s)
    ∧ ∃ t, exec .d3cold s = .next t ∧ t.power = .d3cold ∧ t.bringup = 0 ∧ emptied t

/-! ### The whole machine -/

/-- R25, R28, R66, R67, R85, R130: a step that issues for the group to which the free slot goes takes the entry that its strand chooses,
fetches the four bytes at its pc, lowest byte first, decodes them and is `exec` of the instruction, with the entry out of the frontier and
its age begun anew; a word that is no instruction traps every member, at the first word of its sequence, and so does a fetch that meets a
cause, FETCH_RANGE at the word itself. A step that is an event is `exec` of it, and what is due before a move is made first. (The order of
moves is the model's, log entry 1, and so is which context a frame belongs to, log entry 4.) -/
def Obligations.StepRunsTheDecodedInstruction : Prop :=
  (∀ (s u : State) (gk : Nat) (st : Strand) (rest : List Move) (g : Group) (e : Entry) (w : Word),
    s.agenda = .issue gk st :: rest →
    let v := { afterStep s with agenda := rest }
    v.group? gk = some g →
    before v (.issue gk st) = none → nextIssuer v g.core st = some gk → chooseEntry v g st = some e →
    let r := fetchWord (takeSlot v gk st { e with age := 0, yieldFor := [] }) g e.pc
    r.1 = u →
    (∀ c, r.2 = .cause c → e.members.Nodup → CanTrap st g e.members (fun _ => c) →
      ∃ t g', step s = .next t ∧ t.group? gk = some g'
        ∧ ∀ l ∈ e.members, (g'.thread l).strand st = trapped ((g.thread l).strand st) c (if c.code = 0x001 then e.pc else e.seqPc))
    ∧ (r.2 = .word w →
    (∀ i, decodeOp w = some i →
      step s = exec i { (if e.block.issued then u else sample u g.core g.ctx 6 (g.frontier st).entries.length) with
        cur := some ⟨gk, st, { e with age := 0, yieldFor := [] }, w⟩ })
    ∧ (decodeOp w = none → e.members.Nodup → CanTrap st g e.members (fun _ => ⟨0x000, w.toNat, 1⟩) →
      ∃ t g', step s = .next t ∧ t.group? gk = some g'
        ∧ ∀ l ∈ e.members, (g'.thread l).strand st = trapped ((g.thread l).strand st) ⟨0x000, w.toNat, 1⟩ e.seqPc)))
  ∧ (∀ (s : State) (m d : Move) (rest : List Move), s.agenda = m :: rest → before { afterStep s with agenda := rest } m = some d →
    step s = (match makeMove { afterStep s with agenda := m :: rest } d with
      | (t, none) => .next t
      | (t, some i) => exec i t))
  ∧ (∀ (s u : State) (g : Group) (pc : VAddr) (pa size : Nat) (x : Context), pc.toNat < 2 ^ 56 - 2 ^ 32 → s.ctx? g.ctx = some x →
    translate s g.ctx g.core pc.toNat 0 = .ok (pa, size, u) → tierOf pa ≠ .host →
    reachCause u g.ctx (partOfCore u g.core) x.tdi pa = none → poisonAt u pa = none →
    ∃ v, fetchWord s g pc = (v, .word (BitVec.ofNat 32 (readNat u pa 4))) ∧ SameMemory u v)
  ∧ ∀ (s : State) (rest : List Move) (i : Instr), s.agenda = .event i :: rest → isWord i = false →
    before { afterStep s with agenda := rest } (.event i) = none →
    step s = exec i { afterStep s with agenda := rest }

/-- R77: the UNARY selector, held in bits [8:2], names the operation; every other value is reserved: the word is no instruction, and
its issue traps every member with reason 1. -/
def Obligations.UnarySelectors : Prop :=
  (∀ (w : BitVec 2) (vd va sel : BitVec 7) (ea : Bool),
    let f : UnOps := { w := w, vd := vd, va := va, ea := ea }
    let word : Word := 0x05#5 ++ 0#2 ++ w ++ vd ++ va ++ sel ++ BitVec.ofBool ea ++ 0#1
    decodeWord word =
      ([(0x00, Instr.inot f), (0x01, .ineg f), (0x02, .iabs f), (0x03, .popc f), (0x04, .clz f), (0x05, .ctz f), (0x06, .brev f),
        (0x10, .fneg f), (0x11, .fabs f), (0x12, .ffloor f), (0x13, .fceil f), (0x14, .ftrunc f), (0x15, .frint f), (0x16, .frcp f),
        (0x17, .frsq f), (0x18, .fsqrt f), (0x19, .fexp2 f), (0x1A, .flog2 f), (0x1B, .ftanh f), (0x1C, .fsin f),
        (0x1D, .fcos f)].find? fun p => p.1 = sel.toNat).map (·.2))
  ∧ ∀ (s u : State) (gk : Nat) (st : Strand) (rest : List Move) (g : Group) (e : Entry) (w : Word),
    s.agenda = .issue gk st :: rest →
    let v := { afterStep s with agenda := rest }
    v.group? gk = some g →
    before v (.issue gk st) = none → nextIssuer v g.core st = some gk → chooseEntry v g st = some e →
    fetchWord (takeSlot v gk st { e with age := 0, yieldFor := [] }) g e.pc = (u, .word w) →
    w.extractLsb' 27 5 = 0x05#5 → w.extractLsb' 25 2 = 0#2 →
    ((0x07 ≤ w.toNat / 4 % 128 ∧ w.toNat / 4 % 128 ≤ 0x0F) ∨ 0x1E ≤ w.toNat / 4 % 128) →
    e.members.Nodup → CanTrap st g e.members (fun _ => ⟨0x000, w.toNat, 1⟩) →
    ∃ t g', step s = .next t ∧ t.group? gk = some g'
      ∧ ∀ l ∈ e.members, (g'.thread l).strand st = trapped ((g.thread l).strand st) ⟨0x000, w.toNat, 1⟩ e.seqPc

/-- Every state goes on: no step is a fault or a refusal, and the only fault of `exec` is that of a word which no entry issues. That a
move of the agenda which no rule enables, and an event whose rule does not apply, leave the machine to go on is the model's choice (log
entries 1 and 42). -/
def Obligations.EveryStepGoesOn : Prop :=
  (∀ s : State, Live s) ∧ ∀ (i : Instr) (s : State), s.cur ≠ none ∨ isWord i = false → ∃ t, exec i s = .next t

/-- R66 to R83, R268, R350: the word of an instruction decodes to that instruction with every operand, for all operands that its
encoding holds, also through the bytes that memory holds of it; no word is that of two instructions. -/
def Obligations.DecodingInvertsEncoding : Prop :=
  (∀ (i : Instr) (w : Word), Encodable i → encode i = some w → decodeWord w = some i ∧ ∀ n, decodeTableWord n w.toNat = some i)
  ∧ ∀ (i j : Instr) (w : Word), Encodable i → Encodable j → encode i = some w → encode j = some w → i = j

/-- R92: the worked encodings decode to their statements, with the immediates, offset and target that they name; the illegal words are
refused with the reason that R67 reports. A word of an operation that is not assigned decodes to no instruction. -/
def Obligations.WorkedEncodings : Prop :=
  let reason := fun (st : Strand) (w : Word) =>
    (decodeOp w).bind fun i => (leastReason ((breaches st 64 i ++ wordReasons i w).map (·, w))).map (·.1)
  decodeWord 0x01081840#32 = some (.iadd { w := 2#2, vd := 8#7, va := 12#7, vb := 16#7, ea := false, eb := false })
  ∧ decodeWord 0x36040A1A#32 = some (.fmac { w := 0#2, vd := 4#7, va := 5#7, vb := 6#7, ea := true, eb := false })
  ∧ decodeWord 0x780C1864#32 = some (.iaddi { vd := 3#7, va := 3#7, ea := false, imm := 0x064#10 })
  ∧ immInt [] 0x064#10 = 100
  ∧ decodeWord 0xFE000061#32 = some (.hImm { payload := 0x61#22 })
  ∧ decodeWord 0x780C1AA0#32 = some (.iaddi { vd := 3#7, va := 3#7, ea := false, imm := 0x2A0#10 })
  ∧ immInt [0xFE000061#32] 0x2A0#10 = 100000
  ∧ decodeWord 0xBA600804#32 = some (.ldq { size := 2#3, order := 1#2, scope := 4#3, base := 4#5, off := 4#9 })
  ∧ immInt [] 4#9 * 4 = 16
  ∧ decodeWord 0xB0293FC0#32 = some (.aaddi { ad := 5#5, aa := 4#5, imm := 0x3FC0#14 })
  ∧ (imm64 [] 0x3FC0#14).toInt = -64
  ∧ decodeWord 0xE14BFFF8#32 = some (.brt { p := 2#3, prio := 5#4, disp := 0x1FFF8#17 })
  ∧ 0x0120#56 + BitVec.ofInt 56 (4 * immInt [] 0x1FFF8#17) = 0x0100#56
  ∧ decodeWord 0x90940000#32 = some (.pop { w := 1#2, reg := 20#7, queue := 0#2 })
  ∧ reason .comp 0x30891840#32 = some 6 ∧ reason .comp 0x31081028#32 = some 6
  ∧ reason .addr 0x30000000#32 = some 4 ∧ reason .comp 0x98000000#32 = some 8
  ∧ decodeWord (0x1F#5 ++ 30#5 ++ 0#22) = none

/-- At reset there is no context, group or queue, and the device is up; no byte of memory or of a bank is listed, and the canonical forms
hold. That memory no one has written reads 0 outside the zeroed frames of R204 is the model's choice (log entry 4), and so is the rest of
the reset state where the manual gives none (log entry 5). -/
def Obligations.ResetState : Prop :=
  MemoryOk State.reset ∧ BanksOk State.reset ∧ (∀ x, readByte State.reset x = 0#8)
    ∧ State.reset.groups = [] ∧ State.reset.ctxs = [] ∧ State.reset.queues = [] ∧ State.reset.up = true

/-- The canonical form of memory and of every bank is kept by every step, from every state that has it (log entry 4). -/
def Obligations.StepsKeepMemoryCanonical : Prop :=
  ∀ s t : State, MemoryOk s → BanksOk s → Goes s t → MemoryOk t ∧ BanksOk t

/-- R4, R188: what is written at a home, or in a local-store bank, is read there, and every other byte reads as before. A number of n bytes
is read from its bytes, lowest first. -/
def Obligations.BytesReadBack : Prop :=
  (∀ (s : State) (pa x : Nat) (bs : List Byte), normPA s pa = pa → normPA s x = x →
    readByte (writeHome s pa bs) x = if pa ≤ x ∧ x < pa + bs.length then bs.getD (x - pa) 0#8 else readByte s x)
  ∧ (∀ (s : State) (core a x : Nat) (bs : List Byte),
    lsRead (lsWrite s core a bs) core x 1 = if a ≤ x ∧ x < a + bs.length then [bs.getD (x - a) 0#8] else lsRead s core x 1)
  ∧ ∀ v n : Nat, v < 2 ^ (8 * n) → natOfBytes (bytesOfNat v n) = v
end

