-- ==== Sys2Proof/Laws/Maps.lean ====
section
/-! SUPPORT. The laws of sparse maps: reading after writing, other keys left alone, and the canonical form kept. -/

namespace Sys2Proof.Machine

open Sys2Proof

variable {α : Type}

/-! ### Reading after writing -/

@[simp] theorem SMap.find?_nil (k : Nat) : SMap.find? ([] : SMap α) k = none := rfl

@[simp] theorem SMap.get_nil (d : α) (k : Nat) : SMap.get d [] k = d := rfl

theorem SMap.find?_cons (p : Nat × α) (m : SMap α) (k : Nat) :
    SMap.find? (p :: m) k = if k = p.1 then some p.2 else SMap.find? m k := by
  obtain ⟨a, b⟩ := p; rfl

theorem SMap.find?_insert (m : SMap α) (k j : Nat) (v : α) :
    SMap.find? (SMap.insert m k v) j = if j = k then some v else SMap.find? m j := by
  induction m with
  | nil => simp [SMap.insert, SMap.find?_cons]
  | cons p m ih =>
    obtain ⟨a, b⟩ := p
    simp only [SMap.insert]
    split
    · simp [SMap.find?_cons]
    · split
      · subst_vars; by_cases h : j = a <;> simp [SMap.find?_cons, h]
      · rw [SMap.find?_cons, ih, SMap.find?_cons]
        by_cases h : j = a
        · subst h; simp; intro e; omega
        · simp [h]

theorem SMap.find?_erase (m : SMap α) (k j : Nat) :
    SMap.find? (SMap.erase m k) j = if j = k then none else SMap.find? m j := by
  induction m with
  | nil => simp [SMap.erase]
  | cons p m ih =>
    obtain ⟨a, b⟩ := p
    simp only [SMap.erase, List.filter_cons] at ih ⊢
    by_cases h : a = k
    · subst h; simp only [bne_self_eq_false]; rw [SMap.find?_cons]
      by_cases e : j = a
      · simpa [e] using ih
      · simpa [e] using ih
    · simp only [bne_iff_ne, ne_eq, h, not_false_eq_true, if_true, SMap.find?_cons, ih]
      by_cases e : j = a
      · subst e; simp [h]
      · simp [e]

theorem SMap.find?_put [DecidableEq α] (d : α) (m : SMap α) (k j : Nat) (v : α) :
    SMap.find? (SMap.put d m k v) j =
      if j = k then (if v = d then none else some v) else SMap.find? m j := by
  unfold SMap.put
  by_cases h : v = d
  · simp [h, SMap.find?_erase]
  · simp [h, SMap.find?_insert]

/-- What a map reads after one write. -/
theorem SMap.get_put [DecidableEq α] (d : α) (m : SMap α) (k j : Nat) (v : α) :
    SMap.get d (SMap.put d m k v) j = if j = k then v else SMap.get d m j := by
  unfold SMap.get
  rw [SMap.find?_put]
  by_cases h : j = k
  · by_cases e : v = d <;> simp [h, e]
  · simp [h]

@[simp] theorem SMap.get_put_self [DecidableEq α] (d : α) (m : SMap α) (k : Nat) (v : α) :
    SMap.get d (SMap.put d m k v) k = v := by simp [SMap.get_put]

theorem SMap.get_put_other [DecidableEq α] (d : α) (m : SMap α) {k j : Nat} (v : α) (h : j ≠ k) :
    SMap.get d (SMap.put d m k v) j = SMap.get d m j := by simp [SMap.get_put, h]

theorem SMap.find?_modify (m : SMap α) (k j : Nat) (f : α → α) :
    SMap.find? (SMap.modify m k f) j = if j = k then (SMap.find? m j).map f else SMap.find? m j := by
  induction m with
  | nil => simp [SMap.modify]
  | cons p m ih =>
    obtain ⟨a, b⟩ := p
    simp only [SMap.modify, List.map_cons] at ih ⊢
    by_cases h : a = k
    · subst h
      by_cases e : j = a
      · simp [SMap.find?_cons, e]
      · simpa [SMap.find?_cons, e] using ih
    · by_cases e : j = a
      · subst e; simp [SMap.find?_cons, h]
      · simpa [SMap.find?_cons, e, h] using ih

/-! ### The canonical form -/

/-- Every key of a map lies above `n`. -/
def SMap.Above (n : Nat) (m : SMap α) : Prop := ∀ p ∈ m, n < p.1

theorem SMap.wf_cons [DecidableEq α] (d : α) (k : Nat) (v : α) (m : SMap α) :
    SMap.wf d ((k, v) :: m) = true ↔ v ≠ d ∧ SMap.Above k m ∧ SMap.wf d m = true := by
  induction m generalizing k v with
  | nil => simp [SMap.wf, SMap.Above]
  | cons p m ih =>
    obtain ⟨a, b⟩ := p
    have key := ih a b
    simp only [SMap.wf, Bool.and_eq_true, bne_iff_ne, ne_eq, decide_eq_true_eq]
    constructor
    · rintro ⟨⟨h1, h2⟩, h3⟩
      refine ⟨h1, ?_, h3⟩
      intro q hq
      rcases List.mem_cons.mp hq with rfl | hq
      · exact h2
      · have := (key.mp h3).2.1 q hq
        omega
    · rintro ⟨h1, h2, h3⟩
      exact ⟨⟨h1, h2 _ (List.mem_cons_self ..)⟩, h3⟩

@[simp] theorem SMap.wf_nil [DecidableEq α] (d : α) : SMap.wf d ([] : SMap α) = true := rfl

theorem SMap.wf_filter [DecidableEq α] (d : α) (m : SMap α) (p : Nat × α → Bool) (h : SMap.wf d m = true) :
    SMap.wf d (m.filter p) = true := by
  induction m with
  | nil => simp
  | cons q m ih =>
    obtain ⟨k, v⟩ := q
    obtain ⟨h1, h2, h3⟩ := (SMap.wf_cons d k v m).mp h
    rw [List.filter_cons]
    split
    · refine (SMap.wf_cons d k v _).mpr ⟨h1, ?_, ih h3⟩
      intro q hq
      exact h2 q (List.mem_of_mem_filter hq)
    · exact ih h3

theorem SMap.wf_erase [DecidableEq α] (d : α) (m : SMap α) (k : Nat) (h : SMap.wf d m = true) :
    SMap.wf d (SMap.erase m k) = true := SMap.wf_filter d m _ h

theorem SMap.above_insert (m : SMap α) (n k : Nat) (v : α) (hk : n < k) (h : SMap.Above n m) :
    SMap.Above n (SMap.insert m k v) := by
  induction m with
  | nil => intro p hp; simp [SMap.insert] at hp; simp [hp, hk]
  | cons q m ih =>
    obtain ⟨a, b⟩ := q
    have ha : n < a := h (a, b) (List.mem_cons_self ..)
    have hm : SMap.Above n m := fun p hp => h p (List.mem_cons_of_mem _ hp)
    simp only [SMap.insert]
    split
    · intro p hp
      rcases List.mem_cons.mp hp with rfl | hp
      · exact hk
      · exact h p hp
    · split
      · intro p hp
        rcases List.mem_cons.mp hp with rfl | hp
        · exact hk
        · exact hm p hp
      · intro p hp
        rcases List.mem_cons.mp hp with rfl | hp
        · exact ha
        · exact ih hm p hp

theorem SMap.wf_insert [DecidableEq α] (d : α) (m : SMap α) (k : Nat) (v : α) (hv : v ≠ d) (h : SMap.wf d m = true) :
    SMap.wf d (SMap.insert m k v) = true := by
  induction m with
  | nil => simpa [SMap.insert, SMap.wf] using hv
  | cons q m ih =>
    obtain ⟨a, b⟩ := q
    obtain ⟨h1, h2, h3⟩ := (SMap.wf_cons d a b m).mp h
    simp only [SMap.insert]
    split
    · refine (SMap.wf_cons d k v _).mpr ⟨hv, ?_, h⟩
      intro p hp
      rcases List.mem_cons.mp hp with rfl | hp
      · assumption
      · have := h2 p hp; omega
    · split
      · subst_vars; exact (SMap.wf_cons d a v m).mpr ⟨hv, h2, h3⟩
      · exact (SMap.wf_cons d a b _).mpr ⟨h1, SMap.above_insert m a k v (by omega) h2, ih h3⟩

/-- One write keeps the canonical form. -/
theorem SMap.wf_put [DecidableEq α] (d : α) (m : SMap α) (k : Nat) (v : α) (h : SMap.wf d m = true) :
    SMap.wf d (SMap.put d m k v) = true := by
  unfold SMap.put
  split
  · exact SMap.wf_erase d m k h
  · exact SMap.wf_insert d m k v ‹_› h

end Sys2Proof.Machine
end

