-- ==== Sys2Proof/Laws/State.lean ====
section
/-! SUPPORT. One lemma per field and named update of the machine: what the update leaves alone, and what a lookup finds
after it. -/

namespace Sys2Proof.Machine

open Sys2Proof

/-! ### Fields that an update leaves alone -/

@[simp] theorem State.setGroup_mem (s : State) (g : Nat) (f : Group → Group) : (s.setGroup g f).mem = s.mem := rfl
@[simp] theorem State.setGroup_msc (s : State) (g : Nat) (f : Group → Group) : (s.setGroup g f).msc = s.msc := rfl
@[simp] theorem State.setGroup_poison (s : State) (g : Nat) (f : Group → Group) : (s.setGroup g f).poison = s.poison := rfl
@[simp] theorem State.setGroup_mended (s : State) (g : Nat) (f : Group → Group) : (s.setGroup g f).mended = s.mended := rfl
@[simp] theorem State.setGroup_corrected (s : State) (g : Nat) (f : Group → Group) : (s.setGroup g f).corrected = s.corrected := rfl
@[simp] theorem State.setGroup_frames (s : State) (g : Nat) (f : Group → Group) : (s.setGroup g f).frames = s.frames := rfl
@[simp] theorem State.setGroup_leaving (s : State) (g : Nat) (f : Group → Group) : (s.setGroup g f).leaving = s.leaving := rfl
@[simp] theorem State.setGroup_extents (s : State) (g : Nat) (f : Group → Group) : (s.setGroup g f).extents = s.extents := rfl
@[simp] theorem State.setGroup_granules (s : State) (g : Nat) (f : Group → Group) : (s.setGroup g f).granules = s.granules := rfl
@[simp] theorem State.setGroup_links (s : State) (g : Nat) (f : Group → Group) : (s.setGroup g f).links = s.links := rfl
@[simp] theorem State.setGroup_domain (s : State) (g : Nat) (f : Group → Group) : (s.setGroup g f).domain = s.domain := rfl
@[simp] theorem State.setGroup_domainOn (s : State) (g : Nat) (f : Group → Group) : (s.setGroup g f).domainOn = s.domainOn := rfl
@[simp] theorem State.setGroup_clusterPart (s : State) (g : Nat) (f : Group → Group) : (s.setGroup g f).clusterPart = s.clusterPart := rfl
@[simp] theorem State.setGroup_queuePart (s : State) (g : Nat) (f : Group → Group) : (s.setGroup g f).queuePart = s.queuePart := rfl
@[simp] theorem State.setGroup_cores (s : State) (g : Nat) (f : Group → Group) : (s.setGroup g f).cores = s.cores := rfl
@[simp] theorem State.setGroup_dieTlb (s : State) (g : Nat) (f : Group → Group) : (s.setGroup g f).dieTlb = s.dieTlb := rfl
@[simp] theorem State.setGroup_teams (s : State) (g : Nat) (f : Group → Group) : (s.setGroup g f).teams = s.teams := rfl
@[simp] theorem State.setGroup_trees (s : State) (g : Nat) (f : Group → Group) : (s.setGroup g f).trees = s.trees := rfl
@[simp] theorem State.setGroup_spawnQ (s : State) (g : Nat) (f : Group → Group) : (s.setGroup g f).spawnQ = s.spawnQ := rfl
@[simp] theorem State.setGroup_ctxs (s : State) (g : Nat) (f : Group → Group) : (s.setGroup g f).ctxs = s.ctxs := rfl
@[simp] theorem State.setGroup_refresh (s : State) (g : Nat) (f : Group → Group) : (s.setGroup g f).refresh = s.refresh := rfl
@[simp] theorem State.setGroup_refreshing (s : State) (g : Nat) (f : Group → Group) : (s.setGroup g f).refreshing = s.refreshing := rfl
@[simp] theorem State.setGroup_events (s : State) (g : Nat) (f : Group → Group) : (s.setGroup g f).events = s.events := rfl
@[simp] theorem State.setGroup_queues (s : State) (g : Nat) (f : Group → Group) : (s.setGroup g f).queues = s.queues := rfl
@[simp] theorem State.setGroup_monitors (s : State) (g : Nat) (f : Group → Group) : (s.setGroup g f).monitors = s.monitors := rfl
@[simp] theorem State.setGroup_regions (s : State) (g : Nat) (f : Group → Group) : (s.setGroup g f).regions = s.regions := rfl
@[simp] theorem State.setGroup_tdis (s : State) (g : Nat) (f : Group → Group) : (s.setGroup g f).tdis = s.tdis := rfl
@[simp] theorem State.setGroup_invals (s : State) (g : Nat) (f : Group → Group) : (s.setGroup g f).invals = s.invals := rfl
@[simp] theorem State.setGroup_ctxcmd (s : State) (g : Nat) (f : Group → Group) : (s.setGroup g f).ctxcmd = s.ctxcmd := rfl
@[simp] theorem State.setGroup_qcmd (s : State) (g : Nat) (f : Group → Group) : (s.setGroup g f).qcmd = s.qcmd := rfl
@[simp] theorem State.setGroup_qcbaddr (s : State) (g : Nat) (f : Group → Group) : (s.setGroup g f).qcbaddr = s.qcbaddr := rfl
@[simp] theorem State.setGroup_pwrcap (s : State) (g : Nat) (f : Group → Group) : (s.setGroup g f).pwrcap = s.pwrcap := rfl
@[simp] theorem State.setGroup_clockSteps (s : State) (g : Nat) (f : Group → Group) : (s.setGroup g f).clockSteps = s.clockSteps := rfl
@[simp] theorem State.setGroup_power (s : State) (g : Nat) (f : Group → Group) : (s.setGroup g f).power = s.power := rfl
@[simp] theorem State.setGroup_scanctl (s : State) (g : Nat) (f : Group → Group) : (s.setGroup g f).scanctl = s.scanctl := rfl
@[simp] theorem State.setGroup_corrsel (s : State) (g : Nat) (f : Group → Group) : (s.setGroup g f).corrsel = s.corrsel := rfl
@[simp] theorem State.setGroup_corrcyc (s : State) (g : Nat) (f : Group → Group) : (s.setGroup g f).corrcyc = s.corrcyc := rfl
@[simp] theorem State.setGroup_corrptm (s : State) (g : Nat) (f : Group → Group) : (s.setGroup g f).corrptm = s.corrptm := rfl
@[simp] theorem State.setGroup_firmware (s : State) (g : Nat) (f : Group → Group) : (s.setGroup g f).firmware = s.firmware := rfl
@[simp] theorem State.setGroup_fused (s : State) (g : Nat) (f : Group → Group) : (s.setGroup g f).fused = s.fused := rfl
@[simp] theorem State.setGroup_bringup (s : State) (g : Nat) (f : Group → Group) : (s.setGroup g f).bringup = s.bringup := rfl
@[simp] theorem State.setGroup_spdm (s : State) (g : Nat) (f : Group → Group) : (s.setGroup g f).spdm = s.spdm := rfl
@[simp] theorem State.setGroup_msix (s : State) (g : Nat) (f : Group → Group) : (s.setGroup g f).msix = s.msix := rfl
@[simp] theorem State.setGroup_cur (s : State) (g : Nat) (f : Group → Group) : (s.setGroup g f).cur = s.cur := rfl
@[simp] theorem State.setGroup_agenda (s : State) (g : Nat) (f : Group → Group) : (s.setGroup g f).agenda = s.agenda := rfl
@[simp] theorem State.setGroup_free (s : State) (g : Nat) (f : Group → Group) : (s.setGroup g f).free = s.free := rfl
@[simp] theorem State.setGroup_stamp (s : State) (g : Nat) (f : Group → Group) : (s.setGroup g f).stamp = s.stamp := rfl

@[simp] theorem State.setCore_mem (s : State) (c : Nat) (f : Core → Core) : (s.setCore c f).mem = s.mem := rfl
@[simp] theorem State.setCore_msc (s : State) (c : Nat) (f : Core → Core) : (s.setCore c f).msc = s.msc := rfl
@[simp] theorem State.setCore_poison (s : State) (c : Nat) (f : Core → Core) : (s.setCore c f).poison = s.poison := rfl
@[simp] theorem State.setCore_mended (s : State) (c : Nat) (f : Core → Core) : (s.setCore c f).mended = s.mended := rfl
@[simp] theorem State.setCore_corrected (s : State) (c : Nat) (f : Core → Core) : (s.setCore c f).corrected = s.corrected := rfl
@[simp] theorem State.setCore_frames (s : State) (c : Nat) (f : Core → Core) : (s.setCore c f).frames = s.frames := rfl
@[simp] theorem State.setCore_leaving (s : State) (c : Nat) (f : Core → Core) : (s.setCore c f).leaving = s.leaving := rfl
@[simp] theorem State.setCore_extents (s : State) (c : Nat) (f : Core → Core) : (s.setCore c f).extents = s.extents := rfl
@[simp] theorem State.setCore_granules (s : State) (c : Nat) (f : Core → Core) : (s.setCore c f).granules = s.granules := rfl
@[simp] theorem State.setCore_links (s : State) (c : Nat) (f : Core → Core) : (s.setCore c f).links = s.links := rfl
@[simp] theorem State.setCore_domain (s : State) (c : Nat) (f : Core → Core) : (s.setCore c f).domain = s.domain := rfl
@[simp] theorem State.setCore_domainOn (s : State) (c : Nat) (f : Core → Core) : (s.setCore c f).domainOn = s.domainOn := rfl
@[simp] theorem State.setCore_clusterPart (s : State) (c : Nat) (f : Core → Core) : (s.setCore c f).clusterPart = s.clusterPart := rfl
@[simp] theorem State.setCore_queuePart (s : State) (c : Nat) (f : Core → Core) : (s.setCore c f).queuePart = s.queuePart := rfl
@[simp] theorem State.setCore_dieTlb (s : State) (c : Nat) (f : Core → Core) : (s.setCore c f).dieTlb = s.dieTlb := rfl
@[simp] theorem State.setCore_groups (s : State) (c : Nat) (f : Core → Core) : (s.setCore c f).groups = s.groups := rfl
@[simp] theorem State.setCore_teams (s : State) (c : Nat) (f : Core → Core) : (s.setCore c f).teams = s.teams := rfl
@[simp] theorem State.setCore_trees (s : State) (c : Nat) (f : Core → Core) : (s.setCore c f).trees = s.trees := rfl
@[simp] theorem State.setCore_spawnQ (s : State) (c : Nat) (f : Core → Core) : (s.setCore c f).spawnQ = s.spawnQ := rfl
@[simp] theorem State.setCore_ctxs (s : State) (c : Nat) (f : Core → Core) : (s.setCore c f).ctxs = s.ctxs := rfl
@[simp] theorem State.setCore_refresh (s : State) (c : Nat) (f : Core → Core) : (s.setCore c f).refresh = s.refresh := rfl
@[simp] theorem State.setCore_refreshing (s : State) (c : Nat) (f : Core → Core) : (s.setCore c f).refreshing = s.refreshing := rfl
@[simp] theorem State.setCore_events (s : State) (c : Nat) (f : Core → Core) : (s.setCore c f).events = s.events := rfl
@[simp] theorem State.setCore_queues (s : State) (c : Nat) (f : Core → Core) : (s.setCore c f).queues = s.queues := rfl
@[simp] theorem State.setCore_monitors (s : State) (c : Nat) (f : Core → Core) : (s.setCore c f).monitors = s.monitors := rfl
@[simp] theorem State.setCore_regions (s : State) (c : Nat) (f : Core → Core) : (s.setCore c f).regions = s.regions := rfl
@[simp] theorem State.setCore_tdis (s : State) (c : Nat) (f : Core → Core) : (s.setCore c f).tdis = s.tdis := rfl
@[simp] theorem State.setCore_invals (s : State) (c : Nat) (f : Core → Core) : (s.setCore c f).invals = s.invals := rfl
@[simp] theorem State.setCore_ctxcmd (s : State) (c : Nat) (f : Core → Core) : (s.setCore c f).ctxcmd = s.ctxcmd := rfl
@[simp] theorem State.setCore_qcmd (s : State) (c : Nat) (f : Core → Core) : (s.setCore c f).qcmd = s.qcmd := rfl
@[simp] theorem State.setCore_qcbaddr (s : State) (c : Nat) (f : Core → Core) : (s.setCore c f).qcbaddr = s.qcbaddr := rfl
@[simp] theorem State.setCore_pwrcap (s : State) (c : Nat) (f : Core → Core) : (s.setCore c f).pwrcap = s.pwrcap := rfl
@[simp] theorem State.setCore_clockSteps (s : State) (c : Nat) (f : Core → Core) : (s.setCore c f).clockSteps = s.clockSteps := rfl
@[simp] theorem State.setCore_power (s : State) (c : Nat) (f : Core → Core) : (s.setCore c f).power = s.power := rfl
@[simp] theorem State.setCore_scanctl (s : State) (c : Nat) (f : Core → Core) : (s.setCore c f).scanctl = s.scanctl := rfl
@[simp] theorem State.setCore_corrsel (s : State) (c : Nat) (f : Core → Core) : (s.setCore c f).corrsel = s.corrsel := rfl
@[simp] theorem State.setCore_corrcyc (s : State) (c : Nat) (f : Core → Core) : (s.setCore c f).corrcyc = s.corrcyc := rfl
@[simp] theorem State.setCore_corrptm (s : State) (c : Nat) (f : Core → Core) : (s.setCore c f).corrptm = s.corrptm := rfl
@[simp] theorem State.setCore_firmware (s : State) (c : Nat) (f : Core → Core) : (s.setCore c f).firmware = s.firmware := rfl
@[simp] theorem State.setCore_fused (s : State) (c : Nat) (f : Core → Core) : (s.setCore c f).fused = s.fused := rfl
@[simp] theorem State.setCore_bringup (s : State) (c : Nat) (f : Core → Core) : (s.setCore c f).bringup = s.bringup := rfl
@[simp] theorem State.setCore_spdm (s : State) (c : Nat) (f : Core → Core) : (s.setCore c f).spdm = s.spdm := rfl
@[simp] theorem State.setCore_msix (s : State) (c : Nat) (f : Core → Core) : (s.setCore c f).msix = s.msix := rfl
@[simp] theorem State.setCore_cur (s : State) (c : Nat) (f : Core → Core) : (s.setCore c f).cur = s.cur := rfl
@[simp] theorem State.setCore_agenda (s : State) (c : Nat) (f : Core → Core) : (s.setCore c f).agenda = s.agenda := rfl
@[simp] theorem State.setCore_free (s : State) (c : Nat) (f : Core → Core) : (s.setCore c f).free = s.free := rfl
@[simp] theorem State.setCore_stamp (s : State) (c : Nat) (f : Core → Core) : (s.setCore c f).stamp = s.stamp := rfl

@[simp] theorem State.setCtx_mem (s : State) (c : Nat) (f : Context → Context) : (s.setCtx c f).mem = s.mem := rfl
@[simp] theorem State.setCtx_msc (s : State) (c : Nat) (f : Context → Context) : (s.setCtx c f).msc = s.msc := rfl
@[simp] theorem State.setCtx_poison (s : State) (c : Nat) (f : Context → Context) : (s.setCtx c f).poison = s.poison := rfl
@[simp] theorem State.setCtx_mended (s : State) (c : Nat) (f : Context → Context) : (s.setCtx c f).mended = s.mended := rfl
@[simp] theorem State.setCtx_corrected (s : State) (c : Nat) (f : Context → Context) : (s.setCtx c f).corrected = s.corrected := rfl
@[simp] theorem State.setCtx_frames (s : State) (c : Nat) (f : Context → Context) : (s.setCtx c f).frames = s.frames := rfl
@[simp] theorem State.setCtx_leaving (s : State) (c : Nat) (f : Context → Context) : (s.setCtx c f).leaving = s.leaving := rfl
@[simp] theorem State.setCtx_extents (s : State) (c : Nat) (f : Context → Context) : (s.setCtx c f).extents = s.extents := rfl
@[simp] theorem State.setCtx_granules (s : State) (c : Nat) (f : Context → Context) : (s.setCtx c f).granules = s.granules := rfl
@[simp] theorem State.setCtx_links (s : State) (c : Nat) (f : Context → Context) : (s.setCtx c f).links = s.links := rfl
@[simp] theorem State.setCtx_domain (s : State) (c : Nat) (f : Context → Context) : (s.setCtx c f).domain = s.domain := rfl
@[simp] theorem State.setCtx_domainOn (s : State) (c : Nat) (f : Context → Context) : (s.setCtx c f).domainOn = s.domainOn := rfl
@[simp] theorem State.setCtx_clusterPart (s : State) (c : Nat) (f : Context → Context) : (s.setCtx c f).clusterPart = s.clusterPart := rfl
@[simp] theorem State.setCtx_queuePart (s : State) (c : Nat) (f : Context → Context) : (s.setCtx c f).queuePart = s.queuePart := rfl
@[simp] theorem State.setCtx_cores (s : State) (c : Nat) (f : Context → Context) : (s.setCtx c f).cores = s.cores := rfl
@[simp] theorem State.setCtx_dieTlb (s : State) (c : Nat) (f : Context → Context) : (s.setCtx c f).dieTlb = s.dieTlb := rfl
@[simp] theorem State.setCtx_groups (s : State) (c : Nat) (f : Context → Context) : (s.setCtx c f).groups = s.groups := rfl
@[simp] theorem State.setCtx_teams (s : State) (c : Nat) (f : Context → Context) : (s.setCtx c f).teams = s.teams := rfl
@[simp] theorem State.setCtx_trees (s : State) (c : Nat) (f : Context → Context) : (s.setCtx c f).trees = s.trees := rfl
@[simp] theorem State.setCtx_spawnQ (s : State) (c : Nat) (f : Context → Context) : (s.setCtx c f).spawnQ = s.spawnQ := rfl
@[simp] theorem State.setCtx_refresh (s : State) (c : Nat) (f : Context → Context) : (s.setCtx c f).refresh = s.refresh := rfl
@[simp] theorem State.setCtx_refreshing (s : State) (c : Nat) (f : Context → Context) : (s.setCtx c f).refreshing = s.refreshing := rfl
@[simp] theorem State.setCtx_events (s : State) (c : Nat) (f : Context → Context) : (s.setCtx c f).events = s.events := rfl
@[simp] theorem State.setCtx_queues (s : State) (c : Nat) (f : Context → Context) : (s.setCtx c f).queues = s.queues := rfl
@[simp] theorem State.setCtx_monitors (s : State) (c : Nat) (f : Context → Context) : (s.setCtx c f).monitors = s.monitors := rfl
@[simp] theorem State.setCtx_regions (s : State) (c : Nat) (f : Context → Context) : (s.setCtx c f).regions = s.regions := rfl
@[simp] theorem State.setCtx_tdis (s : State) (c : Nat) (f : Context → Context) : (s.setCtx c f).tdis = s.tdis := rfl
@[simp] theorem State.setCtx_invals (s : State) (c : Nat) (f : Context → Context) : (s.setCtx c f).invals = s.invals := rfl
@[simp] theorem State.setCtx_ctxcmd (s : State) (c : Nat) (f : Context → Context) : (s.setCtx c f).ctxcmd = s.ctxcmd := rfl
@[simp] theorem State.setCtx_qcmd (s : State) (c : Nat) (f : Context → Context) : (s.setCtx c f).qcmd = s.qcmd := rfl
@[simp] theorem State.setCtx_qcbaddr (s : State) (c : Nat) (f : Context → Context) : (s.setCtx c f).qcbaddr = s.qcbaddr := rfl
@[simp] theorem State.setCtx_pwrcap (s : State) (c : Nat) (f : Context → Context) : (s.setCtx c f).pwrcap = s.pwrcap := rfl
@[simp] theorem State.setCtx_clockSteps (s : State) (c : Nat) (f : Context → Context) : (s.setCtx c f).clockSteps = s.clockSteps := rfl
@[simp] theorem State.setCtx_power (s : State) (c : Nat) (f : Context → Context) : (s.setCtx c f).power = s.power := rfl
@[simp] theorem State.setCtx_scanctl (s : State) (c : Nat) (f : Context → Context) : (s.setCtx c f).scanctl = s.scanctl := rfl
@[simp] theorem State.setCtx_corrsel (s : State) (c : Nat) (f : Context → Context) : (s.setCtx c f).corrsel = s.corrsel := rfl
@[simp] theorem State.setCtx_corrcyc (s : State) (c : Nat) (f : Context → Context) : (s.setCtx c f).corrcyc = s.corrcyc := rfl
@[simp] theorem State.setCtx_corrptm (s : State) (c : Nat) (f : Context → Context) : (s.setCtx c f).corrptm = s.corrptm := rfl
@[simp] theorem State.setCtx_firmware (s : State) (c : Nat) (f : Context → Context) : (s.setCtx c f).firmware = s.firmware := rfl
@[simp] theorem State.setCtx_fused (s : State) (c : Nat) (f : Context → Context) : (s.setCtx c f).fused = s.fused := rfl
@[simp] theorem State.setCtx_bringup (s : State) (c : Nat) (f : Context → Context) : (s.setCtx c f).bringup = s.bringup := rfl
@[simp] theorem State.setCtx_spdm (s : State) (c : Nat) (f : Context → Context) : (s.setCtx c f).spdm = s.spdm := rfl
@[simp] theorem State.setCtx_msix (s : State) (c : Nat) (f : Context → Context) : (s.setCtx c f).msix = s.msix := rfl
@[simp] theorem State.setCtx_cur (s : State) (c : Nat) (f : Context → Context) : (s.setCtx c f).cur = s.cur := rfl
@[simp] theorem State.setCtx_agenda (s : State) (c : Nat) (f : Context → Context) : (s.setCtx c f).agenda = s.agenda := rfl
@[simp] theorem State.setCtx_free (s : State) (c : Nat) (f : Context → Context) : (s.setCtx c f).free = s.free := rfl
@[simp] theorem State.setCtx_stamp (s : State) (c : Nat) (f : Context → Context) : (s.setCtx c f).stamp = s.stamp := rfl

@[simp] theorem State.setRing_mem (s : State) (c r : Nat) (f : Ring → Ring) : (s.setRing c r f).mem = s.mem := rfl
@[simp] theorem State.setRing_msc (s : State) (c r : Nat) (f : Ring → Ring) : (s.setRing c r f).msc = s.msc := rfl
@[simp] theorem State.setRing_poison (s : State) (c r : Nat) (f : Ring → Ring) : (s.setRing c r f).poison = s.poison := rfl
@[simp] theorem State.setRing_mended (s : State) (c r : Nat) (f : Ring → Ring) : (s.setRing c r f).mended = s.mended := rfl
@[simp] theorem State.setRing_corrected (s : State) (c r : Nat) (f : Ring → Ring) : (s.setRing c r f).corrected = s.corrected := rfl
@[simp] theorem State.setRing_frames (s : State) (c r : Nat) (f : Ring → Ring) : (s.setRing c r f).frames = s.frames := rfl
@[simp] theorem State.setRing_leaving (s : State) (c r : Nat) (f : Ring → Ring) : (s.setRing c r f).leaving = s.leaving := rfl
@[simp] theorem State.setRing_extents (s : State) (c r : Nat) (f : Ring → Ring) : (s.setRing c r f).extents = s.extents := rfl
@[simp] theorem State.setRing_granules (s : State) (c r : Nat) (f : Ring → Ring) : (s.setRing c r f).granules = s.granules := rfl
@[simp] theorem State.setRing_links (s : State) (c r : Nat) (f : Ring → Ring) : (s.setRing c r f).links = s.links := rfl
@[simp] theorem State.setRing_domain (s : State) (c r : Nat) (f : Ring → Ring) : (s.setRing c r f).domain = s.domain := rfl
@[simp] theorem State.setRing_domainOn (s : State) (c r : Nat) (f : Ring → Ring) : (s.setRing c r f).domainOn = s.domainOn := rfl
@[simp] theorem State.setRing_clusterPart (s : State) (c r : Nat) (f : Ring → Ring) : (s.setRing c r f).clusterPart = s.clusterPart := rfl
@[simp] theorem State.setRing_queuePart (s : State) (c r : Nat) (f : Ring → Ring) : (s.setRing c r f).queuePart = s.queuePart := rfl
@[simp] theorem State.setRing_cores (s : State) (c r : Nat) (f : Ring → Ring) : (s.setRing c r f).cores = s.cores := rfl
@[simp] theorem State.setRing_dieTlb (s : State) (c r : Nat) (f : Ring → Ring) : (s.setRing c r f).dieTlb = s.dieTlb := rfl
@[simp] theorem State.setRing_groups (s : State) (c r : Nat) (f : Ring → Ring) : (s.setRing c r f).groups = s.groups := rfl
@[simp] theorem State.setRing_teams (s : State) (c r : Nat) (f : Ring → Ring) : (s.setRing c r f).teams = s.teams := rfl
@[simp] theorem State.setRing_trees (s : State) (c r : Nat) (f : Ring → Ring) : (s.setRing c r f).trees = s.trees := rfl
@[simp] theorem State.setRing_spawnQ (s : State) (c r : Nat) (f : Ring → Ring) : (s.setRing c r f).spawnQ = s.spawnQ := rfl
@[simp] theorem State.setRing_refresh (s : State) (c r : Nat) (f : Ring → Ring) : (s.setRing c r f).refresh = s.refresh := rfl
@[simp] theorem State.setRing_refreshing (s : State) (c r : Nat) (f : Ring → Ring) : (s.setRing c r f).refreshing = s.refreshing := rfl
@[simp] theorem State.setRing_events (s : State) (c r : Nat) (f : Ring → Ring) : (s.setRing c r f).events = s.events := rfl
@[simp] theorem State.setRing_queues (s : State) (c r : Nat) (f : Ring → Ring) : (s.setRing c r f).queues = s.queues := rfl
@[simp] theorem State.setRing_monitors (s : State) (c r : Nat) (f : Ring → Ring) : (s.setRing c r f).monitors = s.monitors := rfl
@[simp] theorem State.setRing_regions (s : State) (c r : Nat) (f : Ring → Ring) : (s.setRing c r f).regions = s.regions := rfl
@[simp] theorem State.setRing_tdis (s : State) (c r : Nat) (f : Ring → Ring) : (s.setRing c r f).tdis = s.tdis := rfl
@[simp] theorem State.setRing_invals (s : State) (c r : Nat) (f : Ring → Ring) : (s.setRing c r f).invals = s.invals := rfl
@[simp] theorem State.setRing_ctxcmd (s : State) (c r : Nat) (f : Ring → Ring) : (s.setRing c r f).ctxcmd = s.ctxcmd := rfl
@[simp] theorem State.setRing_qcmd (s : State) (c r : Nat) (f : Ring → Ring) : (s.setRing c r f).qcmd = s.qcmd := rfl
@[simp] theorem State.setRing_qcbaddr (s : State) (c r : Nat) (f : Ring → Ring) : (s.setRing c r f).qcbaddr = s.qcbaddr := rfl
@[simp] theorem State.setRing_pwrcap (s : State) (c r : Nat) (f : Ring → Ring) : (s.setRing c r f).pwrcap = s.pwrcap := rfl
@[simp] theorem State.setRing_clockSteps (s : State) (c r : Nat) (f : Ring → Ring) : (s.setRing c r f).clockSteps = s.clockSteps := rfl
@[simp] theorem State.setRing_power (s : State) (c r : Nat) (f : Ring → Ring) : (s.setRing c r f).power = s.power := rfl
@[simp] theorem State.setRing_scanctl (s : State) (c r : Nat) (f : Ring → Ring) : (s.setRing c r f).scanctl = s.scanctl := rfl
@[simp] theorem State.setRing_corrsel (s : State) (c r : Nat) (f : Ring → Ring) : (s.setRing c r f).corrsel = s.corrsel := rfl
@[simp] theorem State.setRing_corrcyc (s : State) (c r : Nat) (f : Ring → Ring) : (s.setRing c r f).corrcyc = s.corrcyc := rfl
@[simp] theorem State.setRing_corrptm (s : State) (c r : Nat) (f : Ring → Ring) : (s.setRing c r f).corrptm = s.corrptm := rfl
@[simp] theorem State.setRing_firmware (s : State) (c r : Nat) (f : Ring → Ring) : (s.setRing c r f).firmware = s.firmware := rfl
@[simp] theorem State.setRing_fused (s : State) (c r : Nat) (f : Ring → Ring) : (s.setRing c r f).fused = s.fused := rfl
@[simp] theorem State.setRing_bringup (s : State) (c r : Nat) (f : Ring → Ring) : (s.setRing c r f).bringup = s.bringup := rfl
@[simp] theorem State.setRing_spdm (s : State) (c r : Nat) (f : Ring → Ring) : (s.setRing c r f).spdm = s.spdm := rfl
@[simp] theorem State.setRing_msix (s : State) (c r : Nat) (f : Ring → Ring) : (s.setRing c r f).msix = s.msix := rfl
@[simp] theorem State.setRing_cur (s : State) (c r : Nat) (f : Ring → Ring) : (s.setRing c r f).cur = s.cur := rfl
@[simp] theorem State.setRing_agenda (s : State) (c r : Nat) (f : Ring → Ring) : (s.setRing c r f).agenda = s.agenda := rfl
@[simp] theorem State.setRing_free (s : State) (c r : Nat) (f : Ring → Ring) : (s.setRing c r f).free = s.free := rfl
@[simp] theorem State.setRing_stamp (s : State) (c r : Nat) (f : Ring → Ring) : (s.setRing c r f).stamp = s.stamp := rfl

@[simp] theorem State.setSeg_mem (s : State) (c k : Nat) (f : Segment → Segment) : (s.setSeg c k f).mem = s.mem := rfl
@[simp] theorem State.setSeg_msc (s : State) (c k : Nat) (f : Segment → Segment) : (s.setSeg c k f).msc = s.msc := rfl
@[simp] theorem State.setSeg_poison (s : State) (c k : Nat) (f : Segment → Segment) : (s.setSeg c k f).poison = s.poison := rfl
@[simp] theorem State.setSeg_mended (s : State) (c k : Nat) (f : Segment → Segment) : (s.setSeg c k f).mended = s.mended := rfl
@[simp] theorem State.setSeg_corrected (s : State) (c k : Nat) (f : Segment → Segment) : (s.setSeg c k f).corrected = s.corrected := rfl
@[simp] theorem State.setSeg_frames (s : State) (c k : Nat) (f : Segment → Segment) : (s.setSeg c k f).frames = s.frames := rfl
@[simp] theorem State.setSeg_leaving (s : State) (c k : Nat) (f : Segment → Segment) : (s.setSeg c k f).leaving = s.leaving := rfl
@[simp] theorem State.setSeg_extents (s : State) (c k : Nat) (f : Segment → Segment) : (s.setSeg c k f).extents = s.extents := rfl
@[simp] theorem State.setSeg_granules (s : State) (c k : Nat) (f : Segment → Segment) : (s.setSeg c k f).granules = s.granules := rfl
@[simp] theorem State.setSeg_links (s : State) (c k : Nat) (f : Segment → Segment) : (s.setSeg c k f).links = s.links := rfl
@[simp] theorem State.setSeg_domain (s : State) (c k : Nat) (f : Segment → Segment) : (s.setSeg c k f).domain = s.domain := rfl
@[simp] theorem State.setSeg_domainOn (s : State) (c k : Nat) (f : Segment → Segment) : (s.setSeg c k f).domainOn = s.domainOn := rfl
@[simp] theorem State.setSeg_clusterPart (s : State) (c k : Nat) (f : Segment → Segment) : (s.setSeg c k f).clusterPart = s.clusterPart := rfl
@[simp] theorem State.setSeg_queuePart (s : State) (c k : Nat) (f : Segment → Segment) : (s.setSeg c k f).queuePart = s.queuePart := rfl
@[simp] theorem State.setSeg_cores (s : State) (c k : Nat) (f : Segment → Segment) : (s.setSeg c k f).cores = s.cores := rfl
@[simp] theorem State.setSeg_dieTlb (s : State) (c k : Nat) (f : Segment → Segment) : (s.setSeg c k f).dieTlb = s.dieTlb := rfl
@[simp] theorem State.setSeg_groups (s : State) (c k : Nat) (f : Segment → Segment) : (s.setSeg c k f).groups = s.groups := rfl
@[simp] theorem State.setSeg_teams (s : State) (c k : Nat) (f : Segment → Segment) : (s.setSeg c k f).teams = s.teams := rfl
@[simp] theorem State.setSeg_trees (s : State) (c k : Nat) (f : Segment → Segment) : (s.setSeg c k f).trees = s.trees := rfl
@[simp] theorem State.setSeg_spawnQ (s : State) (c k : Nat) (f : Segment → Segment) : (s.setSeg c k f).spawnQ = s.spawnQ := rfl
@[simp] theorem State.setSeg_refresh (s : State) (c k : Nat) (f : Segment → Segment) : (s.setSeg c k f).refresh = s.refresh := rfl
@[simp] theorem State.setSeg_refreshing (s : State) (c k : Nat) (f : Segment → Segment) : (s.setSeg c k f).refreshing = s.refreshing := rfl
@[simp] theorem State.setSeg_events (s : State) (c k : Nat) (f : Segment → Segment) : (s.setSeg c k f).events = s.events := rfl
@[simp] theorem State.setSeg_queues (s : State) (c k : Nat) (f : Segment → Segment) : (s.setSeg c k f).queues = s.queues := rfl
@[simp] theorem State.setSeg_monitors (s : State) (c k : Nat) (f : Segment → Segment) : (s.setSeg c k f).monitors = s.monitors := rfl
@[simp] theorem State.setSeg_regions (s : State) (c k : Nat) (f : Segment → Segment) : (s.setSeg c k f).regions = s.regions := rfl
@[simp] theorem State.setSeg_tdis (s : State) (c k : Nat) (f : Segment → Segment) : (s.setSeg c k f).tdis = s.tdis := rfl
@[simp] theorem State.setSeg_invals (s : State) (c k : Nat) (f : Segment → Segment) : (s.setSeg c k f).invals = s.invals := rfl
@[simp] theorem State.setSeg_ctxcmd (s : State) (c k : Nat) (f : Segment → Segment) : (s.setSeg c k f).ctxcmd = s.ctxcmd := rfl
@[simp] theorem State.setSeg_qcmd (s : State) (c k : Nat) (f : Segment → Segment) : (s.setSeg c k f).qcmd = s.qcmd := rfl
@[simp] theorem State.setSeg_qcbaddr (s : State) (c k : Nat) (f : Segment → Segment) : (s.setSeg c k f).qcbaddr = s.qcbaddr := rfl
@[simp] theorem State.setSeg_pwrcap (s : State) (c k : Nat) (f : Segment → Segment) : (s.setSeg c k f).pwrcap = s.pwrcap := rfl
@[simp] theorem State.setSeg_clockSteps (s : State) (c k : Nat) (f : Segment → Segment) : (s.setSeg c k f).clockSteps = s.clockSteps := rfl
@[simp] theorem State.setSeg_power (s : State) (c k : Nat) (f : Segment → Segment) : (s.setSeg c k f).power = s.power := rfl
@[simp] theorem State.setSeg_scanctl (s : State) (c k : Nat) (f : Segment → Segment) : (s.setSeg c k f).scanctl = s.scanctl := rfl
@[simp] theorem State.setSeg_corrsel (s : State) (c k : Nat) (f : Segment → Segment) : (s.setSeg c k f).corrsel = s.corrsel := rfl
@[simp] theorem State.setSeg_corrcyc (s : State) (c k : Nat) (f : Segment → Segment) : (s.setSeg c k f).corrcyc = s.corrcyc := rfl
@[simp] theorem State.setSeg_corrptm (s : State) (c k : Nat) (f : Segment → Segment) : (s.setSeg c k f).corrptm = s.corrptm := rfl
@[simp] theorem State.setSeg_firmware (s : State) (c k : Nat) (f : Segment → Segment) : (s.setSeg c k f).firmware = s.firmware := rfl
@[simp] theorem State.setSeg_fused (s : State) (c k : Nat) (f : Segment → Segment) : (s.setSeg c k f).fused = s.fused := rfl
@[simp] theorem State.setSeg_bringup (s : State) (c k : Nat) (f : Segment → Segment) : (s.setSeg c k f).bringup = s.bringup := rfl
@[simp] theorem State.setSeg_spdm (s : State) (c k : Nat) (f : Segment → Segment) : (s.setSeg c k f).spdm = s.spdm := rfl
@[simp] theorem State.setSeg_msix (s : State) (c k : Nat) (f : Segment → Segment) : (s.setSeg c k f).msix = s.msix := rfl
@[simp] theorem State.setSeg_cur (s : State) (c k : Nat) (f : Segment → Segment) : (s.setSeg c k f).cur = s.cur := rfl
@[simp] theorem State.setSeg_agenda (s : State) (c k : Nat) (f : Segment → Segment) : (s.setSeg c k f).agenda = s.agenda := rfl
@[simp] theorem State.setSeg_free (s : State) (c k : Nat) (f : Segment → Segment) : (s.setSeg c k f).free = s.free := rfl
@[simp] theorem State.setSeg_stamp (s : State) (c k : Nat) (f : Segment → Segment) : (s.setSeg c k f).stamp = s.stamp := rfl

@[simp] theorem State.setQueue_mem (s : State) (q : Nat) (f : HwQueue → HwQueue) : (s.setQueue q f).mem = s.mem := rfl
@[simp] theorem State.setQueue_msc (s : State) (q : Nat) (f : HwQueue → HwQueue) : (s.setQueue q f).msc = s.msc := rfl
@[simp] theorem State.setQueue_poison (s : State) (q : Nat) (f : HwQueue → HwQueue) : (s.setQueue q f).poison = s.poison := rfl
@[simp] theorem State.setQueue_mended (s : State) (q : Nat) (f : HwQueue → HwQueue) : (s.setQueue q f).mended = s.mended := rfl
@[simp] theorem State.setQueue_corrected (s : State) (q : Nat) (f : HwQueue → HwQueue) : (s.setQueue q f).corrected = s.corrected := rfl
@[simp] theorem State.setQueue_frames (s : State) (q : Nat) (f : HwQueue → HwQueue) : (s.setQueue q f).frames = s.frames := rfl
@[simp] theorem State.setQueue_leaving (s : State) (q : Nat) (f : HwQueue → HwQueue) : (s.setQueue q f).leaving = s.leaving := rfl
@[simp] theorem State.setQueue_extents (s : State) (q : Nat) (f : HwQueue → HwQueue) : (s.setQueue q f).extents = s.extents := rfl
@[simp] theorem State.setQueue_granules (s : State) (q : Nat) (f : HwQueue → HwQueue) : (s.setQueue q f).granules = s.granules := rfl
@[simp] theorem State.setQueue_links (s : State) (q : Nat) (f : HwQueue → HwQueue) : (s.setQueue q f).links = s.links := rfl
@[simp] theorem State.setQueue_domain (s : State) (q : Nat) (f : HwQueue → HwQueue) : (s.setQueue q f).domain = s.domain := rfl
@[simp] theorem State.setQueue_domainOn (s : State) (q : Nat) (f : HwQueue → HwQueue) : (s.setQueue q f).domainOn = s.domainOn := rfl
@[simp] theorem State.setQueue_clusterPart (s : State) (q : Nat) (f : HwQueue → HwQueue) : (s.setQueue q f).clusterPart = s.clusterPart := rfl
@[simp] theorem State.setQueue_queuePart (s : State) (q : Nat) (f : HwQueue → HwQueue) : (s.setQueue q f).queuePart = s.queuePart := rfl
@[simp] theorem State.setQueue_cores (s : State) (q : Nat) (f : HwQueue → HwQueue) : (s.setQueue q f).cores = s.cores := rfl
@[simp] theorem State.setQueue_dieTlb (s : State) (q : Nat) (f : HwQueue → HwQueue) : (s.setQueue q f).dieTlb = s.dieTlb := rfl
@[simp] theorem State.setQueue_groups (s : State) (q : Nat) (f : HwQueue → HwQueue) : (s.setQueue q f).groups = s.groups := rfl
@[simp] theorem State.setQueue_teams (s : State) (q : Nat) (f : HwQueue → HwQueue) : (s.setQueue q f).teams = s.teams := rfl
@[simp] theorem State.setQueue_trees (s : State) (q : Nat) (f : HwQueue → HwQueue) : (s.setQueue q f).trees = s.trees := rfl
@[simp] theorem State.setQueue_spawnQ (s : State) (q : Nat) (f : HwQueue → HwQueue) : (s.setQueue q f).spawnQ = s.spawnQ := rfl
@[simp] theorem State.setQueue_ctxs (s : State) (q : Nat) (f : HwQueue → HwQueue) : (s.setQueue q f).ctxs = s.ctxs := rfl
@[simp] theorem State.setQueue_refresh (s : State) (q : Nat) (f : HwQueue → HwQueue) : (s.setQueue q f).refresh = s.refresh := rfl
@[simp] theorem State.setQueue_refreshing (s : State) (q : Nat) (f : HwQueue → HwQueue) : (s.setQueue q f).refreshing = s.refreshing := rfl
@[simp] theorem State.setQueue_events (s : State) (q : Nat) (f : HwQueue → HwQueue) : (s.setQueue q f).events = s.events := rfl
@[simp] theorem State.setQueue_monitors (s : State) (q : Nat) (f : HwQueue → HwQueue) : (s.setQueue q f).monitors = s.monitors := rfl
@[simp] theorem State.setQueue_regions (s : State) (q : Nat) (f : HwQueue → HwQueue) : (s.setQueue q f).regions = s.regions := rfl
@[simp] theorem State.setQueue_tdis (s : State) (q : Nat) (f : HwQueue → HwQueue) : (s.setQueue q f).tdis = s.tdis := rfl
@[simp] theorem State.setQueue_invals (s : State) (q : Nat) (f : HwQueue → HwQueue) : (s.setQueue q f).invals = s.invals := rfl
@[simp] theorem State.setQueue_ctxcmd (s : State) (q : Nat) (f : HwQueue → HwQueue) : (s.setQueue q f).ctxcmd = s.ctxcmd := rfl
@[simp] theorem State.setQueue_qcmd (s : State) (q : Nat) (f : HwQueue → HwQueue) : (s.setQueue q f).qcmd = s.qcmd := rfl
@[simp] theorem State.setQueue_qcbaddr (s : State) (q : Nat) (f : HwQueue → HwQueue) : (s.setQueue q f).qcbaddr = s.qcbaddr := rfl
@[simp] theorem State.setQueue_pwrcap (s : State) (q : Nat) (f : HwQueue → HwQueue) : (s.setQueue q f).pwrcap = s.pwrcap := rfl
@[simp] theorem State.setQueue_clockSteps (s : State) (q : Nat) (f : HwQueue → HwQueue) : (s.setQueue q f).clockSteps = s.clockSteps := rfl
@[simp] theorem State.setQueue_power (s : State) (q : Nat) (f : HwQueue → HwQueue) : (s.setQueue q f).power = s.power := rfl
@[simp] theorem State.setQueue_scanctl (s : State) (q : Nat) (f : HwQueue → HwQueue) : (s.setQueue q f).scanctl = s.scanctl := rfl
@[simp] theorem State.setQueue_corrsel (s : State) (q : Nat) (f : HwQueue → HwQueue) : (s.setQueue q f).corrsel = s.corrsel := rfl
@[simp] theorem State.setQueue_corrcyc (s : State) (q : Nat) (f : HwQueue → HwQueue) : (s.setQueue q f).corrcyc = s.corrcyc := rfl
@[simp] theorem State.setQueue_corrptm (s : State) (q : Nat) (f : HwQueue → HwQueue) : (s.setQueue q f).corrptm = s.corrptm := rfl
@[simp] theorem State.setQueue_firmware (s : State) (q : Nat) (f : HwQueue → HwQueue) : (s.setQueue q f).firmware = s.firmware := rfl
@[simp] theorem State.setQueue_fused (s : State) (q : Nat) (f : HwQueue → HwQueue) : (s.setQueue q f).fused = s.fused := rfl
@[simp] theorem State.setQueue_bringup (s : State) (q : Nat) (f : HwQueue → HwQueue) : (s.setQueue q f).bringup = s.bringup := rfl
@[simp] theorem State.setQueue_spdm (s : State) (q : Nat) (f : HwQueue → HwQueue) : (s.setQueue q f).spdm = s.spdm := rfl
@[simp] theorem State.setQueue_msix (s : State) (q : Nat) (f : HwQueue → HwQueue) : (s.setQueue q f).msix = s.msix := rfl
@[simp] theorem State.setQueue_cur (s : State) (q : Nat) (f : HwQueue → HwQueue) : (s.setQueue q f).cur = s.cur := rfl
@[simp] theorem State.setQueue_agenda (s : State) (q : Nat) (f : HwQueue → HwQueue) : (s.setQueue q f).agenda = s.agenda := rfl
@[simp] theorem State.setQueue_free (s : State) (q : Nat) (f : HwQueue → HwQueue) : (s.setQueue q f).free = s.free := rfl
@[simp] theorem State.setQueue_stamp (s : State) (q : Nat) (f : HwQueue → HwQueue) : (s.setQueue q f).stamp = s.stamp := rfl

@[simp] theorem State.setMonitor_mem (s : State) (k : Nat) (f : Monitor → Monitor) : (s.setMonitor k f).mem = s.mem := rfl
@[simp] theorem State.setMonitor_msc (s : State) (k : Nat) (f : Monitor → Monitor) : (s.setMonitor k f).msc = s.msc := rfl
@[simp] theorem State.setMonitor_poison (s : State) (k : Nat) (f : Monitor → Monitor) : (s.setMonitor k f).poison = s.poison := rfl
@[simp] theorem State.setMonitor_mended (s : State) (k : Nat) (f : Monitor → Monitor) : (s.setMonitor k f).mended = s.mended := rfl
@[simp] theorem State.setMonitor_corrected (s : State) (k : Nat) (f : Monitor → Monitor) : (s.setMonitor k f).corrected = s.corrected := rfl
@[simp] theorem State.setMonitor_frames (s : State) (k : Nat) (f : Monitor → Monitor) : (s.setMonitor k f).frames = s.frames := rfl
@[simp] theorem State.setMonitor_leaving (s : State) (k : Nat) (f : Monitor → Monitor) : (s.setMonitor k f).leaving = s.leaving := rfl
@[simp] theorem State.setMonitor_extents (s : State) (k : Nat) (f : Monitor → Monitor) : (s.setMonitor k f).extents = s.extents := rfl
@[simp] theorem State.setMonitor_granules (s : State) (k : Nat) (f : Monitor → Monitor) : (s.setMonitor k f).granules = s.granules := rfl
@[simp] theorem State.setMonitor_links (s : State) (k : Nat) (f : Monitor → Monitor) : (s.setMonitor k f).links = s.links := rfl
@[simp] theorem State.setMonitor_domain (s : State) (k : Nat) (f : Monitor → Monitor) : (s.setMonitor k f).domain = s.domain := rfl
@[simp] theorem State.setMonitor_domainOn (s : State) (k : Nat) (f : Monitor → Monitor) : (s.setMonitor k f).domainOn = s.domainOn := rfl
@[simp] theorem State.setMonitor_clusterPart (s : State) (k : Nat) (f : Monitor → Monitor) : (s.setMonitor k f).clusterPart = s.clusterPart := rfl
@[simp] theorem State.setMonitor_queuePart (s : State) (k : Nat) (f : Monitor → Monitor) : (s.setMonitor k f).queuePart = s.queuePart := rfl
@[simp] theorem State.setMonitor_cores (s : State) (k : Nat) (f : Monitor → Monitor) : (s.setMonitor k f).cores = s.cores := rfl
@[simp] theorem State.setMonitor_dieTlb (s : State) (k : Nat) (f : Monitor → Monitor) : (s.setMonitor k f).dieTlb = s.dieTlb := rfl
@[simp] theorem State.setMonitor_groups (s : State) (k : Nat) (f : Monitor → Monitor) : (s.setMonitor k f).groups = s.groups := rfl
@[simp] theorem State.setMonitor_teams (s : State) (k : Nat) (f : Monitor → Monitor) : (s.setMonitor k f).teams = s.teams := rfl
@[simp] theorem State.setMonitor_trees (s : State) (k : Nat) (f : Monitor → Monitor) : (s.setMonitor k f).trees = s.trees := rfl
@[simp] theorem State.setMonitor_spawnQ (s : State) (k : Nat) (f : Monitor → Monitor) : (s.setMonitor k f).spawnQ = s.spawnQ := rfl
@[simp] theorem State.setMonitor_ctxs (s : State) (k : Nat) (f : Monitor → Monitor) : (s.setMonitor k f).ctxs = s.ctxs := rfl
@[simp] theorem State.setMonitor_refresh (s : State) (k : Nat) (f : Monitor → Monitor) : (s.setMonitor k f).refresh = s.refresh := rfl
@[simp] theorem State.setMonitor_refreshing (s : State) (k : Nat) (f : Monitor → Monitor) : (s.setMonitor k f).refreshing = s.refreshing := rfl
@[simp] theorem State.setMonitor_events (s : State) (k : Nat) (f : Monitor → Monitor) : (s.setMonitor k f).events = s.events := rfl
@[simp] theorem State.setMonitor_queues (s : State) (k : Nat) (f : Monitor → Monitor) : (s.setMonitor k f).queues = s.queues := rfl
@[simp] theorem State.setMonitor_regions (s : State) (k : Nat) (f : Monitor → Monitor) : (s.setMonitor k f).regions = s.regions := rfl
@[simp] theorem State.setMonitor_tdis (s : State) (k : Nat) (f : Monitor → Monitor) : (s.setMonitor k f).tdis = s.tdis := rfl
@[simp] theorem State.setMonitor_invals (s : State) (k : Nat) (f : Monitor → Monitor) : (s.setMonitor k f).invals = s.invals := rfl
@[simp] theorem State.setMonitor_ctxcmd (s : State) (k : Nat) (f : Monitor → Monitor) : (s.setMonitor k f).ctxcmd = s.ctxcmd := rfl
@[simp] theorem State.setMonitor_qcmd (s : State) (k : Nat) (f : Monitor → Monitor) : (s.setMonitor k f).qcmd = s.qcmd := rfl
@[simp] theorem State.setMonitor_qcbaddr (s : State) (k : Nat) (f : Monitor → Monitor) : (s.setMonitor k f).qcbaddr = s.qcbaddr := rfl
@[simp] theorem State.setMonitor_pwrcap (s : State) (k : Nat) (f : Monitor → Monitor) : (s.setMonitor k f).pwrcap = s.pwrcap := rfl
@[simp] theorem State.setMonitor_clockSteps (s : State) (k : Nat) (f : Monitor → Monitor) : (s.setMonitor k f).clockSteps = s.clockSteps := rfl
@[simp] theorem State.setMonitor_power (s : State) (k : Nat) (f : Monitor → Monitor) : (s.setMonitor k f).power = s.power := rfl
@[simp] theorem State.setMonitor_scanctl (s : State) (k : Nat) (f : Monitor → Monitor) : (s.setMonitor k f).scanctl = s.scanctl := rfl
@[simp] theorem State.setMonitor_corrsel (s : State) (k : Nat) (f : Monitor → Monitor) : (s.setMonitor k f).corrsel = s.corrsel := rfl
@[simp] theorem State.setMonitor_corrcyc (s : State) (k : Nat) (f : Monitor → Monitor) : (s.setMonitor k f).corrcyc = s.corrcyc := rfl
@[simp] theorem State.setMonitor_corrptm (s : State) (k : Nat) (f : Monitor → Monitor) : (s.setMonitor k f).corrptm = s.corrptm := rfl
@[simp] theorem State.setMonitor_firmware (s : State) (k : Nat) (f : Monitor → Monitor) : (s.setMonitor k f).firmware = s.firmware := rfl
@[simp] theorem State.setMonitor_fused (s : State) (k : Nat) (f : Monitor → Monitor) : (s.setMonitor k f).fused = s.fused := rfl
@[simp] theorem State.setMonitor_bringup (s : State) (k : Nat) (f : Monitor → Monitor) : (s.setMonitor k f).bringup = s.bringup := rfl
@[simp] theorem State.setMonitor_spdm (s : State) (k : Nat) (f : Monitor → Monitor) : (s.setMonitor k f).spdm = s.spdm := rfl
@[simp] theorem State.setMonitor_msix (s : State) (k : Nat) (f : Monitor → Monitor) : (s.setMonitor k f).msix = s.msix := rfl
@[simp] theorem State.setMonitor_cur (s : State) (k : Nat) (f : Monitor → Monitor) : (s.setMonitor k f).cur = s.cur := rfl
@[simp] theorem State.setMonitor_agenda (s : State) (k : Nat) (f : Monitor → Monitor) : (s.setMonitor k f).agenda = s.agenda := rfl
@[simp] theorem State.setMonitor_free (s : State) (k : Nat) (f : Monitor → Monitor) : (s.setMonitor k f).free = s.free := rfl
@[simp] theorem State.setMonitor_stamp (s : State) (k : Nat) (f : Monitor → Monitor) : (s.setMonitor k f).stamp = s.stamp := rfl

/-! ### What a lookup finds -/

theorem State.setGroup_group? (s : State) (g k : Nat) (f : Group → Group) :
    (s.setGroup g f).group? k = if k = g then (s.group? k).map f else s.group? k := SMap.find?_modify _ _ _ _

@[simp] theorem State.setGroup_group?_self (s : State) (g : Nat) (f : Group → Group) :
    (s.setGroup g f).group? g = (s.group? g).map f := by rw [State.setGroup_group?, if_pos rfl]

theorem State.setGroup_group?_other (s : State) {g k : Nat} (f : Group → Group) (h : k ≠ g) :
    (s.setGroup g f).group? k = s.group? k := by rw [State.setGroup_group?, if_neg h]

theorem State.setCtx_ctx? (s : State) (c k : Nat) (f : Context → Context) :
    (s.setCtx c f).ctx? k = if k = c then (s.ctx? k).map f else s.ctx? k := SMap.find?_modify _ _ _ _

theorem State.setCore_core (s : State) (c k : Nat) (f : Core → Core) :
    (s.setCore c f).core k = if k = c then f (s.core c) else s.core k := by
  simp only [State.setCore, State.core, SMap.get_put]

theorem State.setQueue_queue (s : State) (q k : Nat) (f : HwQueue → HwQueue) :
    (s.setQueue q f).queue k = if k = q then f (s.queue q) else s.queue k := by
  simp only [State.setQueue, State.queue, SMap.get_put]

theorem State.setMonitor_monitor (s : State) (m k : Nat) (f : Monitor → Monitor) :
    (s.setMonitor m f).monitor k = if k = m then f (s.monitor m) else s.monitor k := by
  simp only [State.setMonitor, State.monitor, SMap.get_put]

@[simp] theorem State.setGroup_core (s : State) (g c : Nat) (f : Group → Group) : (s.setGroup g f).core c = s.core c := rfl

@[simp] theorem State.setGroup_ctx? (s : State) (g c : Nat) (f : Group → Group) : (s.setGroup g f).ctx? c = s.ctx? c := rfl

@[simp] theorem State.setGroup_team? (s : State) (g c : Nat) (f : Group → Group) :
    (s.setGroup g f).team? c = s.team? c := rfl

@[simp] theorem State.setGroup_queue (s : State) (g c : Nat) (f : Group → Group) :
    (s.setGroup g f).queue c = s.queue c := rfl

@[simp] theorem State.setCore_group? (s : State) (c k : Nat) (f : Core → Core) : (s.setCore c f).group? k = s.group? k := rfl

@[simp] theorem State.setCore_ctx? (s : State) (c k : Nat) (f : Core → Core) : (s.setCore c f).ctx? k = s.ctx? k := rfl

@[simp] theorem State.setCtx_group? (s : State) (c k : Nat) (f : Context → Context) :
    (s.setCtx c f).group? k = s.group? k := rfl

@[simp] theorem State.setCtx_core (s : State) (c k : Nat) (f : Context → Context) : (s.setCtx c f).core k = s.core k := rfl

/-- Two changes of one group in turn are one change. -/
theorem State.setGroup_setGroup (s : State) (g : Nat) (f h : Group → Group) :
    (s.setGroup g f).setGroup g h = s.setGroup g fun x => h (f x) := by
  simp only [State.setGroup, SMap.modify, List.map_map]
  congr 1
  refine List.map_congr_left fun p _ => ?_
  simp only [Function.comp]
  by_cases e : p.1 = g <;> simp [e]

end Sys2Proof.Machine
end

