-- ==== Sys2Proof/Laws/Group.lean ====
section
/-! SUPPORT. The laws of the operations on a group: what each leaves alone, what a register reads after a write, and the form
of a window's write-back. -/

namespace Sys2Proof.Machine

open Sys2Proof

/-! ### Fields that an update leaves alone -/

@[simp] theorem Group.write_ctx (g : Group) (code : Nat) (x : DWord) : (g.write code x).ctx = g.ctx := by unfold Group.write; split <;> rfl
@[simp] theorem Group.write_tree (g : Group) (code : Nat) (x : DWord) : (g.write code x).tree = g.tree := by unfold Group.write; split <;> rfl
@[simp] theorem Group.write_gid (g : Group) (code : Nat) (x : DWord) : (g.write code x).gid = g.gid := by unfold Group.write; split <;> rfl
@[simp] theorem Group.write_team (g : Group) (code : Nat) (x : DWord) : (g.write code x).team = g.team := by unfold Group.write; split <;> rfl
@[simp] theorem Group.write_core (g : Group) (code : Nat) (x : DWord) : (g.write code x).core = g.core := by unfold Group.write; split <;> rfl
@[simp] theorem Group.write_status (g : Group) (code : Nat) (x : DWord) : (g.write code x).status = g.status := by unfold Group.write; split <;> rfl
@[simp] theorem Group.write_width (g : Group) (code : Nat) (x : DWord) : (g.write code x).width = g.width := by unfold Group.write; split <;> rfl
@[simp] theorem Group.write_vAlloc (g : Group) (code : Nat) (x : DWord) : (g.write code x).vAlloc = g.vAlloc := by unfold Group.write; split <;> rfl
@[simp] theorem Group.write_sAlloc (g : Group) (code : Nat) (x : DWord) : (g.write code x).sAlloc = g.sAlloc := by unfold Group.write; split <;> rfl
@[simp] theorem Group.write_kernel (g : Group) (code : Nat) (x : DWord) : (g.write code x).kernel = g.kernel := by unfold Group.write; split <;> rfl
@[simp] theorem Group.write_depth (g : Group) (code : Nat) (x : DWord) : (g.write code x).depth = g.depth := by unfold Group.write; split <;> rfl
@[simp] theorem Group.write_firstGid (g : Group) (code : Nat) (x : DWord) : (g.write code x).firstGid = g.firstGid := by unfold Group.write; split <;> rfl
@[simp] theorem Group.write_groupCount (g : Group) (code : Nat) (x : DWord) : (g.write code x).groupCount = g.groupCount := by unfold Group.write; split <;> rfl
@[simp] theorem Group.write_spawner (g : Group) (code : Nat) (x : DWord) : (g.write code x).spawner = g.spawner := by unfold Group.write; split <;> rfl
@[simp] theorem Group.write_hint (g : Group) (code : Nat) (x : DWord) : (g.write code x).hint = g.hint := by unfold Group.write; split <;> rfl
@[simp] theorem Group.write_args (g : Group) (code : Nat) (x : DWord) : (g.write code x).args = g.args := by unfold Group.write; split <;> rfl
@[simp] theorem Group.write_argFaults (g : Group) (code : Nat) (x : DWord) : (g.write code x).argFaults = g.argFaults := by unfold Group.write; split <;> rfl
@[simp] theorem Group.write_bank (g : Group) (code : Nat) (x : DWord) : (g.write code x).bank = g.bank := by unfold Group.write; split <;> rfl
@[simp] theorem Group.write_empty (g : Group) (code : Nat) (x : DWord) : (g.write code x).empty = g.empty := by unfold Group.write; split <;> rfl
@[simp] theorem Group.write_winC (g : Group) (code : Nat) (x : DWord) : (g.write code x).winC = g.winC := by unfold Group.write; split <;> rfl
@[simp] theorem Group.write_winA (g : Group) (code : Nat) (x : DWord) : (g.write code x).winA = g.winA := by unfold Group.write; split <;> rfl
@[simp] theorem Group.write_sentC (g : Group) (code : Nat) (x : DWord) : (g.write code x).sentC = g.sentC := by unfold Group.write; split <;> rfl
@[simp] theorem Group.write_sentA (g : Group) (code : Nat) (x : DWord) : (g.write code x).sentA = g.sentA := by unfold Group.write; split <;> rfl
@[simp] theorem Group.write_threads (g : Group) (code : Nat) (x : DWord) : (g.write code x).threads = g.threads := by unfold Group.write; split <;> rfl
@[simp] theorem Group.write_frC (g : Group) (code : Nat) (x : DWord) : (g.write code x).frC = g.frC := by unfold Group.write; split <;> rfl
@[simp] theorem Group.write_frA (g : Group) (code : Nat) (x : DWord) : (g.write code x).frA = g.frA := by unfold Group.write; split <;> rfl
@[simp] theorem Group.write_nextId (g : Group) (code : Nat) (x : DWord) : (g.write code x).nextId = g.nextId := by unfold Group.write; split <;> rfl
@[simp] theorem Group.write_accs (g : Group) (code : Nat) (x : DWord) : (g.write code x).accs = g.accs := by unfold Group.write; split <;> rfl
@[simp] theorem Group.write_ops (g : Group) (code : Nat) (x : DWord) : (g.write code x).ops = g.ops := by unfold Group.write; split <;> rfl
@[simp] theorem Group.write_slow (g : Group) (code : Nat) (x : DWord) : (g.write code x).slow = g.slow := by unfold Group.write; split <;> rfl
@[simp] theorem Group.write_seqs (g : Group) (code : Nat) (x : DWord) : (g.write code x).seqs = g.seqs := by unfold Group.write; split <;> rfl
@[simp] theorem Group.write_mstat (g : Group) (code : Nat) (x : DWord) : (g.write code x).mstat = g.mstat := by unfold Group.write; split <;> rfl
@[simp] theorem Group.write_vstat (g : Group) (code : Nat) (x : DWord) : (g.write code x).vstat = g.vstat := by unfold Group.write; split <;> rfl
@[simp] theorem Group.write_attach (g : Group) (code : Nat) (x : DWord) : (g.write code x).attach = g.attach := by unfold Group.write; split <;> rfl
@[simp] theorem Group.write_waited (g : Group) (code : Nat) (x : DWord) : (g.write code x).waited = g.waited := by unfold Group.write; split <;> rfl
@[simp] theorem Group.write_resided (g : Group) (code : Nat) (x : DWord) : (g.write code x).resided = g.resided := by unfold Group.write; split <;> rfl
@[simp] theorem Group.write_idle (g : Group) (code : Nat) (x : DWord) : (g.write code x).idle = g.idle := by unfold Group.write; split <;> rfl
@[simp] theorem Group.write_waitDue (g : Group) (code : Nat) (x : DWord) : (g.write code x).waitDue = g.waitDue := by unfold Group.write; split <;> rfl
@[simp] theorem Group.write_residedDue (g : Group) (code : Nat) (x : DWord) : (g.write code x).residedDue = g.residedDue := by unfold Group.write; split <;> rfl
@[simp] theorem Group.write_idleDue (g : Group) (code : Nat) (x : DWord) : (g.write code x).idleDue = g.idleDue := by unfold Group.write; split <;> rfl
@[simp] theorem Group.write_order (g : Group) (code : Nat) (x : DWord) : (g.write code x).order = g.order := by unfold Group.write; split <;> rfl
@[simp] theorem Group.write_spillSlot (g : Group) (code : Nat) (x : DWord) : (g.write code x).spillSlot = g.spillSlot := by unfold Group.write; split <;> rfl
@[simp] theorem Group.write_parkFaults (g : Group) (code : Nat) (x : DWord) : (g.write code x).parkFaults = g.parkFaults := by unfold Group.write; split <;> rfl
@[simp] theorem Group.write_owed (g : Group) (code : Nat) (x : DWord) : (g.write code x).owed = g.owed := by unfold Group.write; split <;> rfl

theorem Group.writeAll_keeps {β : Type} (φ : Group → β) (h : ∀ g c x, φ (Group.write g c x) = φ g) (g : Group)
    (ws : List (Nat × DWord)) : φ (g.writeAll ws) = φ g := by
  unfold Group.writeAll
  induction ws generalizing g with
  | nil => rfl
  | cons w ws ih => rw [List.foldl_cons, ih, h]

@[simp] theorem Group.writeAll_ctx (g : Group) (ws : List (Nat × DWord)) : (g.writeAll ws).ctx = g.ctx :=
  Group.writeAll_keeps (·.ctx) (fun g c x => Group.write_ctx g c x) g ws
@[simp] theorem Group.writeAll_tree (g : Group) (ws : List (Nat × DWord)) : (g.writeAll ws).tree = g.tree :=
  Group.writeAll_keeps (·.tree) (fun g c x => Group.write_tree g c x) g ws
@[simp] theorem Group.writeAll_gid (g : Group) (ws : List (Nat × DWord)) : (g.writeAll ws).gid = g.gid :=
  Group.writeAll_keeps (·.gid) (fun g c x => Group.write_gid g c x) g ws
@[simp] theorem Group.writeAll_team (g : Group) (ws : List (Nat × DWord)) : (g.writeAll ws).team = g.team :=
  Group.writeAll_keeps (·.team) (fun g c x => Group.write_team g c x) g ws
@[simp] theorem Group.writeAll_core (g : Group) (ws : List (Nat × DWord)) : (g.writeAll ws).core = g.core :=
  Group.writeAll_keeps (·.core) (fun g c x => Group.write_core g c x) g ws
@[simp] theorem Group.writeAll_status (g : Group) (ws : List (Nat × DWord)) : (g.writeAll ws).status = g.status :=
  Group.writeAll_keeps (·.status) (fun g c x => Group.write_status g c x) g ws
@[simp] theorem Group.writeAll_width (g : Group) (ws : List (Nat × DWord)) : (g.writeAll ws).width = g.width :=
  Group.writeAll_keeps (·.width) (fun g c x => Group.write_width g c x) g ws
@[simp] theorem Group.writeAll_vAlloc (g : Group) (ws : List (Nat × DWord)) : (g.writeAll ws).vAlloc = g.vAlloc :=
  Group.writeAll_keeps (·.vAlloc) (fun g c x => Group.write_vAlloc g c x) g ws
@[simp] theorem Group.writeAll_sAlloc (g : Group) (ws : List (Nat × DWord)) : (g.writeAll ws).sAlloc = g.sAlloc :=
  Group.writeAll_keeps (·.sAlloc) (fun g c x => Group.write_sAlloc g c x) g ws
@[simp] theorem Group.writeAll_kernel (g : Group) (ws : List (Nat × DWord)) : (g.writeAll ws).kernel = g.kernel :=
  Group.writeAll_keeps (·.kernel) (fun g c x => Group.write_kernel g c x) g ws
@[simp] theorem Group.writeAll_depth (g : Group) (ws : List (Nat × DWord)) : (g.writeAll ws).depth = g.depth :=
  Group.writeAll_keeps (·.depth) (fun g c x => Group.write_depth g c x) g ws
@[simp] theorem Group.writeAll_firstGid (g : Group) (ws : List (Nat × DWord)) : (g.writeAll ws).firstGid = g.firstGid :=
  Group.writeAll_keeps (·.firstGid) (fun g c x => Group.write_firstGid g c x) g ws
@[simp] theorem Group.writeAll_groupCount (g : Group) (ws : List (Nat × DWord)) : (g.writeAll ws).groupCount = g.groupCount :=
  Group.writeAll_keeps (·.groupCount) (fun g c x => Group.write_groupCount g c x) g ws
@[simp] theorem Group.writeAll_spawner (g : Group) (ws : List (Nat × DWord)) : (g.writeAll ws).spawner = g.spawner :=
  Group.writeAll_keeps (·.spawner) (fun g c x => Group.write_spawner g c x) g ws
@[simp] theorem Group.writeAll_hint (g : Group) (ws : List (Nat × DWord)) : (g.writeAll ws).hint = g.hint :=
  Group.writeAll_keeps (·.hint) (fun g c x => Group.write_hint g c x) g ws
@[simp] theorem Group.writeAll_args (g : Group) (ws : List (Nat × DWord)) : (g.writeAll ws).args = g.args :=
  Group.writeAll_keeps (·.args) (fun g c x => Group.write_args g c x) g ws
@[simp] theorem Group.writeAll_argFaults (g : Group) (ws : List (Nat × DWord)) : (g.writeAll ws).argFaults = g.argFaults :=
  Group.writeAll_keeps (·.argFaults) (fun g c x => Group.write_argFaults g c x) g ws
@[simp] theorem Group.writeAll_bank (g : Group) (ws : List (Nat × DWord)) : (g.writeAll ws).bank = g.bank :=
  Group.writeAll_keeps (·.bank) (fun g c x => Group.write_bank g c x) g ws
@[simp] theorem Group.writeAll_empty (g : Group) (ws : List (Nat × DWord)) : (g.writeAll ws).empty = g.empty :=
  Group.writeAll_keeps (·.empty) (fun g c x => Group.write_empty g c x) g ws
@[simp] theorem Group.writeAll_winC (g : Group) (ws : List (Nat × DWord)) : (g.writeAll ws).winC = g.winC :=
  Group.writeAll_keeps (·.winC) (fun g c x => Group.write_winC g c x) g ws
@[simp] theorem Group.writeAll_winA (g : Group) (ws : List (Nat × DWord)) : (g.writeAll ws).winA = g.winA :=
  Group.writeAll_keeps (·.winA) (fun g c x => Group.write_winA g c x) g ws
@[simp] theorem Group.writeAll_sentC (g : Group) (ws : List (Nat × DWord)) : (g.writeAll ws).sentC = g.sentC :=
  Group.writeAll_keeps (·.sentC) (fun g c x => Group.write_sentC g c x) g ws
@[simp] theorem Group.writeAll_sentA (g : Group) (ws : List (Nat × DWord)) : (g.writeAll ws).sentA = g.sentA :=
  Group.writeAll_keeps (·.sentA) (fun g c x => Group.write_sentA g c x) g ws
@[simp] theorem Group.writeAll_threads (g : Group) (ws : List (Nat × DWord)) : (g.writeAll ws).threads = g.threads :=
  Group.writeAll_keeps (·.threads) (fun g c x => Group.write_threads g c x) g ws
@[simp] theorem Group.writeAll_frC (g : Group) (ws : List (Nat × DWord)) : (g.writeAll ws).frC = g.frC :=
  Group.writeAll_keeps (·.frC) (fun g c x => Group.write_frC g c x) g ws
@[simp] theorem Group.writeAll_frA (g : Group) (ws : List (Nat × DWord)) : (g.writeAll ws).frA = g.frA :=
  Group.writeAll_keeps (·.frA) (fun g c x => Group.write_frA g c x) g ws
@[simp] theorem Group.writeAll_nextId (g : Group) (ws : List (Nat × DWord)) : (g.writeAll ws).nextId = g.nextId :=
  Group.writeAll_keeps (·.nextId) (fun g c x => Group.write_nextId g c x) g ws
@[simp] theorem Group.writeAll_accs (g : Group) (ws : List (Nat × DWord)) : (g.writeAll ws).accs = g.accs :=
  Group.writeAll_keeps (·.accs) (fun g c x => Group.write_accs g c x) g ws
@[simp] theorem Group.writeAll_ops (g : Group) (ws : List (Nat × DWord)) : (g.writeAll ws).ops = g.ops :=
  Group.writeAll_keeps (·.ops) (fun g c x => Group.write_ops g c x) g ws
@[simp] theorem Group.writeAll_slow (g : Group) (ws : List (Nat × DWord)) : (g.writeAll ws).slow = g.slow :=
  Group.writeAll_keeps (·.slow) (fun g c x => Group.write_slow g c x) g ws
@[simp] theorem Group.writeAll_seqs (g : Group) (ws : List (Nat × DWord)) : (g.writeAll ws).seqs = g.seqs :=
  Group.writeAll_keeps (·.seqs) (fun g c x => Group.write_seqs g c x) g ws
@[simp] theorem Group.writeAll_mstat (g : Group) (ws : List (Nat × DWord)) : (g.writeAll ws).mstat = g.mstat :=
  Group.writeAll_keeps (·.mstat) (fun g c x => Group.write_mstat g c x) g ws
@[simp] theorem Group.writeAll_vstat (g : Group) (ws : List (Nat × DWord)) : (g.writeAll ws).vstat = g.vstat :=
  Group.writeAll_keeps (·.vstat) (fun g c x => Group.write_vstat g c x) g ws
@[simp] theorem Group.writeAll_attach (g : Group) (ws : List (Nat × DWord)) : (g.writeAll ws).attach = g.attach :=
  Group.writeAll_keeps (·.attach) (fun g c x => Group.write_attach g c x) g ws
@[simp] theorem Group.writeAll_waited (g : Group) (ws : List (Nat × DWord)) : (g.writeAll ws).waited = g.waited :=
  Group.writeAll_keeps (·.waited) (fun g c x => Group.write_waited g c x) g ws
@[simp] theorem Group.writeAll_resided (g : Group) (ws : List (Nat × DWord)) : (g.writeAll ws).resided = g.resided :=
  Group.writeAll_keeps (·.resided) (fun g c x => Group.write_resided g c x) g ws
@[simp] theorem Group.writeAll_idle (g : Group) (ws : List (Nat × DWord)) : (g.writeAll ws).idle = g.idle :=
  Group.writeAll_keeps (·.idle) (fun g c x => Group.write_idle g c x) g ws
@[simp] theorem Group.writeAll_waitDue (g : Group) (ws : List (Nat × DWord)) : (g.writeAll ws).waitDue = g.waitDue :=
  Group.writeAll_keeps (·.waitDue) (fun g c x => Group.write_waitDue g c x) g ws
@[simp] theorem Group.writeAll_residedDue (g : Group) (ws : List (Nat × DWord)) : (g.writeAll ws).residedDue = g.residedDue :=
  Group.writeAll_keeps (·.residedDue) (fun g c x => Group.write_residedDue g c x) g ws
@[simp] theorem Group.writeAll_idleDue (g : Group) (ws : List (Nat × DWord)) : (g.writeAll ws).idleDue = g.idleDue :=
  Group.writeAll_keeps (·.idleDue) (fun g c x => Group.write_idleDue g c x) g ws
@[simp] theorem Group.writeAll_order (g : Group) (ws : List (Nat × DWord)) : (g.writeAll ws).order = g.order :=
  Group.writeAll_keeps (·.order) (fun g c x => Group.write_order g c x) g ws
@[simp] theorem Group.writeAll_spillSlot (g : Group) (ws : List (Nat × DWord)) : (g.writeAll ws).spillSlot = g.spillSlot :=
  Group.writeAll_keeps (·.spillSlot) (fun g c x => Group.write_spillSlot g c x) g ws
@[simp] theorem Group.writeAll_parkFaults (g : Group) (ws : List (Nat × DWord)) : (g.writeAll ws).parkFaults = g.parkFaults :=
  Group.writeAll_keeps (·.parkFaults) (fun g c x => Group.write_parkFaults g c x) g ws
@[simp] theorem Group.writeAll_owed (g : Group) (ws : List (Nat × DWord)) : (g.writeAll ws).owed = g.owed :=
  Group.writeAll_keeps (·.owed) (fun g c x => Group.write_owed g c x) g ws

theorem Group.writeBack_keeps {β : Type} (φ : Group → β)
    (h : ∀ (g : Group) b l r, φ { g with bank := b, loose := l, stores := r } = φ g) (g : Group) (cs : List Nat) :
    φ (g.writeBack cs) = φ g := by
  unfold Group.writeBack
  induction cs generalizing g with
  | nil => rfl
  | cons c cs ih => rw [List.foldl_cons, ih, h]

@[simp] theorem Group.writeBack_ctx (g : Group) (cs : List Nat) : (g.writeBack cs).ctx = g.ctx :=
  Group.writeBack_keeps (·.ctx) (fun _ _ _ _ => rfl) g cs
@[simp] theorem Group.writeBack_tree (g : Group) (cs : List Nat) : (g.writeBack cs).tree = g.tree :=
  Group.writeBack_keeps (·.tree) (fun _ _ _ _ => rfl) g cs
@[simp] theorem Group.writeBack_gid (g : Group) (cs : List Nat) : (g.writeBack cs).gid = g.gid :=
  Group.writeBack_keeps (·.gid) (fun _ _ _ _ => rfl) g cs
@[simp] theorem Group.writeBack_team (g : Group) (cs : List Nat) : (g.writeBack cs).team = g.team :=
  Group.writeBack_keeps (·.team) (fun _ _ _ _ => rfl) g cs
@[simp] theorem Group.writeBack_core (g : Group) (cs : List Nat) : (g.writeBack cs).core = g.core :=
  Group.writeBack_keeps (·.core) (fun _ _ _ _ => rfl) g cs
@[simp] theorem Group.writeBack_status (g : Group) (cs : List Nat) : (g.writeBack cs).status = g.status :=
  Group.writeBack_keeps (·.status) (fun _ _ _ _ => rfl) g cs
@[simp] theorem Group.writeBack_width (g : Group) (cs : List Nat) : (g.writeBack cs).width = g.width :=
  Group.writeBack_keeps (·.width) (fun _ _ _ _ => rfl) g cs
@[simp] theorem Group.writeBack_vAlloc (g : Group) (cs : List Nat) : (g.writeBack cs).vAlloc = g.vAlloc :=
  Group.writeBack_keeps (·.vAlloc) (fun _ _ _ _ => rfl) g cs
@[simp] theorem Group.writeBack_sAlloc (g : Group) (cs : List Nat) : (g.writeBack cs).sAlloc = g.sAlloc :=
  Group.writeBack_keeps (·.sAlloc) (fun _ _ _ _ => rfl) g cs
@[simp] theorem Group.writeBack_kernel (g : Group) (cs : List Nat) : (g.writeBack cs).kernel = g.kernel :=
  Group.writeBack_keeps (·.kernel) (fun _ _ _ _ => rfl) g cs
@[simp] theorem Group.writeBack_depth (g : Group) (cs : List Nat) : (g.writeBack cs).depth = g.depth :=
  Group.writeBack_keeps (·.depth) (fun _ _ _ _ => rfl) g cs
@[simp] theorem Group.writeBack_firstGid (g : Group) (cs : List Nat) : (g.writeBack cs).firstGid = g.firstGid :=
  Group.writeBack_keeps (·.firstGid) (fun _ _ _ _ => rfl) g cs
@[simp] theorem Group.writeBack_groupCount (g : Group) (cs : List Nat) : (g.writeBack cs).groupCount = g.groupCount :=
  Group.writeBack_keeps (·.groupCount) (fun _ _ _ _ => rfl) g cs
@[simp] theorem Group.writeBack_spawner (g : Group) (cs : List Nat) : (g.writeBack cs).spawner = g.spawner :=
  Group.writeBack_keeps (·.spawner) (fun _ _ _ _ => rfl) g cs
@[simp] theorem Group.writeBack_hint (g : Group) (cs : List Nat) : (g.writeBack cs).hint = g.hint :=
  Group.writeBack_keeps (·.hint) (fun _ _ _ _ => rfl) g cs
@[simp] theorem Group.writeBack_args (g : Group) (cs : List Nat) : (g.writeBack cs).args = g.args :=
  Group.writeBack_keeps (·.args) (fun _ _ _ _ => rfl) g cs
@[simp] theorem Group.writeBack_argFaults (g : Group) (cs : List Nat) : (g.writeBack cs).argFaults = g.argFaults :=
  Group.writeBack_keeps (·.argFaults) (fun _ _ _ _ => rfl) g cs
@[simp] theorem Group.writeBack_regs (g : Group) (cs : List Nat) : (g.writeBack cs).regs = g.regs :=
  Group.writeBack_keeps (·.regs) (fun _ _ _ _ => rfl) g cs
@[simp] theorem Group.writeBack_empty (g : Group) (cs : List Nat) : (g.writeBack cs).empty = g.empty :=
  Group.writeBack_keeps (·.empty) (fun _ _ _ _ => rfl) g cs
@[simp] theorem Group.writeBack_winC (g : Group) (cs : List Nat) : (g.writeBack cs).winC = g.winC :=
  Group.writeBack_keeps (·.winC) (fun _ _ _ _ => rfl) g cs
@[simp] theorem Group.writeBack_winA (g : Group) (cs : List Nat) : (g.writeBack cs).winA = g.winA :=
  Group.writeBack_keeps (·.winA) (fun _ _ _ _ => rfl) g cs
@[simp] theorem Group.writeBack_sentC (g : Group) (cs : List Nat) : (g.writeBack cs).sentC = g.sentC :=
  Group.writeBack_keeps (·.sentC) (fun _ _ _ _ => rfl) g cs
@[simp] theorem Group.writeBack_sentA (g : Group) (cs : List Nat) : (g.writeBack cs).sentA = g.sentA :=
  Group.writeBack_keeps (·.sentA) (fun _ _ _ _ => rfl) g cs
@[simp] theorem Group.writeBack_threads (g : Group) (cs : List Nat) : (g.writeBack cs).threads = g.threads :=
  Group.writeBack_keeps (·.threads) (fun _ _ _ _ => rfl) g cs
@[simp] theorem Group.writeBack_frC (g : Group) (cs : List Nat) : (g.writeBack cs).frC = g.frC :=
  Group.writeBack_keeps (·.frC) (fun _ _ _ _ => rfl) g cs
@[simp] theorem Group.writeBack_frA (g : Group) (cs : List Nat) : (g.writeBack cs).frA = g.frA :=
  Group.writeBack_keeps (·.frA) (fun _ _ _ _ => rfl) g cs
@[simp] theorem Group.writeBack_nextId (g : Group) (cs : List Nat) : (g.writeBack cs).nextId = g.nextId :=
  Group.writeBack_keeps (·.nextId) (fun _ _ _ _ => rfl) g cs
@[simp] theorem Group.writeBack_accs (g : Group) (cs : List Nat) : (g.writeBack cs).accs = g.accs :=
  Group.writeBack_keeps (·.accs) (fun _ _ _ _ => rfl) g cs
@[simp] theorem Group.writeBack_ops (g : Group) (cs : List Nat) : (g.writeBack cs).ops = g.ops :=
  Group.writeBack_keeps (·.ops) (fun _ _ _ _ => rfl) g cs
@[simp] theorem Group.writeBack_slow (g : Group) (cs : List Nat) : (g.writeBack cs).slow = g.slow :=
  Group.writeBack_keeps (·.slow) (fun _ _ _ _ => rfl) g cs
@[simp] theorem Group.writeBack_seqs (g : Group) (cs : List Nat) : (g.writeBack cs).seqs = g.seqs :=
  Group.writeBack_keeps (·.seqs) (fun _ _ _ _ => rfl) g cs
@[simp] theorem Group.writeBack_mstat (g : Group) (cs : List Nat) : (g.writeBack cs).mstat = g.mstat :=
  Group.writeBack_keeps (·.mstat) (fun _ _ _ _ => rfl) g cs
@[simp] theorem Group.writeBack_vstat (g : Group) (cs : List Nat) : (g.writeBack cs).vstat = g.vstat :=
  Group.writeBack_keeps (·.vstat) (fun _ _ _ _ => rfl) g cs
@[simp] theorem Group.writeBack_attach (g : Group) (cs : List Nat) : (g.writeBack cs).attach = g.attach :=
  Group.writeBack_keeps (·.attach) (fun _ _ _ _ => rfl) g cs
@[simp] theorem Group.writeBack_waited (g : Group) (cs : List Nat) : (g.writeBack cs).waited = g.waited :=
  Group.writeBack_keeps (·.waited) (fun _ _ _ _ => rfl) g cs
@[simp] theorem Group.writeBack_resided (g : Group) (cs : List Nat) : (g.writeBack cs).resided = g.resided :=
  Group.writeBack_keeps (·.resided) (fun _ _ _ _ => rfl) g cs
@[simp] theorem Group.writeBack_idle (g : Group) (cs : List Nat) : (g.writeBack cs).idle = g.idle :=
  Group.writeBack_keeps (·.idle) (fun _ _ _ _ => rfl) g cs
@[simp] theorem Group.writeBack_waitDue (g : Group) (cs : List Nat) : (g.writeBack cs).waitDue = g.waitDue :=
  Group.writeBack_keeps (·.waitDue) (fun _ _ _ _ => rfl) g cs
@[simp] theorem Group.writeBack_residedDue (g : Group) (cs : List Nat) : (g.writeBack cs).residedDue = g.residedDue :=
  Group.writeBack_keeps (·.residedDue) (fun _ _ _ _ => rfl) g cs
@[simp] theorem Group.writeBack_idleDue (g : Group) (cs : List Nat) : (g.writeBack cs).idleDue = g.idleDue :=
  Group.writeBack_keeps (·.idleDue) (fun _ _ _ _ => rfl) g cs
@[simp] theorem Group.writeBack_order (g : Group) (cs : List Nat) : (g.writeBack cs).order = g.order :=
  Group.writeBack_keeps (·.order) (fun _ _ _ _ => rfl) g cs
@[simp] theorem Group.writeBack_spillSlot (g : Group) (cs : List Nat) : (g.writeBack cs).spillSlot = g.spillSlot :=
  Group.writeBack_keeps (·.spillSlot) (fun _ _ _ _ => rfl) g cs
@[simp] theorem Group.writeBack_parkFaults (g : Group) (cs : List Nat) : (g.writeBack cs).parkFaults = g.parkFaults :=
  Group.writeBack_keeps (·.parkFaults) (fun _ _ _ _ => rfl) g cs
@[simp] theorem Group.writeBack_owed (g : Group) (cs : List Nat) : (g.writeBack cs).owed = g.owed :=
  Group.writeBack_keeps (·.owed) (fun _ _ _ _ => rfl) g cs

@[simp] theorem Group.setWindow_ctx (g : Group) (st : Strand) (w : List (List Nat)) : (g.setWindow st w).ctx = g.ctx := by cases st <;> rfl
@[simp] theorem Group.setWindow_tree (g : Group) (st : Strand) (w : List (List Nat)) : (g.setWindow st w).tree = g.tree := by cases st <;> rfl
@[simp] theorem Group.setWindow_gid (g : Group) (st : Strand) (w : List (List Nat)) : (g.setWindow st w).gid = g.gid := by cases st <;> rfl
@[simp] theorem Group.setWindow_team (g : Group) (st : Strand) (w : List (List Nat)) : (g.setWindow st w).team = g.team := by cases st <;> rfl
@[simp] theorem Group.setWindow_core (g : Group) (st : Strand) (w : List (List Nat)) : (g.setWindow st w).core = g.core := by cases st <;> rfl
@[simp] theorem Group.setWindow_status (g : Group) (st : Strand) (w : List (List Nat)) : (g.setWindow st w).status = g.status := by cases st <;> rfl
@[simp] theorem Group.setWindow_width (g : Group) (st : Strand) (w : List (List Nat)) : (g.setWindow st w).width = g.width := by cases st <;> rfl
@[simp] theorem Group.setWindow_vAlloc (g : Group) (st : Strand) (w : List (List Nat)) : (g.setWindow st w).vAlloc = g.vAlloc := by cases st <;> rfl
@[simp] theorem Group.setWindow_sAlloc (g : Group) (st : Strand) (w : List (List Nat)) : (g.setWindow st w).sAlloc = g.sAlloc := by cases st <;> rfl
@[simp] theorem Group.setWindow_kernel (g : Group) (st : Strand) (w : List (List Nat)) : (g.setWindow st w).kernel = g.kernel := by cases st <;> rfl
@[simp] theorem Group.setWindow_depth (g : Group) (st : Strand) (w : List (List Nat)) : (g.setWindow st w).depth = g.depth := by cases st <;> rfl
@[simp] theorem Group.setWindow_firstGid (g : Group) (st : Strand) (w : List (List Nat)) : (g.setWindow st w).firstGid = g.firstGid := by cases st <;> rfl
@[simp] theorem Group.setWindow_groupCount (g : Group) (st : Strand) (w : List (List Nat)) : (g.setWindow st w).groupCount = g.groupCount := by cases st <;> rfl
@[simp] theorem Group.setWindow_spawner (g : Group) (st : Strand) (w : List (List Nat)) : (g.setWindow st w).spawner = g.spawner := by cases st <;> rfl
@[simp] theorem Group.setWindow_hint (g : Group) (st : Strand) (w : List (List Nat)) : (g.setWindow st w).hint = g.hint := by cases st <;> rfl
@[simp] theorem Group.setWindow_args (g : Group) (st : Strand) (w : List (List Nat)) : (g.setWindow st w).args = g.args := by cases st <;> rfl
@[simp] theorem Group.setWindow_argFaults (g : Group) (st : Strand) (w : List (List Nat)) : (g.setWindow st w).argFaults = g.argFaults := by cases st <;> rfl
@[simp] theorem Group.setWindow_regs (g : Group) (st : Strand) (w : List (List Nat)) : (g.setWindow st w).regs = g.regs := by cases st <;> rfl
@[simp] theorem Group.setWindow_bank (g : Group) (st : Strand) (w : List (List Nat)) : (g.setWindow st w).bank = g.bank := by cases st <;> rfl
@[simp] theorem Group.setWindow_empty (g : Group) (st : Strand) (w : List (List Nat)) : (g.setWindow st w).empty = g.empty := by cases st <;> rfl
@[simp] theorem Group.setWindow_loose (g : Group) (st : Strand) (w : List (List Nat)) : (g.setWindow st w).loose = g.loose := by cases st <;> rfl
@[simp] theorem Group.setWindow_stores (g : Group) (st : Strand) (w : List (List Nat)) : (g.setWindow st w).stores = g.stores := by cases st <;> rfl
@[simp] theorem Group.setWindow_sentC (g : Group) (st : Strand) (w : List (List Nat)) : (g.setWindow st w).sentC = g.sentC := by cases st <;> rfl
@[simp] theorem Group.setWindow_sentA (g : Group) (st : Strand) (w : List (List Nat)) : (g.setWindow st w).sentA = g.sentA := by cases st <;> rfl
@[simp] theorem Group.setWindow_threads (g : Group) (st : Strand) (w : List (List Nat)) : (g.setWindow st w).threads = g.threads := by cases st <;> rfl
@[simp] theorem Group.setWindow_frC (g : Group) (st : Strand) (w : List (List Nat)) : (g.setWindow st w).frC = g.frC := by cases st <;> rfl
@[simp] theorem Group.setWindow_frA (g : Group) (st : Strand) (w : List (List Nat)) : (g.setWindow st w).frA = g.frA := by cases st <;> rfl
@[simp] theorem Group.setWindow_nextId (g : Group) (st : Strand) (w : List (List Nat)) : (g.setWindow st w).nextId = g.nextId := by cases st <;> rfl
@[simp] theorem Group.setWindow_accs (g : Group) (st : Strand) (w : List (List Nat)) : (g.setWindow st w).accs = g.accs := by cases st <;> rfl
@[simp] theorem Group.setWindow_ops (g : Group) (st : Strand) (w : List (List Nat)) : (g.setWindow st w).ops = g.ops := by cases st <;> rfl
@[simp] theorem Group.setWindow_slow (g : Group) (st : Strand) (w : List (List Nat)) : (g.setWindow st w).slow = g.slow := by cases st <;> rfl
@[simp] theorem Group.setWindow_seqs (g : Group) (st : Strand) (w : List (List Nat)) : (g.setWindow st w).seqs = g.seqs := by cases st <;> rfl
@[simp] theorem Group.setWindow_mstat (g : Group) (st : Strand) (w : List (List Nat)) : (g.setWindow st w).mstat = g.mstat := by cases st <;> rfl
@[simp] theorem Group.setWindow_vstat (g : Group) (st : Strand) (w : List (List Nat)) : (g.setWindow st w).vstat = g.vstat := by cases st <;> rfl
@[simp] theorem Group.setWindow_attach (g : Group) (st : Strand) (w : List (List Nat)) : (g.setWindow st w).attach = g.attach := by cases st <;> rfl
@[simp] theorem Group.setWindow_waited (g : Group) (st : Strand) (w : List (List Nat)) : (g.setWindow st w).waited = g.waited := by cases st <;> rfl
@[simp] theorem Group.setWindow_resided (g : Group) (st : Strand) (w : List (List Nat)) : (g.setWindow st w).resided = g.resided := by cases st <;> rfl
@[simp] theorem Group.setWindow_idle (g : Group) (st : Strand) (w : List (List Nat)) : (g.setWindow st w).idle = g.idle := by cases st <;> rfl
@[simp] theorem Group.setWindow_waitDue (g : Group) (st : Strand) (w : List (List Nat)) : (g.setWindow st w).waitDue = g.waitDue := by cases st <;> rfl
@[simp] theorem Group.setWindow_residedDue (g : Group) (st : Strand) (w : List (List Nat)) : (g.setWindow st w).residedDue = g.residedDue := by cases st <;> rfl
@[simp] theorem Group.setWindow_idleDue (g : Group) (st : Strand) (w : List (List Nat)) : (g.setWindow st w).idleDue = g.idleDue := by cases st <;> rfl
@[simp] theorem Group.setWindow_order (g : Group) (st : Strand) (w : List (List Nat)) : (g.setWindow st w).order = g.order := by cases st <;> rfl
@[simp] theorem Group.setWindow_spillSlot (g : Group) (st : Strand) (w : List (List Nat)) : (g.setWindow st w).spillSlot = g.spillSlot := by cases st <;> rfl
@[simp] theorem Group.setWindow_parkFaults (g : Group) (st : Strand) (w : List (List Nat)) : (g.setWindow st w).parkFaults = g.parkFaults := by cases st <;> rfl
@[simp] theorem Group.setWindow_owed (g : Group) (st : Strand) (w : List (List Nat)) : (g.setWindow st w).owed = g.owed := by cases st <;> rfl

@[simp] theorem Group.countSent_ctx (g : Group) (st : Strand) : (g.countSent st).ctx = g.ctx := by cases st <;> rfl
@[simp] theorem Group.countSent_tree (g : Group) (st : Strand) : (g.countSent st).tree = g.tree := by cases st <;> rfl
@[simp] theorem Group.countSent_gid (g : Group) (st : Strand) : (g.countSent st).gid = g.gid := by cases st <;> rfl
@[simp] theorem Group.countSent_team (g : Group) (st : Strand) : (g.countSent st).team = g.team := by cases st <;> rfl
@[simp] theorem Group.countSent_core (g : Group) (st : Strand) : (g.countSent st).core = g.core := by cases st <;> rfl
@[simp] theorem Group.countSent_status (g : Group) (st : Strand) : (g.countSent st).status = g.status := by cases st <;> rfl
@[simp] theorem Group.countSent_width (g : Group) (st : Strand) : (g.countSent st).width = g.width := by cases st <;> rfl
@[simp] theorem Group.countSent_vAlloc (g : Group) (st : Strand) : (g.countSent st).vAlloc = g.vAlloc := by cases st <;> rfl
@[simp] theorem Group.countSent_sAlloc (g : Group) (st : Strand) : (g.countSent st).sAlloc = g.sAlloc := by cases st <;> rfl
@[simp] theorem Group.countSent_kernel (g : Group) (st : Strand) : (g.countSent st).kernel = g.kernel := by cases st <;> rfl
@[simp] theorem Group.countSent_depth (g : Group) (st : Strand) : (g.countSent st).depth = g.depth := by cases st <;> rfl
@[simp] theorem Group.countSent_firstGid (g : Group) (st : Strand) : (g.countSent st).firstGid = g.firstGid := by cases st <;> rfl
@[simp] theorem Group.countSent_groupCount (g : Group) (st : Strand) : (g.countSent st).groupCount = g.groupCount := by cases st <;> rfl
@[simp] theorem Group.countSent_spawner (g : Group) (st : Strand) : (g.countSent st).spawner = g.spawner := by cases st <;> rfl
@[simp] theorem Group.countSent_hint (g : Group) (st : Strand) : (g.countSent st).hint = g.hint := by cases st <;> rfl
@[simp] theorem Group.countSent_args (g : Group) (st : Strand) : (g.countSent st).args = g.args := by cases st <;> rfl
@[simp] theorem Group.countSent_argFaults (g : Group) (st : Strand) : (g.countSent st).argFaults = g.argFaults := by cases st <;> rfl
@[simp] theorem Group.countSent_regs (g : Group) (st : Strand) : (g.countSent st).regs = g.regs := by cases st <;> rfl
@[simp] theorem Group.countSent_bank (g : Group) (st : Strand) : (g.countSent st).bank = g.bank := by cases st <;> rfl
@[simp] theorem Group.countSent_empty (g : Group) (st : Strand) : (g.countSent st).empty = g.empty := by cases st <;> rfl
@[simp] theorem Group.countSent_loose (g : Group) (st : Strand) : (g.countSent st).loose = g.loose := by cases st <;> rfl
@[simp] theorem Group.countSent_stores (g : Group) (st : Strand) : (g.countSent st).stores = g.stores := by cases st <;> rfl
@[simp] theorem Group.countSent_threads (g : Group) (st : Strand) : (g.countSent st).threads = g.threads := by cases st <;> rfl
@[simp] theorem Group.countSent_frC (g : Group) (st : Strand) : (g.countSent st).frC = g.frC := by cases st <;> rfl
@[simp] theorem Group.countSent_frA (g : Group) (st : Strand) : (g.countSent st).frA = g.frA := by cases st <;> rfl
@[simp] theorem Group.countSent_nextId (g : Group) (st : Strand) : (g.countSent st).nextId = g.nextId := by cases st <;> rfl
@[simp] theorem Group.countSent_accs (g : Group) (st : Strand) : (g.countSent st).accs = g.accs := by cases st <;> rfl
@[simp] theorem Group.countSent_ops (g : Group) (st : Strand) : (g.countSent st).ops = g.ops := by cases st <;> rfl
@[simp] theorem Group.countSent_slow (g : Group) (st : Strand) : (g.countSent st).slow = g.slow := by cases st <;> rfl
@[simp] theorem Group.countSent_seqs (g : Group) (st : Strand) : (g.countSent st).seqs = g.seqs := by cases st <;> rfl
@[simp] theorem Group.countSent_mstat (g : Group) (st : Strand) : (g.countSent st).mstat = g.mstat := by cases st <;> rfl
@[simp] theorem Group.countSent_vstat (g : Group) (st : Strand) : (g.countSent st).vstat = g.vstat := by cases st <;> rfl
@[simp] theorem Group.countSent_attach (g : Group) (st : Strand) : (g.countSent st).attach = g.attach := by cases st <;> rfl
@[simp] theorem Group.countSent_waited (g : Group) (st : Strand) : (g.countSent st).waited = g.waited := by cases st <;> rfl
@[simp] theorem Group.countSent_resided (g : Group) (st : Strand) : (g.countSent st).resided = g.resided := by cases st <;> rfl
@[simp] theorem Group.countSent_idle (g : Group) (st : Strand) : (g.countSent st).idle = g.idle := by cases st <;> rfl
@[simp] theorem Group.countSent_waitDue (g : Group) (st : Strand) : (g.countSent st).waitDue = g.waitDue := by cases st <;> rfl
@[simp] theorem Group.countSent_residedDue (g : Group) (st : Strand) : (g.countSent st).residedDue = g.residedDue := by cases st <;> rfl
@[simp] theorem Group.countSent_idleDue (g : Group) (st : Strand) : (g.countSent st).idleDue = g.idleDue := by cases st <;> rfl
@[simp] theorem Group.countSent_order (g : Group) (st : Strand) : (g.countSent st).order = g.order := by cases st <;> rfl
@[simp] theorem Group.countSent_spillSlot (g : Group) (st : Strand) : (g.countSent st).spillSlot = g.spillSlot := by cases st <;> rfl
@[simp] theorem Group.countSent_parkFaults (g : Group) (st : Strand) : (g.countSent st).parkFaults = g.parkFaults := by cases st <;> rfl
@[simp] theorem Group.countSent_owed (g : Group) (st : Strand) : (g.countSent st).owed = g.owed := by cases st <;> rfl

@[simp] theorem Group.pushWindow_ctx (g : Group) (st : Strand) (cs : List Nat) : (g.pushWindow st cs).ctx = g.ctx := by simp [Group.pushWindow]
@[simp] theorem Group.pushWindow_tree (g : Group) (st : Strand) (cs : List Nat) : (g.pushWindow st cs).tree = g.tree := by simp [Group.pushWindow]
@[simp] theorem Group.pushWindow_gid (g : Group) (st : Strand) (cs : List Nat) : (g.pushWindow st cs).gid = g.gid := by simp [Group.pushWindow]
@[simp] theorem Group.pushWindow_team (g : Group) (st : Strand) (cs : List Nat) : (g.pushWindow st cs).team = g.team := by simp [Group.pushWindow]
@[simp] theorem Group.pushWindow_core (g : Group) (st : Strand) (cs : List Nat) : (g.pushWindow st cs).core = g.core := by simp [Group.pushWindow]
@[simp] theorem Group.pushWindow_status (g : Group) (st : Strand) (cs : List Nat) : (g.pushWindow st cs).status = g.status := by simp [Group.pushWindow]
@[simp] theorem Group.pushWindow_width (g : Group) (st : Strand) (cs : List Nat) : (g.pushWindow st cs).width = g.width := by simp [Group.pushWindow]
@[simp] theorem Group.pushWindow_vAlloc (g : Group) (st : Strand) (cs : List Nat) : (g.pushWindow st cs).vAlloc = g.vAlloc := by simp [Group.pushWindow]
@[simp] theorem Group.pushWindow_sAlloc (g : Group) (st : Strand) (cs : List Nat) : (g.pushWindow st cs).sAlloc = g.sAlloc := by simp [Group.pushWindow]
@[simp] theorem Group.pushWindow_kernel (g : Group) (st : Strand) (cs : List Nat) : (g.pushWindow st cs).kernel = g.kernel := by simp [Group.pushWindow]
@[simp] theorem Group.pushWindow_depth (g : Group) (st : Strand) (cs : List Nat) : (g.pushWindow st cs).depth = g.depth := by simp [Group.pushWindow]
@[simp] theorem Group.pushWindow_firstGid (g : Group) (st : Strand) (cs : List Nat) : (g.pushWindow st cs).firstGid = g.firstGid := by simp [Group.pushWindow]
@[simp] theorem Group.pushWindow_groupCount (g : Group) (st : Strand) (cs : List Nat) : (g.pushWindow st cs).groupCount = g.groupCount := by simp [Group.pushWindow]
@[simp] theorem Group.pushWindow_spawner (g : Group) (st : Strand) (cs : List Nat) : (g.pushWindow st cs).spawner = g.spawner := by simp [Group.pushWindow]
@[simp] theorem Group.pushWindow_hint (g : Group) (st : Strand) (cs : List Nat) : (g.pushWindow st cs).hint = g.hint := by simp [Group.pushWindow]
@[simp] theorem Group.pushWindow_args (g : Group) (st : Strand) (cs : List Nat) : (g.pushWindow st cs).args = g.args := by simp [Group.pushWindow]
@[simp] theorem Group.pushWindow_argFaults (g : Group) (st : Strand) (cs : List Nat) : (g.pushWindow st cs).argFaults = g.argFaults := by simp [Group.pushWindow]
@[simp] theorem Group.pushWindow_regs (g : Group) (st : Strand) (cs : List Nat) : (g.pushWindow st cs).regs = g.regs := by simp [Group.pushWindow]
@[simp] theorem Group.pushWindow_empty (g : Group) (st : Strand) (cs : List Nat) : (g.pushWindow st cs).empty = g.empty := by simp [Group.pushWindow]
@[simp] theorem Group.pushWindow_threads (g : Group) (st : Strand) (cs : List Nat) : (g.pushWindow st cs).threads = g.threads := by simp [Group.pushWindow]
@[simp] theorem Group.pushWindow_frC (g : Group) (st : Strand) (cs : List Nat) : (g.pushWindow st cs).frC = g.frC := by simp [Group.pushWindow]
@[simp] theorem Group.pushWindow_frA (g : Group) (st : Strand) (cs : List Nat) : (g.pushWindow st cs).frA = g.frA := by simp [Group.pushWindow]
@[simp] theorem Group.pushWindow_nextId (g : Group) (st : Strand) (cs : List Nat) : (g.pushWindow st cs).nextId = g.nextId := by simp [Group.pushWindow]
@[simp] theorem Group.pushWindow_accs (g : Group) (st : Strand) (cs : List Nat) : (g.pushWindow st cs).accs = g.accs := by simp [Group.pushWindow]
@[simp] theorem Group.pushWindow_ops (g : Group) (st : Strand) (cs : List Nat) : (g.pushWindow st cs).ops = g.ops := by simp [Group.pushWindow]
@[simp] theorem Group.pushWindow_slow (g : Group) (st : Strand) (cs : List Nat) : (g.pushWindow st cs).slow = g.slow := by simp [Group.pushWindow]
@[simp] theorem Group.pushWindow_seqs (g : Group) (st : Strand) (cs : List Nat) : (g.pushWindow st cs).seqs = g.seqs := by simp [Group.pushWindow]
@[simp] theorem Group.pushWindow_mstat (g : Group) (st : Strand) (cs : List Nat) : (g.pushWindow st cs).mstat = g.mstat := by simp [Group.pushWindow]
@[simp] theorem Group.pushWindow_vstat (g : Group) (st : Strand) (cs : List Nat) : (g.pushWindow st cs).vstat = g.vstat := by simp [Group.pushWindow]
@[simp] theorem Group.pushWindow_attach (g : Group) (st : Strand) (cs : List Nat) : (g.pushWindow st cs).attach = g.attach := by simp [Group.pushWindow]
@[simp] theorem Group.pushWindow_waited (g : Group) (st : Strand) (cs : List Nat) : (g.pushWindow st cs).waited = g.waited := by simp [Group.pushWindow]
@[simp] theorem Group.pushWindow_resided (g : Group) (st : Strand) (cs : List Nat) : (g.pushWindow st cs).resided = g.resided := by simp [Group.pushWindow]
@[simp] theorem Group.pushWindow_idle (g : Group) (st : Strand) (cs : List Nat) : (g.pushWindow st cs).idle = g.idle := by simp [Group.pushWindow]
@[simp] theorem Group.pushWindow_waitDue (g : Group) (st : Strand) (cs : List Nat) : (g.pushWindow st cs).waitDue = g.waitDue := by simp [Group.pushWindow]
@[simp] theorem Group.pushWindow_residedDue (g : Group) (st : Strand) (cs : List Nat) : (g.pushWindow st cs).residedDue = g.residedDue := by simp [Group.pushWindow]
@[simp] theorem Group.pushWindow_idleDue (g : Group) (st : Strand) (cs : List Nat) : (g.pushWindow st cs).idleDue = g.idleDue := by simp [Group.pushWindow]
@[simp] theorem Group.pushWindow_order (g : Group) (st : Strand) (cs : List Nat) : (g.pushWindow st cs).order = g.order := by simp [Group.pushWindow]
@[simp] theorem Group.pushWindow_spillSlot (g : Group) (st : Strand) (cs : List Nat) : (g.pushWindow st cs).spillSlot = g.spillSlot := by simp [Group.pushWindow]
@[simp] theorem Group.pushWindow_parkFaults (g : Group) (st : Strand) (cs : List Nat) : (g.pushWindow st cs).parkFaults = g.parkFaults := by simp [Group.pushWindow]
@[simp] theorem Group.pushWindow_owed (g : Group) (st : Strand) (cs : List Nat) : (g.pushWindow st cs).owed = g.owed := by simp [Group.pushWindow]

@[simp] theorem Group.flushWindow_ctx (g : Group) (st : Strand) : (g.flushWindow st).ctx = g.ctx := by simp [Group.flushWindow]
@[simp] theorem Group.flushWindow_tree (g : Group) (st : Strand) : (g.flushWindow st).tree = g.tree := by simp [Group.flushWindow]
@[simp] theorem Group.flushWindow_gid (g : Group) (st : Strand) : (g.flushWindow st).gid = g.gid := by simp [Group.flushWindow]
@[simp] theorem Group.flushWindow_team (g : Group) (st : Strand) : (g.flushWindow st).team = g.team := by simp [Group.flushWindow]
@[simp] theorem Group.flushWindow_core (g : Group) (st : Strand) : (g.flushWindow st).core = g.core := by simp [Group.flushWindow]
@[simp] theorem Group.flushWindow_status (g : Group) (st : Strand) : (g.flushWindow st).status = g.status := by simp [Group.flushWindow]
@[simp] theorem Group.flushWindow_width (g : Group) (st : Strand) : (g.flushWindow st).width = g.width := by simp [Group.flushWindow]
@[simp] theorem Group.flushWindow_vAlloc (g : Group) (st : Strand) : (g.flushWindow st).vAlloc = g.vAlloc := by simp [Group.flushWindow]
@[simp] theorem Group.flushWindow_sAlloc (g : Group) (st : Strand) : (g.flushWindow st).sAlloc = g.sAlloc := by simp [Group.flushWindow]
@[simp] theorem Group.flushWindow_kernel (g : Group) (st : Strand) : (g.flushWindow st).kernel = g.kernel := by simp [Group.flushWindow]
@[simp] theorem Group.flushWindow_depth (g : Group) (st : Strand) : (g.flushWindow st).depth = g.depth := by simp [Group.flushWindow]
@[simp] theorem Group.flushWindow_firstGid (g : Group) (st : Strand) : (g.flushWindow st).firstGid = g.firstGid := by simp [Group.flushWindow]
@[simp] theorem Group.flushWindow_groupCount (g : Group) (st : Strand) : (g.flushWindow st).groupCount = g.groupCount := by simp [Group.flushWindow]
@[simp] theorem Group.flushWindow_spawner (g : Group) (st : Strand) : (g.flushWindow st).spawner = g.spawner := by simp [Group.flushWindow]
@[simp] theorem Group.flushWindow_hint (g : Group) (st : Strand) : (g.flushWindow st).hint = g.hint := by simp [Group.flushWindow]
@[simp] theorem Group.flushWindow_args (g : Group) (st : Strand) : (g.flushWindow st).args = g.args := by simp [Group.flushWindow]
@[simp] theorem Group.flushWindow_argFaults (g : Group) (st : Strand) : (g.flushWindow st).argFaults = g.argFaults := by simp [Group.flushWindow]
@[simp] theorem Group.flushWindow_regs (g : Group) (st : Strand) : (g.flushWindow st).regs = g.regs := by simp [Group.flushWindow]
@[simp] theorem Group.flushWindow_empty (g : Group) (st : Strand) : (g.flushWindow st).empty = g.empty := by simp [Group.flushWindow]
@[simp] theorem Group.flushWindow_sentC (g : Group) (st : Strand) : (g.flushWindow st).sentC = g.sentC := by simp [Group.flushWindow]
@[simp] theorem Group.flushWindow_sentA (g : Group) (st : Strand) : (g.flushWindow st).sentA = g.sentA := by simp [Group.flushWindow]
@[simp] theorem Group.flushWindow_threads (g : Group) (st : Strand) : (g.flushWindow st).threads = g.threads := by simp [Group.flushWindow]
@[simp] theorem Group.flushWindow_frC (g : Group) (st : Strand) : (g.flushWindow st).frC = g.frC := by simp [Group.flushWindow]
@[simp] theorem Group.flushWindow_frA (g : Group) (st : Strand) : (g.flushWindow st).frA = g.frA := by simp [Group.flushWindow]
@[simp] theorem Group.flushWindow_nextId (g : Group) (st : Strand) : (g.flushWindow st).nextId = g.nextId := by simp [Group.flushWindow]
@[simp] theorem Group.flushWindow_accs (g : Group) (st : Strand) : (g.flushWindow st).accs = g.accs := by simp [Group.flushWindow]
@[simp] theorem Group.flushWindow_ops (g : Group) (st : Strand) : (g.flushWindow st).ops = g.ops := by simp [Group.flushWindow]
@[simp] theorem Group.flushWindow_slow (g : Group) (st : Strand) : (g.flushWindow st).slow = g.slow := by simp [Group.flushWindow]
@[simp] theorem Group.flushWindow_seqs (g : Group) (st : Strand) : (g.flushWindow st).seqs = g.seqs := by simp [Group.flushWindow]
@[simp] theorem Group.flushWindow_mstat (g : Group) (st : Strand) : (g.flushWindow st).mstat = g.mstat := by simp [Group.flushWindow]
@[simp] theorem Group.flushWindow_vstat (g : Group) (st : Strand) : (g.flushWindow st).vstat = g.vstat := by simp [Group.flushWindow]
@[simp] theorem Group.flushWindow_attach (g : Group) (st : Strand) : (g.flushWindow st).attach = g.attach := by simp [Group.flushWindow]
@[simp] theorem Group.flushWindow_waited (g : Group) (st : Strand) : (g.flushWindow st).waited = g.waited := by simp [Group.flushWindow]
@[simp] theorem Group.flushWindow_resided (g : Group) (st : Strand) : (g.flushWindow st).resided = g.resided := by simp [Group.flushWindow]
@[simp] theorem Group.flushWindow_idle (g : Group) (st : Strand) : (g.flushWindow st).idle = g.idle := by simp [Group.flushWindow]
@[simp] theorem Group.flushWindow_waitDue (g : Group) (st : Strand) : (g.flushWindow st).waitDue = g.waitDue := by simp [Group.flushWindow]
@[simp] theorem Group.flushWindow_residedDue (g : Group) (st : Strand) : (g.flushWindow st).residedDue = g.residedDue := by simp [Group.flushWindow]
@[simp] theorem Group.flushWindow_idleDue (g : Group) (st : Strand) : (g.flushWindow st).idleDue = g.idleDue := by simp [Group.flushWindow]
@[simp] theorem Group.flushWindow_order (g : Group) (st : Strand) : (g.flushWindow st).order = g.order := by simp [Group.flushWindow]
@[simp] theorem Group.flushWindow_spillSlot (g : Group) (st : Strand) : (g.flushWindow st).spillSlot = g.spillSlot := by simp [Group.flushWindow]
@[simp] theorem Group.flushWindow_parkFaults (g : Group) (st : Strand) : (g.flushWindow st).parkFaults = g.parkFaults := by simp [Group.flushWindow]
@[simp] theorem Group.flushWindow_owed (g : Group) (st : Strand) : (g.flushWindow st).owed = g.owed := by simp [Group.flushWindow]

@[simp] theorem Group.kill_ctx (g : Group) (st : Strand) (cs : List Nat) : (g.kill st cs).ctx = g.ctx := by simp [Group.kill]
@[simp] theorem Group.kill_tree (g : Group) (st : Strand) (cs : List Nat) : (g.kill st cs).tree = g.tree := by simp [Group.kill]
@[simp] theorem Group.kill_gid (g : Group) (st : Strand) (cs : List Nat) : (g.kill st cs).gid = g.gid := by simp [Group.kill]
@[simp] theorem Group.kill_team (g : Group) (st : Strand) (cs : List Nat) : (g.kill st cs).team = g.team := by simp [Group.kill]
@[simp] theorem Group.kill_core (g : Group) (st : Strand) (cs : List Nat) : (g.kill st cs).core = g.core := by simp [Group.kill]
@[simp] theorem Group.kill_status (g : Group) (st : Strand) (cs : List Nat) : (g.kill st cs).status = g.status := by simp [Group.kill]
@[simp] theorem Group.kill_width (g : Group) (st : Strand) (cs : List Nat) : (g.kill st cs).width = g.width := by simp [Group.kill]
@[simp] theorem Group.kill_vAlloc (g : Group) (st : Strand) (cs : List Nat) : (g.kill st cs).vAlloc = g.vAlloc := by simp [Group.kill]
@[simp] theorem Group.kill_sAlloc (g : Group) (st : Strand) (cs : List Nat) : (g.kill st cs).sAlloc = g.sAlloc := by simp [Group.kill]
@[simp] theorem Group.kill_kernel (g : Group) (st : Strand) (cs : List Nat) : (g.kill st cs).kernel = g.kernel := by simp [Group.kill]
@[simp] theorem Group.kill_depth (g : Group) (st : Strand) (cs : List Nat) : (g.kill st cs).depth = g.depth := by simp [Group.kill]
@[simp] theorem Group.kill_firstGid (g : Group) (st : Strand) (cs : List Nat) : (g.kill st cs).firstGid = g.firstGid := by simp [Group.kill]
@[simp] theorem Group.kill_groupCount (g : Group) (st : Strand) (cs : List Nat) : (g.kill st cs).groupCount = g.groupCount := by simp [Group.kill]
@[simp] theorem Group.kill_spawner (g : Group) (st : Strand) (cs : List Nat) : (g.kill st cs).spawner = g.spawner := by simp [Group.kill]
@[simp] theorem Group.kill_hint (g : Group) (st : Strand) (cs : List Nat) : (g.kill st cs).hint = g.hint := by simp [Group.kill]
@[simp] theorem Group.kill_args (g : Group) (st : Strand) (cs : List Nat) : (g.kill st cs).args = g.args := by simp [Group.kill]
@[simp] theorem Group.kill_argFaults (g : Group) (st : Strand) (cs : List Nat) : (g.kill st cs).argFaults = g.argFaults := by simp [Group.kill]
@[simp] theorem Group.kill_regs (g : Group) (st : Strand) (cs : List Nat) : (g.kill st cs).regs = g.regs := by simp [Group.kill]
@[simp] theorem Group.kill_bank (g : Group) (st : Strand) (cs : List Nat) : (g.kill st cs).bank = g.bank := by simp [Group.kill]
@[simp] theorem Group.kill_empty (g : Group) (st : Strand) (cs : List Nat) : (g.kill st cs).empty = g.empty := by simp [Group.kill]
@[simp] theorem Group.kill_sentC (g : Group) (st : Strand) (cs : List Nat) : (g.kill st cs).sentC = g.sentC := by simp [Group.kill]
@[simp] theorem Group.kill_sentA (g : Group) (st : Strand) (cs : List Nat) : (g.kill st cs).sentA = g.sentA := by simp [Group.kill]
@[simp] theorem Group.kill_threads (g : Group) (st : Strand) (cs : List Nat) : (g.kill st cs).threads = g.threads := by simp [Group.kill]
@[simp] theorem Group.kill_frC (g : Group) (st : Strand) (cs : List Nat) : (g.kill st cs).frC = g.frC := by simp [Group.kill]
@[simp] theorem Group.kill_frA (g : Group) (st : Strand) (cs : List Nat) : (g.kill st cs).frA = g.frA := by simp [Group.kill]
@[simp] theorem Group.kill_nextId (g : Group) (st : Strand) (cs : List Nat) : (g.kill st cs).nextId = g.nextId := by simp [Group.kill]
@[simp] theorem Group.kill_accs (g : Group) (st : Strand) (cs : List Nat) : (g.kill st cs).accs = g.accs := by simp [Group.kill]
@[simp] theorem Group.kill_ops (g : Group) (st : Strand) (cs : List Nat) : (g.kill st cs).ops = g.ops := by simp [Group.kill]
@[simp] theorem Group.kill_slow (g : Group) (st : Strand) (cs : List Nat) : (g.kill st cs).slow = g.slow := by simp [Group.kill]
@[simp] theorem Group.kill_seqs (g : Group) (st : Strand) (cs : List Nat) : (g.kill st cs).seqs = g.seqs := by simp [Group.kill]
@[simp] theorem Group.kill_mstat (g : Group) (st : Strand) (cs : List Nat) : (g.kill st cs).mstat = g.mstat := by simp [Group.kill]
@[simp] theorem Group.kill_vstat (g : Group) (st : Strand) (cs : List Nat) : (g.kill st cs).vstat = g.vstat := by simp [Group.kill]
@[simp] theorem Group.kill_attach (g : Group) (st : Strand) (cs : List Nat) : (g.kill st cs).attach = g.attach := by simp [Group.kill]
@[simp] theorem Group.kill_waited (g : Group) (st : Strand) (cs : List Nat) : (g.kill st cs).waited = g.waited := by simp [Group.kill]
@[simp] theorem Group.kill_resided (g : Group) (st : Strand) (cs : List Nat) : (g.kill st cs).resided = g.resided := by simp [Group.kill]
@[simp] theorem Group.kill_idle (g : Group) (st : Strand) (cs : List Nat) : (g.kill st cs).idle = g.idle := by simp [Group.kill]
@[simp] theorem Group.kill_waitDue (g : Group) (st : Strand) (cs : List Nat) : (g.kill st cs).waitDue = g.waitDue := by simp [Group.kill]
@[simp] theorem Group.kill_residedDue (g : Group) (st : Strand) (cs : List Nat) : (g.kill st cs).residedDue = g.residedDue := by simp [Group.kill]
@[simp] theorem Group.kill_idleDue (g : Group) (st : Strand) (cs : List Nat) : (g.kill st cs).idleDue = g.idleDue := by simp [Group.kill]
@[simp] theorem Group.kill_order (g : Group) (st : Strand) (cs : List Nat) : (g.kill st cs).order = g.order := by simp [Group.kill]
@[simp] theorem Group.kill_spillSlot (g : Group) (st : Strand) (cs : List Nat) : (g.kill st cs).spillSlot = g.spillSlot := by simp [Group.kill]
@[simp] theorem Group.kill_parkFaults (g : Group) (st : Strand) (cs : List Nat) : (g.kill st cs).parkFaults = g.parkFaults := by simp [Group.kill]
@[simp] theorem Group.kill_owed (g : Group) (st : Strand) (cs : List Nat) : (g.kill st cs).owed = g.owed := by simp [Group.kill]

@[simp] theorem Group.setThread_ctx (g : Group) (l : Nat) (f : Thread → Thread) : (g.setThread l f).ctx = g.ctx := rfl
@[simp] theorem Group.setThread_tree (g : Group) (l : Nat) (f : Thread → Thread) : (g.setThread l f).tree = g.tree := rfl
@[simp] theorem Group.setThread_gid (g : Group) (l : Nat) (f : Thread → Thread) : (g.setThread l f).gid = g.gid := rfl
@[simp] theorem Group.setThread_team (g : Group) (l : Nat) (f : Thread → Thread) : (g.setThread l f).team = g.team := rfl
@[simp] theorem Group.setThread_core (g : Group) (l : Nat) (f : Thread → Thread) : (g.setThread l f).core = g.core := rfl
@[simp] theorem Group.setThread_status (g : Group) (l : Nat) (f : Thread → Thread) : (g.setThread l f).status = g.status := rfl
@[simp] theorem Group.setThread_width (g : Group) (l : Nat) (f : Thread → Thread) : (g.setThread l f).width = g.width := rfl
@[simp] theorem Group.setThread_vAlloc (g : Group) (l : Nat) (f : Thread → Thread) : (g.setThread l f).vAlloc = g.vAlloc := rfl
@[simp] theorem Group.setThread_sAlloc (g : Group) (l : Nat) (f : Thread → Thread) : (g.setThread l f).sAlloc = g.sAlloc := rfl
@[simp] theorem Group.setThread_kernel (g : Group) (l : Nat) (f : Thread → Thread) : (g.setThread l f).kernel = g.kernel := rfl
@[simp] theorem Group.setThread_depth (g : Group) (l : Nat) (f : Thread → Thread) : (g.setThread l f).depth = g.depth := rfl
@[simp] theorem Group.setThread_firstGid (g : Group) (l : Nat) (f : Thread → Thread) : (g.setThread l f).firstGid = g.firstGid := rfl
@[simp] theorem Group.setThread_groupCount (g : Group) (l : Nat) (f : Thread → Thread) : (g.setThread l f).groupCount = g.groupCount := rfl
@[simp] theorem Group.setThread_spawner (g : Group) (l : Nat) (f : Thread → Thread) : (g.setThread l f).spawner = g.spawner := rfl
@[simp] theorem Group.setThread_hint (g : Group) (l : Nat) (f : Thread → Thread) : (g.setThread l f).hint = g.hint := rfl
@[simp] theorem Group.setThread_args (g : Group) (l : Nat) (f : Thread → Thread) : (g.setThread l f).args = g.args := rfl
@[simp] theorem Group.setThread_argFaults (g : Group) (l : Nat) (f : Thread → Thread) : (g.setThread l f).argFaults = g.argFaults := rfl
@[simp] theorem Group.setThread_regs (g : Group) (l : Nat) (f : Thread → Thread) : (g.setThread l f).regs = g.regs := rfl
@[simp] theorem Group.setThread_bank (g : Group) (l : Nat) (f : Thread → Thread) : (g.setThread l f).bank = g.bank := rfl
@[simp] theorem Group.setThread_empty (g : Group) (l : Nat) (f : Thread → Thread) : (g.setThread l f).empty = g.empty := rfl
@[simp] theorem Group.setThread_loose (g : Group) (l : Nat) (f : Thread → Thread) : (g.setThread l f).loose = g.loose := rfl
@[simp] theorem Group.setThread_stores (g : Group) (l : Nat) (f : Thread → Thread) : (g.setThread l f).stores = g.stores := rfl
@[simp] theorem Group.setThread_winC (g : Group) (l : Nat) (f : Thread → Thread) : (g.setThread l f).winC = g.winC := rfl
@[simp] theorem Group.setThread_winA (g : Group) (l : Nat) (f : Thread → Thread) : (g.setThread l f).winA = g.winA := rfl
@[simp] theorem Group.setThread_sentC (g : Group) (l : Nat) (f : Thread → Thread) : (g.setThread l f).sentC = g.sentC := rfl
@[simp] theorem Group.setThread_sentA (g : Group) (l : Nat) (f : Thread → Thread) : (g.setThread l f).sentA = g.sentA := rfl
@[simp] theorem Group.setThread_frC (g : Group) (l : Nat) (f : Thread → Thread) : (g.setThread l f).frC = g.frC := rfl
@[simp] theorem Group.setThread_frA (g : Group) (l : Nat) (f : Thread → Thread) : (g.setThread l f).frA = g.frA := rfl
@[simp] theorem Group.setThread_nextId (g : Group) (l : Nat) (f : Thread → Thread) : (g.setThread l f).nextId = g.nextId := rfl
@[simp] theorem Group.setThread_accs (g : Group) (l : Nat) (f : Thread → Thread) : (g.setThread l f).accs = g.accs := rfl
@[simp] theorem Group.setThread_ops (g : Group) (l : Nat) (f : Thread → Thread) : (g.setThread l f).ops = g.ops := rfl
@[simp] theorem Group.setThread_slow (g : Group) (l : Nat) (f : Thread → Thread) : (g.setThread l f).slow = g.slow := rfl
@[simp] theorem Group.setThread_seqs (g : Group) (l : Nat) (f : Thread → Thread) : (g.setThread l f).seqs = g.seqs := rfl
@[simp] theorem Group.setThread_mstat (g : Group) (l : Nat) (f : Thread → Thread) : (g.setThread l f).mstat = g.mstat := rfl
@[simp] theorem Group.setThread_vstat (g : Group) (l : Nat) (f : Thread → Thread) : (g.setThread l f).vstat = g.vstat := rfl
@[simp] theorem Group.setThread_attach (g : Group) (l : Nat) (f : Thread → Thread) : (g.setThread l f).attach = g.attach := rfl
@[simp] theorem Group.setThread_waited (g : Group) (l : Nat) (f : Thread → Thread) : (g.setThread l f).waited = g.waited := rfl
@[simp] theorem Group.setThread_resided (g : Group) (l : Nat) (f : Thread → Thread) : (g.setThread l f).resided = g.resided := rfl
@[simp] theorem Group.setThread_idle (g : Group) (l : Nat) (f : Thread → Thread) : (g.setThread l f).idle = g.idle := rfl
@[simp] theorem Group.setThread_waitDue (g : Group) (l : Nat) (f : Thread → Thread) : (g.setThread l f).waitDue = g.waitDue := rfl
@[simp] theorem Group.setThread_residedDue (g : Group) (l : Nat) (f : Thread → Thread) : (g.setThread l f).residedDue = g.residedDue := rfl
@[simp] theorem Group.setThread_idleDue (g : Group) (l : Nat) (f : Thread → Thread) : (g.setThread l f).idleDue = g.idleDue := rfl
@[simp] theorem Group.setThread_order (g : Group) (l : Nat) (f : Thread → Thread) : (g.setThread l f).order = g.order := rfl
@[simp] theorem Group.setThread_spillSlot (g : Group) (l : Nat) (f : Thread → Thread) : (g.setThread l f).spillSlot = g.spillSlot := rfl
@[simp] theorem Group.setThread_parkFaults (g : Group) (l : Nat) (f : Thread → Thread) : (g.setThread l f).parkFaults = g.parkFaults := rfl
@[simp] theorem Group.setThread_owed (g : Group) (l : Nat) (f : Thread → Thread) : (g.setThread l f).owed = g.owed := rfl

@[simp] theorem Group.setStrand_ctx (g : Group) (st : Strand) (l : Nat) (f : StrandRegs → StrandRegs) : (g.setStrand st l f).ctx = g.ctx := rfl
@[simp] theorem Group.setStrand_tree (g : Group) (st : Strand) (l : Nat) (f : StrandRegs → StrandRegs) : (g.setStrand st l f).tree = g.tree := rfl
@[simp] theorem Group.setStrand_gid (g : Group) (st : Strand) (l : Nat) (f : StrandRegs → StrandRegs) : (g.setStrand st l f).gid = g.gid := rfl
@[simp] theorem Group.setStrand_team (g : Group) (st : Strand) (l : Nat) (f : StrandRegs → StrandRegs) : (g.setStrand st l f).team = g.team := rfl
@[simp] theorem Group.setStrand_core (g : Group) (st : Strand) (l : Nat) (f : StrandRegs → StrandRegs) : (g.setStrand st l f).core = g.core := rfl
@[simp] theorem Group.setStrand_status (g : Group) (st : Strand) (l : Nat) (f : StrandRegs → StrandRegs) : (g.setStrand st l f).status = g.status := rfl
@[simp] theorem Group.setStrand_width (g : Group) (st : Strand) (l : Nat) (f : StrandRegs → StrandRegs) : (g.setStrand st l f).width = g.width := rfl
@[simp] theorem Group.setStrand_vAlloc (g : Group) (st : Strand) (l : Nat) (f : StrandRegs → StrandRegs) : (g.setStrand st l f).vAlloc = g.vAlloc := rfl
@[simp] theorem Group.setStrand_sAlloc (g : Group) (st : Strand) (l : Nat) (f : StrandRegs → StrandRegs) : (g.setStrand st l f).sAlloc = g.sAlloc := rfl
@[simp] theorem Group.setStrand_kernel (g : Group) (st : Strand) (l : Nat) (f : StrandRegs → StrandRegs) : (g.setStrand st l f).kernel = g.kernel := rfl
@[simp] theorem Group.setStrand_depth (g : Group) (st : Strand) (l : Nat) (f : StrandRegs → StrandRegs) : (g.setStrand st l f).depth = g.depth := rfl
@[simp] theorem Group.setStrand_firstGid (g : Group) (st : Strand) (l : Nat) (f : StrandRegs → StrandRegs) : (g.setStrand st l f).firstGid = g.firstGid := rfl
@[simp] theorem Group.setStrand_groupCount (g : Group) (st : Strand) (l : Nat) (f : StrandRegs → StrandRegs) : (g.setStrand st l f).groupCount = g.groupCount := rfl
@[simp] theorem Group.setStrand_spawner (g : Group) (st : Strand) (l : Nat) (f : StrandRegs → StrandRegs) : (g.setStrand st l f).spawner = g.spawner := rfl
@[simp] theorem Group.setStrand_hint (g : Group) (st : Strand) (l : Nat) (f : StrandRegs → StrandRegs) : (g.setStrand st l f).hint = g.hint := rfl
@[simp] theorem Group.setStrand_args (g : Group) (st : Strand) (l : Nat) (f : StrandRegs → StrandRegs) : (g.setStrand st l f).args = g.args := rfl
@[simp] theorem Group.setStrand_argFaults (g : Group) (st : Strand) (l : Nat) (f : StrandRegs → StrandRegs) : (g.setStrand st l f).argFaults = g.argFaults := rfl
@[simp] theorem Group.setStrand_regs (g : Group) (st : Strand) (l : Nat) (f : StrandRegs → StrandRegs) : (g.setStrand st l f).regs = g.regs := rfl
@[simp] theorem Group.setStrand_bank (g : Group) (st : Strand) (l : Nat) (f : StrandRegs → StrandRegs) : (g.setStrand st l f).bank = g.bank := rfl
@[simp] theorem Group.setStrand_empty (g : Group) (st : Strand) (l : Nat) (f : StrandRegs → StrandRegs) : (g.setStrand st l f).empty = g.empty := rfl
@[simp] theorem Group.setStrand_loose (g : Group) (st : Strand) (l : Nat) (f : StrandRegs → StrandRegs) : (g.setStrand st l f).loose = g.loose := rfl
@[simp] theorem Group.setStrand_stores (g : Group) (st : Strand) (l : Nat) (f : StrandRegs → StrandRegs) : (g.setStrand st l f).stores = g.stores := rfl
@[simp] theorem Group.setStrand_winC (g : Group) (st : Strand) (l : Nat) (f : StrandRegs → StrandRegs) : (g.setStrand st l f).winC = g.winC := rfl
@[simp] theorem Group.setStrand_winA (g : Group) (st : Strand) (l : Nat) (f : StrandRegs → StrandRegs) : (g.setStrand st l f).winA = g.winA := rfl
@[simp] theorem Group.setStrand_sentC (g : Group) (st : Strand) (l : Nat) (f : StrandRegs → StrandRegs) : (g.setStrand st l f).sentC = g.sentC := rfl
@[simp] theorem Group.setStrand_sentA (g : Group) (st : Strand) (l : Nat) (f : StrandRegs → StrandRegs) : (g.setStrand st l f).sentA = g.sentA := rfl
@[simp] theorem Group.setStrand_frC (g : Group) (st : Strand) (l : Nat) (f : StrandRegs → StrandRegs) : (g.setStrand st l f).frC = g.frC := rfl
@[simp] theorem Group.setStrand_frA (g : Group) (st : Strand) (l : Nat) (f : StrandRegs → StrandRegs) : (g.setStrand st l f).frA = g.frA := rfl
@[simp] theorem Group.setStrand_nextId (g : Group) (st : Strand) (l : Nat) (f : StrandRegs → StrandRegs) : (g.setStrand st l f).nextId = g.nextId := rfl
@[simp] theorem Group.setStrand_accs (g : Group) (st : Strand) (l : Nat) (f : StrandRegs → StrandRegs) : (g.setStrand st l f).accs = g.accs := rfl
@[simp] theorem Group.setStrand_ops (g : Group) (st : Strand) (l : Nat) (f : StrandRegs → StrandRegs) : (g.setStrand st l f).ops = g.ops := rfl
@[simp] theorem Group.setStrand_slow (g : Group) (st : Strand) (l : Nat) (f : StrandRegs → StrandRegs) : (g.setStrand st l f).slow = g.slow := rfl
@[simp] theorem Group.setStrand_seqs (g : Group) (st : Strand) (l : Nat) (f : StrandRegs → StrandRegs) : (g.setStrand st l f).seqs = g.seqs := rfl
@[simp] theorem Group.setStrand_mstat (g : Group) (st : Strand) (l : Nat) (f : StrandRegs → StrandRegs) : (g.setStrand st l f).mstat = g.mstat := rfl
@[simp] theorem Group.setStrand_vstat (g : Group) (st : Strand) (l : Nat) (f : StrandRegs → StrandRegs) : (g.setStrand st l f).vstat = g.vstat := rfl
@[simp] theorem Group.setStrand_attach (g : Group) (st : Strand) (l : Nat) (f : StrandRegs → StrandRegs) : (g.setStrand st l f).attach = g.attach := rfl
@[simp] theorem Group.setStrand_waited (g : Group) (st : Strand) (l : Nat) (f : StrandRegs → StrandRegs) : (g.setStrand st l f).waited = g.waited := rfl
@[simp] theorem Group.setStrand_resided (g : Group) (st : Strand) (l : Nat) (f : StrandRegs → StrandRegs) : (g.setStrand st l f).resided = g.resided := rfl
@[simp] theorem Group.setStrand_idle (g : Group) (st : Strand) (l : Nat) (f : StrandRegs → StrandRegs) : (g.setStrand st l f).idle = g.idle := rfl
@[simp] theorem Group.setStrand_waitDue (g : Group) (st : Strand) (l : Nat) (f : StrandRegs → StrandRegs) : (g.setStrand st l f).waitDue = g.waitDue := rfl
@[simp] theorem Group.setStrand_residedDue (g : Group) (st : Strand) (l : Nat) (f : StrandRegs → StrandRegs) : (g.setStrand st l f).residedDue = g.residedDue := rfl
@[simp] theorem Group.setStrand_idleDue (g : Group) (st : Strand) (l : Nat) (f : StrandRegs → StrandRegs) : (g.setStrand st l f).idleDue = g.idleDue := rfl
@[simp] theorem Group.setStrand_order (g : Group) (st : Strand) (l : Nat) (f : StrandRegs → StrandRegs) : (g.setStrand st l f).order = g.order := rfl
@[simp] theorem Group.setStrand_spillSlot (g : Group) (st : Strand) (l : Nat) (f : StrandRegs → StrandRegs) : (g.setStrand st l f).spillSlot = g.spillSlot := rfl
@[simp] theorem Group.setStrand_parkFaults (g : Group) (st : Strand) (l : Nat) (f : StrandRegs → StrandRegs) : (g.setStrand st l f).parkFaults = g.parkFaults := rfl
@[simp] theorem Group.setStrand_owed (g : Group) (st : Strand) (l : Nat) (f : StrandRegs → StrandRegs) : (g.setStrand st l f).owed = g.owed := rfl

@[simp] theorem Group.setFrontier_ctx (g : Group) (st : Strand) (f : Frontier → Frontier) : (g.setFrontier st f).ctx = g.ctx := by cases st <;> rfl
@[simp] theorem Group.setFrontier_tree (g : Group) (st : Strand) (f : Frontier → Frontier) : (g.setFrontier st f).tree = g.tree := by cases st <;> rfl
@[simp] theorem Group.setFrontier_gid (g : Group) (st : Strand) (f : Frontier → Frontier) : (g.setFrontier st f).gid = g.gid := by cases st <;> rfl
@[simp] theorem Group.setFrontier_team (g : Group) (st : Strand) (f : Frontier → Frontier) : (g.setFrontier st f).team = g.team := by cases st <;> rfl
@[simp] theorem Group.setFrontier_core (g : Group) (st : Strand) (f : Frontier → Frontier) : (g.setFrontier st f).core = g.core := by cases st <;> rfl
@[simp] theorem Group.setFrontier_status (g : Group) (st : Strand) (f : Frontier → Frontier) : (g.setFrontier st f).status = g.status := by cases st <;> rfl
@[simp] theorem Group.setFrontier_width (g : Group) (st : Strand) (f : Frontier → Frontier) : (g.setFrontier st f).width = g.width := by cases st <;> rfl
@[simp] theorem Group.setFrontier_vAlloc (g : Group) (st : Strand) (f : Frontier → Frontier) : (g.setFrontier st f).vAlloc = g.vAlloc := by cases st <;> rfl
@[simp] theorem Group.setFrontier_sAlloc (g : Group) (st : Strand) (f : Frontier → Frontier) : (g.setFrontier st f).sAlloc = g.sAlloc := by cases st <;> rfl
@[simp] theorem Group.setFrontier_kernel (g : Group) (st : Strand) (f : Frontier → Frontier) : (g.setFrontier st f).kernel = g.kernel := by cases st <;> rfl
@[simp] theorem Group.setFrontier_depth (g : Group) (st : Strand) (f : Frontier → Frontier) : (g.setFrontier st f).depth = g.depth := by cases st <;> rfl
@[simp] theorem Group.setFrontier_firstGid (g : Group) (st : Strand) (f : Frontier → Frontier) : (g.setFrontier st f).firstGid = g.firstGid := by cases st <;> rfl
@[simp] theorem Group.setFrontier_groupCount (g : Group) (st : Strand) (f : Frontier → Frontier) : (g.setFrontier st f).groupCount = g.groupCount := by cases st <;> rfl
@[simp] theorem Group.setFrontier_spawner (g : Group) (st : Strand) (f : Frontier → Frontier) : (g.setFrontier st f).spawner = g.spawner := by cases st <;> rfl
@[simp] theorem Group.setFrontier_hint (g : Group) (st : Strand) (f : Frontier → Frontier) : (g.setFrontier st f).hint = g.hint := by cases st <;> rfl
@[simp] theorem Group.setFrontier_args (g : Group) (st : Strand) (f : Frontier → Frontier) : (g.setFrontier st f).args = g.args := by cases st <;> rfl
@[simp] theorem Group.setFrontier_argFaults (g : Group) (st : Strand) (f : Frontier → Frontier) : (g.setFrontier st f).argFaults = g.argFaults := by cases st <;> rfl
@[simp] theorem Group.setFrontier_regs (g : Group) (st : Strand) (f : Frontier → Frontier) : (g.setFrontier st f).regs = g.regs := by cases st <;> rfl
@[simp] theorem Group.setFrontier_bank (g : Group) (st : Strand) (f : Frontier → Frontier) : (g.setFrontier st f).bank = g.bank := by cases st <;> rfl
@[simp] theorem Group.setFrontier_empty (g : Group) (st : Strand) (f : Frontier → Frontier) : (g.setFrontier st f).empty = g.empty := by cases st <;> rfl
@[simp] theorem Group.setFrontier_loose (g : Group) (st : Strand) (f : Frontier → Frontier) : (g.setFrontier st f).loose = g.loose := by cases st <;> rfl
@[simp] theorem Group.setFrontier_stores (g : Group) (st : Strand) (f : Frontier → Frontier) : (g.setFrontier st f).stores = g.stores := by cases st <;> rfl
@[simp] theorem Group.setFrontier_winC (g : Group) (st : Strand) (f : Frontier → Frontier) : (g.setFrontier st f).winC = g.winC := by cases st <;> rfl
@[simp] theorem Group.setFrontier_winA (g : Group) (st : Strand) (f : Frontier → Frontier) : (g.setFrontier st f).winA = g.winA := by cases st <;> rfl
@[simp] theorem Group.setFrontier_sentC (g : Group) (st : Strand) (f : Frontier → Frontier) : (g.setFrontier st f).sentC = g.sentC := by cases st <;> rfl
@[simp] theorem Group.setFrontier_sentA (g : Group) (st : Strand) (f : Frontier → Frontier) : (g.setFrontier st f).sentA = g.sentA := by cases st <;> rfl
@[simp] theorem Group.setFrontier_threads (g : Group) (st : Strand) (f : Frontier → Frontier) : (g.setFrontier st f).threads = g.threads := by cases st <;> rfl
@[simp] theorem Group.setFrontier_nextId (g : Group) (st : Strand) (f : Frontier → Frontier) : (g.setFrontier st f).nextId = g.nextId := by cases st <;> rfl
@[simp] theorem Group.setFrontier_accs (g : Group) (st : Strand) (f : Frontier → Frontier) : (g.setFrontier st f).accs = g.accs := by cases st <;> rfl
@[simp] theorem Group.setFrontier_ops (g : Group) (st : Strand) (f : Frontier → Frontier) : (g.setFrontier st f).ops = g.ops := by cases st <;> rfl
@[simp] theorem Group.setFrontier_slow (g : Group) (st : Strand) (f : Frontier → Frontier) : (g.setFrontier st f).slow = g.slow := by cases st <;> rfl
@[simp] theorem Group.setFrontier_seqs (g : Group) (st : Strand) (f : Frontier → Frontier) : (g.setFrontier st f).seqs = g.seqs := by cases st <;> rfl
@[simp] theorem Group.setFrontier_mstat (g : Group) (st : Strand) (f : Frontier → Frontier) : (g.setFrontier st f).mstat = g.mstat := by cases st <;> rfl
@[simp] theorem Group.setFrontier_vstat (g : Group) (st : Strand) (f : Frontier → Frontier) : (g.setFrontier st f).vstat = g.vstat := by cases st <;> rfl
@[simp] theorem Group.setFrontier_attach (g : Group) (st : Strand) (f : Frontier → Frontier) : (g.setFrontier st f).attach = g.attach := by cases st <;> rfl
@[simp] theorem Group.setFrontier_waited (g : Group) (st : Strand) (f : Frontier → Frontier) : (g.setFrontier st f).waited = g.waited := by cases st <;> rfl
@[simp] theorem Group.setFrontier_resided (g : Group) (st : Strand) (f : Frontier → Frontier) : (g.setFrontier st f).resided = g.resided := by cases st <;> rfl
@[simp] theorem Group.setFrontier_idle (g : Group) (st : Strand) (f : Frontier → Frontier) : (g.setFrontier st f).idle = g.idle := by cases st <;> rfl
@[simp] theorem Group.setFrontier_waitDue (g : Group) (st : Strand) (f : Frontier → Frontier) : (g.setFrontier st f).waitDue = g.waitDue := by cases st <;> rfl
@[simp] theorem Group.setFrontier_residedDue (g : Group) (st : Strand) (f : Frontier → Frontier) : (g.setFrontier st f).residedDue = g.residedDue := by cases st <;> rfl
@[simp] theorem Group.setFrontier_idleDue (g : Group) (st : Strand) (f : Frontier → Frontier) : (g.setFrontier st f).idleDue = g.idleDue := by cases st <;> rfl
@[simp] theorem Group.setFrontier_order (g : Group) (st : Strand) (f : Frontier → Frontier) : (g.setFrontier st f).order = g.order := by cases st <;> rfl
@[simp] theorem Group.setFrontier_spillSlot (g : Group) (st : Strand) (f : Frontier → Frontier) : (g.setFrontier st f).spillSlot = g.spillSlot := by cases st <;> rfl
@[simp] theorem Group.setFrontier_parkFaults (g : Group) (st : Strand) (f : Frontier → Frontier) : (g.setFrontier st f).parkFaults = g.parkFaults := by cases st <;> rfl
@[simp] theorem Group.setFrontier_owed (g : Group) (st : Strand) (f : Frontier → Frontier) : (g.setFrontier st f).owed = g.owed := by cases st <;> rfl

@[simp] theorem Group.setFlags_ctx (g : Group) (l : Nat) (fl : Word) : (g.setFlags l fl).ctx = g.ctx := by unfold Group.setFlags; split <;> rfl
@[simp] theorem Group.setFlags_tree (g : Group) (l : Nat) (fl : Word) : (g.setFlags l fl).tree = g.tree := by unfold Group.setFlags; split <;> rfl
@[simp] theorem Group.setFlags_gid (g : Group) (l : Nat) (fl : Word) : (g.setFlags l fl).gid = g.gid := by unfold Group.setFlags; split <;> rfl
@[simp] theorem Group.setFlags_team (g : Group) (l : Nat) (fl : Word) : (g.setFlags l fl).team = g.team := by unfold Group.setFlags; split <;> rfl
@[simp] theorem Group.setFlags_core (g : Group) (l : Nat) (fl : Word) : (g.setFlags l fl).core = g.core := by unfold Group.setFlags; split <;> rfl
@[simp] theorem Group.setFlags_status (g : Group) (l : Nat) (fl : Word) : (g.setFlags l fl).status = g.status := by unfold Group.setFlags; split <;> rfl
@[simp] theorem Group.setFlags_width (g : Group) (l : Nat) (fl : Word) : (g.setFlags l fl).width = g.width := by unfold Group.setFlags; split <;> rfl
@[simp] theorem Group.setFlags_vAlloc (g : Group) (l : Nat) (fl : Word) : (g.setFlags l fl).vAlloc = g.vAlloc := by unfold Group.setFlags; split <;> rfl
@[simp] theorem Group.setFlags_sAlloc (g : Group) (l : Nat) (fl : Word) : (g.setFlags l fl).sAlloc = g.sAlloc := by unfold Group.setFlags; split <;> rfl
@[simp] theorem Group.setFlags_kernel (g : Group) (l : Nat) (fl : Word) : (g.setFlags l fl).kernel = g.kernel := by unfold Group.setFlags; split <;> rfl
@[simp] theorem Group.setFlags_depth (g : Group) (l : Nat) (fl : Word) : (g.setFlags l fl).depth = g.depth := by unfold Group.setFlags; split <;> rfl
@[simp] theorem Group.setFlags_firstGid (g : Group) (l : Nat) (fl : Word) : (g.setFlags l fl).firstGid = g.firstGid := by unfold Group.setFlags; split <;> rfl
@[simp] theorem Group.setFlags_groupCount (g : Group) (l : Nat) (fl : Word) : (g.setFlags l fl).groupCount = g.groupCount := by unfold Group.setFlags; split <;> rfl
@[simp] theorem Group.setFlags_spawner (g : Group) (l : Nat) (fl : Word) : (g.setFlags l fl).spawner = g.spawner := by unfold Group.setFlags; split <;> rfl
@[simp] theorem Group.setFlags_hint (g : Group) (l : Nat) (fl : Word) : (g.setFlags l fl).hint = g.hint := by unfold Group.setFlags; split <;> rfl
@[simp] theorem Group.setFlags_args (g : Group) (l : Nat) (fl : Word) : (g.setFlags l fl).args = g.args := by unfold Group.setFlags; split <;> rfl
@[simp] theorem Group.setFlags_argFaults (g : Group) (l : Nat) (fl : Word) : (g.setFlags l fl).argFaults = g.argFaults := by unfold Group.setFlags; split <;> rfl
@[simp] theorem Group.setFlags_regs (g : Group) (l : Nat) (fl : Word) : (g.setFlags l fl).regs = g.regs := by unfold Group.setFlags; split <;> rfl
@[simp] theorem Group.setFlags_bank (g : Group) (l : Nat) (fl : Word) : (g.setFlags l fl).bank = g.bank := by unfold Group.setFlags; split <;> rfl
@[simp] theorem Group.setFlags_empty (g : Group) (l : Nat) (fl : Word) : (g.setFlags l fl).empty = g.empty := by unfold Group.setFlags; split <;> rfl
@[simp] theorem Group.setFlags_loose (g : Group) (l : Nat) (fl : Word) : (g.setFlags l fl).loose = g.loose := by unfold Group.setFlags; split <;> rfl
@[simp] theorem Group.setFlags_stores (g : Group) (l : Nat) (fl : Word) : (g.setFlags l fl).stores = g.stores := by unfold Group.setFlags; split <;> rfl
@[simp] theorem Group.setFlags_winC (g : Group) (l : Nat) (fl : Word) : (g.setFlags l fl).winC = g.winC := by unfold Group.setFlags; split <;> rfl
@[simp] theorem Group.setFlags_winA (g : Group) (l : Nat) (fl : Word) : (g.setFlags l fl).winA = g.winA := by unfold Group.setFlags; split <;> rfl
@[simp] theorem Group.setFlags_sentC (g : Group) (l : Nat) (fl : Word) : (g.setFlags l fl).sentC = g.sentC := by unfold Group.setFlags; split <;> rfl
@[simp] theorem Group.setFlags_sentA (g : Group) (l : Nat) (fl : Word) : (g.setFlags l fl).sentA = g.sentA := by unfold Group.setFlags; split <;> rfl
@[simp] theorem Group.setFlags_frC (g : Group) (l : Nat) (fl : Word) : (g.setFlags l fl).frC = g.frC := by unfold Group.setFlags; split <;> rfl
@[simp] theorem Group.setFlags_frA (g : Group) (l : Nat) (fl : Word) : (g.setFlags l fl).frA = g.frA := by unfold Group.setFlags; split <;> rfl
@[simp] theorem Group.setFlags_nextId (g : Group) (l : Nat) (fl : Word) : (g.setFlags l fl).nextId = g.nextId := by unfold Group.setFlags; split <;> rfl
@[simp] theorem Group.setFlags_accs (g : Group) (l : Nat) (fl : Word) : (g.setFlags l fl).accs = g.accs := by unfold Group.setFlags; split <;> rfl
@[simp] theorem Group.setFlags_ops (g : Group) (l : Nat) (fl : Word) : (g.setFlags l fl).ops = g.ops := by unfold Group.setFlags; split <;> rfl
@[simp] theorem Group.setFlags_slow (g : Group) (l : Nat) (fl : Word) : (g.setFlags l fl).slow = g.slow := by unfold Group.setFlags; split <;> rfl
@[simp] theorem Group.setFlags_seqs (g : Group) (l : Nat) (fl : Word) : (g.setFlags l fl).seqs = g.seqs := by unfold Group.setFlags; split <;> rfl
@[simp] theorem Group.setFlags_mstat (g : Group) (l : Nat) (fl : Word) : (g.setFlags l fl).mstat = g.mstat := by unfold Group.setFlags; split <;> rfl
@[simp] theorem Group.setFlags_vstat (g : Group) (l : Nat) (fl : Word) : (g.setFlags l fl).vstat = g.vstat := by unfold Group.setFlags; split <;> rfl
@[simp] theorem Group.setFlags_attach (g : Group) (l : Nat) (fl : Word) : (g.setFlags l fl).attach = g.attach := by unfold Group.setFlags; split <;> rfl
@[simp] theorem Group.setFlags_waited (g : Group) (l : Nat) (fl : Word) : (g.setFlags l fl).waited = g.waited := by unfold Group.setFlags; split <;> rfl
@[simp] theorem Group.setFlags_resided (g : Group) (l : Nat) (fl : Word) : (g.setFlags l fl).resided = g.resided := by unfold Group.setFlags; split <;> rfl
@[simp] theorem Group.setFlags_idle (g : Group) (l : Nat) (fl : Word) : (g.setFlags l fl).idle = g.idle := by unfold Group.setFlags; split <;> rfl
@[simp] theorem Group.setFlags_waitDue (g : Group) (l : Nat) (fl : Word) : (g.setFlags l fl).waitDue = g.waitDue := by unfold Group.setFlags; split <;> rfl
@[simp] theorem Group.setFlags_residedDue (g : Group) (l : Nat) (fl : Word) : (g.setFlags l fl).residedDue = g.residedDue := by unfold Group.setFlags; split <;> rfl
@[simp] theorem Group.setFlags_idleDue (g : Group) (l : Nat) (fl : Word) : (g.setFlags l fl).idleDue = g.idleDue := by unfold Group.setFlags; split <;> rfl
@[simp] theorem Group.setFlags_order (g : Group) (l : Nat) (fl : Word) : (g.setFlags l fl).order = g.order := by unfold Group.setFlags; split <;> rfl
@[simp] theorem Group.setFlags_spillSlot (g : Group) (l : Nat) (fl : Word) : (g.setFlags l fl).spillSlot = g.spillSlot := by unfold Group.setFlags; split <;> rfl
@[simp] theorem Group.setFlags_parkFaults (g : Group) (l : Nat) (fl : Word) : (g.setFlags l fl).parkFaults = g.parkFaults := by unfold Group.setFlags; split <;> rfl
@[simp] theorem Group.setFlags_owed (g : Group) (l : Nat) (fl : Word) : (g.setFlags l fl).owed = g.owed := by unfold Group.setFlags; split <;> rfl

@[simp] theorem Group.join_ctx (g : Group) (st : Strand) (pc : VAddr) (hs : List Word) (ls : List Nat) : (g.join st pc hs ls).ctx = g.ctx := by
  unfold Group.join; split
  · rfl
  · simp only; split <;> simp
@[simp] theorem Group.join_tree (g : Group) (st : Strand) (pc : VAddr) (hs : List Word) (ls : List Nat) : (g.join st pc hs ls).tree = g.tree := by
  unfold Group.join; split
  · rfl
  · simp only; split <;> simp
@[simp] theorem Group.join_gid (g : Group) (st : Strand) (pc : VAddr) (hs : List Word) (ls : List Nat) : (g.join st pc hs ls).gid = g.gid := by
  unfold Group.join; split
  · rfl
  · simp only; split <;> simp
@[simp] theorem Group.join_team (g : Group) (st : Strand) (pc : VAddr) (hs : List Word) (ls : List Nat) : (g.join st pc hs ls).team = g.team := by
  unfold Group.join; split
  · rfl
  · simp only; split <;> simp
@[simp] theorem Group.join_core (g : Group) (st : Strand) (pc : VAddr) (hs : List Word) (ls : List Nat) : (g.join st pc hs ls).core = g.core := by
  unfold Group.join; split
  · rfl
  · simp only; split <;> simp
@[simp] theorem Group.join_status (g : Group) (st : Strand) (pc : VAddr) (hs : List Word) (ls : List Nat) : (g.join st pc hs ls).status = g.status := by
  unfold Group.join; split
  · rfl
  · simp only; split <;> simp
@[simp] theorem Group.join_width (g : Group) (st : Strand) (pc : VAddr) (hs : List Word) (ls : List Nat) : (g.join st pc hs ls).width = g.width := by
  unfold Group.join; split
  · rfl
  · simp only; split <;> simp
@[simp] theorem Group.join_vAlloc (g : Group) (st : Strand) (pc : VAddr) (hs : List Word) (ls : List Nat) : (g.join st pc hs ls).vAlloc = g.vAlloc := by
  unfold Group.join; split
  · rfl
  · simp only; split <;> simp
@[simp] theorem Group.join_sAlloc (g : Group) (st : Strand) (pc : VAddr) (hs : List Word) (ls : List Nat) : (g.join st pc hs ls).sAlloc = g.sAlloc := by
  unfold Group.join; split
  · rfl
  · simp only; split <;> simp
@[simp] theorem Group.join_kernel (g : Group) (st : Strand) (pc : VAddr) (hs : List Word) (ls : List Nat) : (g.join st pc hs ls).kernel = g.kernel := by
  unfold Group.join; split
  · rfl
  · simp only; split <;> simp
@[simp] theorem Group.join_depth (g : Group) (st : Strand) (pc : VAddr) (hs : List Word) (ls : List Nat) : (g.join st pc hs ls).depth = g.depth := by
  unfold Group.join; split
  · rfl
  · simp only; split <;> simp
@[simp] theorem Group.join_firstGid (g : Group) (st : Strand) (pc : VAddr) (hs : List Word) (ls : List Nat) : (g.join st pc hs ls).firstGid = g.firstGid := by
  unfold Group.join; split
  · rfl
  · simp only; split <;> simp
@[simp] theorem Group.join_groupCount (g : Group) (st : Strand) (pc : VAddr) (hs : List Word) (ls : List Nat) : (g.join st pc hs ls).groupCount = g.groupCount := by
  unfold Group.join; split
  · rfl
  · simp only; split <;> simp
@[simp] theorem Group.join_spawner (g : Group) (st : Strand) (pc : VAddr) (hs : List Word) (ls : List Nat) : (g.join st pc hs ls).spawner = g.spawner := by
  unfold Group.join; split
  · rfl
  · simp only; split <;> simp
@[simp] theorem Group.join_hint (g : Group) (st : Strand) (pc : VAddr) (hs : List Word) (ls : List Nat) : (g.join st pc hs ls).hint = g.hint := by
  unfold Group.join; split
  · rfl
  · simp only; split <;> simp
@[simp] theorem Group.join_args (g : Group) (st : Strand) (pc : VAddr) (hs : List Word) (ls : List Nat) : (g.join st pc hs ls).args = g.args := by
  unfold Group.join; split
  · rfl
  · simp only; split <;> simp
@[simp] theorem Group.join_argFaults (g : Group) (st : Strand) (pc : VAddr) (hs : List Word) (ls : List Nat) : (g.join st pc hs ls).argFaults = g.argFaults := by
  unfold Group.join; split
  · rfl
  · simp only; split <;> simp
@[simp] theorem Group.join_regs (g : Group) (st : Strand) (pc : VAddr) (hs : List Word) (ls : List Nat) : (g.join st pc hs ls).regs = g.regs := by
  unfold Group.join; split
  · rfl
  · simp only; split <;> simp
@[simp] theorem Group.join_bank (g : Group) (st : Strand) (pc : VAddr) (hs : List Word) (ls : List Nat) : (g.join st pc hs ls).bank = g.bank := by
  unfold Group.join; split
  · rfl
  · simp only; split <;> simp
@[simp] theorem Group.join_empty (g : Group) (st : Strand) (pc : VAddr) (hs : List Word) (ls : List Nat) : (g.join st pc hs ls).empty = g.empty := by
  unfold Group.join; split
  · rfl
  · simp only; split <;> simp
@[simp] theorem Group.join_loose (g : Group) (st : Strand) (pc : VAddr) (hs : List Word) (ls : List Nat) : (g.join st pc hs ls).loose = g.loose := by
  unfold Group.join; split
  · rfl
  · simp only; split <;> simp
@[simp] theorem Group.join_stores (g : Group) (st : Strand) (pc : VAddr) (hs : List Word) (ls : List Nat) : (g.join st pc hs ls).stores = g.stores := by
  unfold Group.join; split
  · rfl
  · simp only; split <;> simp
@[simp] theorem Group.join_winC (g : Group) (st : Strand) (pc : VAddr) (hs : List Word) (ls : List Nat) : (g.join st pc hs ls).winC = g.winC := by
  unfold Group.join; split
  · rfl
  · simp only; split <;> simp
@[simp] theorem Group.join_winA (g : Group) (st : Strand) (pc : VAddr) (hs : List Word) (ls : List Nat) : (g.join st pc hs ls).winA = g.winA := by
  unfold Group.join; split
  · rfl
  · simp only; split <;> simp
@[simp] theorem Group.join_sentC (g : Group) (st : Strand) (pc : VAddr) (hs : List Word) (ls : List Nat) : (g.join st pc hs ls).sentC = g.sentC := by
  unfold Group.join; split
  · rfl
  · simp only; split <;> simp
@[simp] theorem Group.join_sentA (g : Group) (st : Strand) (pc : VAddr) (hs : List Word) (ls : List Nat) : (g.join st pc hs ls).sentA = g.sentA := by
  unfold Group.join; split
  · rfl
  · simp only; split <;> simp
@[simp] theorem Group.join_threads (g : Group) (st : Strand) (pc : VAddr) (hs : List Word) (ls : List Nat) : (g.join st pc hs ls).threads = g.threads := by
  unfold Group.join; split
  · rfl
  · simp only; split <;> simp
@[simp] theorem Group.join_accs (g : Group) (st : Strand) (pc : VAddr) (hs : List Word) (ls : List Nat) : (g.join st pc hs ls).accs = g.accs := by
  unfold Group.join; split
  · rfl
  · simp only; split <;> simp
@[simp] theorem Group.join_ops (g : Group) (st : Strand) (pc : VAddr) (hs : List Word) (ls : List Nat) : (g.join st pc hs ls).ops = g.ops := by
  unfold Group.join; split
  · rfl
  · simp only; split <;> simp
@[simp] theorem Group.join_slow (g : Group) (st : Strand) (pc : VAddr) (hs : List Word) (ls : List Nat) : (g.join st pc hs ls).slow = g.slow := by
  unfold Group.join; split
  · rfl
  · simp only; split <;> simp
@[simp] theorem Group.join_seqs (g : Group) (st : Strand) (pc : VAddr) (hs : List Word) (ls : List Nat) : (g.join st pc hs ls).seqs = g.seqs := by
  unfold Group.join; split
  · rfl
  · simp only; split <;> simp
@[simp] theorem Group.join_mstat (g : Group) (st : Strand) (pc : VAddr) (hs : List Word) (ls : List Nat) : (g.join st pc hs ls).mstat = g.mstat := by
  unfold Group.join; split
  · rfl
  · simp only; split <;> simp
@[simp] theorem Group.join_vstat (g : Group) (st : Strand) (pc : VAddr) (hs : List Word) (ls : List Nat) : (g.join st pc hs ls).vstat = g.vstat := by
  unfold Group.join; split
  · rfl
  · simp only; split <;> simp
@[simp] theorem Group.join_attach (g : Group) (st : Strand) (pc : VAddr) (hs : List Word) (ls : List Nat) : (g.join st pc hs ls).attach = g.attach := by
  unfold Group.join; split
  · rfl
  · simp only; split <;> simp
@[simp] theorem Group.join_waited (g : Group) (st : Strand) (pc : VAddr) (hs : List Word) (ls : List Nat) : (g.join st pc hs ls).waited = g.waited := by
  unfold Group.join; split
  · rfl
  · simp only; split <;> simp
@[simp] theorem Group.join_resided (g : Group) (st : Strand) (pc : VAddr) (hs : List Word) (ls : List Nat) : (g.join st pc hs ls).resided = g.resided := by
  unfold Group.join; split
  · rfl
  · simp only; split <;> simp
@[simp] theorem Group.join_idle (g : Group) (st : Strand) (pc : VAddr) (hs : List Word) (ls : List Nat) : (g.join st pc hs ls).idle = g.idle := by
  unfold Group.join; split
  · rfl
  · simp only; split <;> simp
@[simp] theorem Group.join_waitDue (g : Group) (st : Strand) (pc : VAddr) (hs : List Word) (ls : List Nat) : (g.join st pc hs ls).waitDue = g.waitDue := by
  unfold Group.join; split
  · rfl
  · simp only; split <;> simp
@[simp] theorem Group.join_residedDue (g : Group) (st : Strand) (pc : VAddr) (hs : List Word) (ls : List Nat) : (g.join st pc hs ls).residedDue = g.residedDue := by
  unfold Group.join; split
  · rfl
  · simp only; split <;> simp
@[simp] theorem Group.join_idleDue (g : Group) (st : Strand) (pc : VAddr) (hs : List Word) (ls : List Nat) : (g.join st pc hs ls).idleDue = g.idleDue := by
  unfold Group.join; split
  · rfl
  · simp only; split <;> simp
@[simp] theorem Group.join_order (g : Group) (st : Strand) (pc : VAddr) (hs : List Word) (ls : List Nat) : (g.join st pc hs ls).order = g.order := by
  unfold Group.join; split
  · rfl
  · simp only; split <;> simp
@[simp] theorem Group.join_spillSlot (g : Group) (st : Strand) (pc : VAddr) (hs : List Word) (ls : List Nat) : (g.join st pc hs ls).spillSlot = g.spillSlot := by
  unfold Group.join; split
  · rfl
  · simp only; split <;> simp
@[simp] theorem Group.join_parkFaults (g : Group) (st : Strand) (pc : VAddr) (hs : List Word) (ls : List Nat) : (g.join st pc hs ls).parkFaults = g.parkFaults := by
  unfold Group.join; split
  · rfl
  · simp only; split <;> simp
@[simp] theorem Group.join_owed (g : Group) (st : Strand) (pc : VAddr) (hs : List Word) (ls : List Nat) : (g.join st pc hs ls).owed = g.owed := by
  unfold Group.join; split
  · rfl
  · simp only; split <;> simp

@[simp] theorem Group.closeEntry_ctx (g : Group) (st : Strand) (e : Entry) (fs : List (Nat × Fate)) : (g.closeEntry st e fs).ctx = g.ctx := by
  unfold Group.closeEntry; split <;> simp
@[simp] theorem Group.closeEntry_tree (g : Group) (st : Strand) (e : Entry) (fs : List (Nat × Fate)) : (g.closeEntry st e fs).tree = g.tree := by
  unfold Group.closeEntry; split <;> simp
@[simp] theorem Group.closeEntry_gid (g : Group) (st : Strand) (e : Entry) (fs : List (Nat × Fate)) : (g.closeEntry st e fs).gid = g.gid := by
  unfold Group.closeEntry; split <;> simp
@[simp] theorem Group.closeEntry_team (g : Group) (st : Strand) (e : Entry) (fs : List (Nat × Fate)) : (g.closeEntry st e fs).team = g.team := by
  unfold Group.closeEntry; split <;> simp
@[simp] theorem Group.closeEntry_core (g : Group) (st : Strand) (e : Entry) (fs : List (Nat × Fate)) : (g.closeEntry st e fs).core = g.core := by
  unfold Group.closeEntry; split <;> simp
@[simp] theorem Group.closeEntry_status (g : Group) (st : Strand) (e : Entry) (fs : List (Nat × Fate)) : (g.closeEntry st e fs).status = g.status := by
  unfold Group.closeEntry; split <;> simp
@[simp] theorem Group.closeEntry_width (g : Group) (st : Strand) (e : Entry) (fs : List (Nat × Fate)) : (g.closeEntry st e fs).width = g.width := by
  unfold Group.closeEntry; split <;> simp
@[simp] theorem Group.closeEntry_vAlloc (g : Group) (st : Strand) (e : Entry) (fs : List (Nat × Fate)) : (g.closeEntry st e fs).vAlloc = g.vAlloc := by
  unfold Group.closeEntry; split <;> simp
@[simp] theorem Group.closeEntry_sAlloc (g : Group) (st : Strand) (e : Entry) (fs : List (Nat × Fate)) : (g.closeEntry st e fs).sAlloc = g.sAlloc := by
  unfold Group.closeEntry; split <;> simp
@[simp] theorem Group.closeEntry_kernel (g : Group) (st : Strand) (e : Entry) (fs : List (Nat × Fate)) : (g.closeEntry st e fs).kernel = g.kernel := by
  unfold Group.closeEntry; split <;> simp
@[simp] theorem Group.closeEntry_depth (g : Group) (st : Strand) (e : Entry) (fs : List (Nat × Fate)) : (g.closeEntry st e fs).depth = g.depth := by
  unfold Group.closeEntry; split <;> simp
@[simp] theorem Group.closeEntry_firstGid (g : Group) (st : Strand) (e : Entry) (fs : List (Nat × Fate)) : (g.closeEntry st e fs).firstGid = g.firstGid := by
  unfold Group.closeEntry; split <;> simp
@[simp] theorem Group.closeEntry_groupCount (g : Group) (st : Strand) (e : Entry) (fs : List (Nat × Fate)) : (g.closeEntry st e fs).groupCount = g.groupCount := by
  unfold Group.closeEntry; split <;> simp
@[simp] theorem Group.closeEntry_spawner (g : Group) (st : Strand) (e : Entry) (fs : List (Nat × Fate)) : (g.closeEntry st e fs).spawner = g.spawner := by
  unfold Group.closeEntry; split <;> simp
@[simp] theorem Group.closeEntry_hint (g : Group) (st : Strand) (e : Entry) (fs : List (Nat × Fate)) : (g.closeEntry st e fs).hint = g.hint := by
  unfold Group.closeEntry; split <;> simp
@[simp] theorem Group.closeEntry_args (g : Group) (st : Strand) (e : Entry) (fs : List (Nat × Fate)) : (g.closeEntry st e fs).args = g.args := by
  unfold Group.closeEntry; split <;> simp
@[simp] theorem Group.closeEntry_argFaults (g : Group) (st : Strand) (e : Entry) (fs : List (Nat × Fate)) : (g.closeEntry st e fs).argFaults = g.argFaults := by
  unfold Group.closeEntry; split <;> simp
@[simp] theorem Group.closeEntry_regs (g : Group) (st : Strand) (e : Entry) (fs : List (Nat × Fate)) : (g.closeEntry st e fs).regs = g.regs := by
  unfold Group.closeEntry; split <;> simp
@[simp] theorem Group.closeEntry_bank (g : Group) (st : Strand) (e : Entry) (fs : List (Nat × Fate)) : (g.closeEntry st e fs).bank = g.bank := by
  unfold Group.closeEntry; split <;> simp
@[simp] theorem Group.closeEntry_empty (g : Group) (st : Strand) (e : Entry) (fs : List (Nat × Fate)) : (g.closeEntry st e fs).empty = g.empty := by
  unfold Group.closeEntry; split <;> simp
@[simp] theorem Group.closeEntry_loose (g : Group) (st : Strand) (e : Entry) (fs : List (Nat × Fate)) : (g.closeEntry st e fs).loose = g.loose := by
  unfold Group.closeEntry; split <;> simp
@[simp] theorem Group.closeEntry_stores (g : Group) (st : Strand) (e : Entry) (fs : List (Nat × Fate)) : (g.closeEntry st e fs).stores = g.stores := by
  unfold Group.closeEntry; split <;> simp
@[simp] theorem Group.closeEntry_winC (g : Group) (st : Strand) (e : Entry) (fs : List (Nat × Fate)) : (g.closeEntry st e fs).winC = g.winC := by
  unfold Group.closeEntry; split <;> simp
@[simp] theorem Group.closeEntry_winA (g : Group) (st : Strand) (e : Entry) (fs : List (Nat × Fate)) : (g.closeEntry st e fs).winA = g.winA := by
  unfold Group.closeEntry; split <;> simp
@[simp] theorem Group.closeEntry_sentC (g : Group) (st : Strand) (e : Entry) (fs : List (Nat × Fate)) : (g.closeEntry st e fs).sentC = g.sentC := by
  unfold Group.closeEntry; split <;> simp
@[simp] theorem Group.closeEntry_sentA (g : Group) (st : Strand) (e : Entry) (fs : List (Nat × Fate)) : (g.closeEntry st e fs).sentA = g.sentA := by
  unfold Group.closeEntry; split <;> simp
@[simp] theorem Group.closeEntry_threads (g : Group) (st : Strand) (e : Entry) (fs : List (Nat × Fate)) : (g.closeEntry st e fs).threads = g.threads := by
  unfold Group.closeEntry; split <;> simp
@[simp] theorem Group.closeEntry_nextId (g : Group) (st : Strand) (e : Entry) (fs : List (Nat × Fate)) : (g.closeEntry st e fs).nextId = g.nextId := by
  unfold Group.closeEntry; split <;> simp
@[simp] theorem Group.closeEntry_accs (g : Group) (st : Strand) (e : Entry) (fs : List (Nat × Fate)) : (g.closeEntry st e fs).accs = g.accs := by
  unfold Group.closeEntry; split <;> simp
@[simp] theorem Group.closeEntry_ops (g : Group) (st : Strand) (e : Entry) (fs : List (Nat × Fate)) : (g.closeEntry st e fs).ops = g.ops := by
  unfold Group.closeEntry; split <;> simp
@[simp] theorem Group.closeEntry_slow (g : Group) (st : Strand) (e : Entry) (fs : List (Nat × Fate)) : (g.closeEntry st e fs).slow = g.slow := by
  unfold Group.closeEntry; split <;> simp
@[simp] theorem Group.closeEntry_seqs (g : Group) (st : Strand) (e : Entry) (fs : List (Nat × Fate)) : (g.closeEntry st e fs).seqs = g.seqs := by
  unfold Group.closeEntry; split <;> simp
@[simp] theorem Group.closeEntry_mstat (g : Group) (st : Strand) (e : Entry) (fs : List (Nat × Fate)) : (g.closeEntry st e fs).mstat = g.mstat := by
  unfold Group.closeEntry; split <;> simp
@[simp] theorem Group.closeEntry_vstat (g : Group) (st : Strand) (e : Entry) (fs : List (Nat × Fate)) : (g.closeEntry st e fs).vstat = g.vstat := by
  unfold Group.closeEntry; split <;> simp
@[simp] theorem Group.closeEntry_attach (g : Group) (st : Strand) (e : Entry) (fs : List (Nat × Fate)) : (g.closeEntry st e fs).attach = g.attach := by
  unfold Group.closeEntry; split <;> simp
@[simp] theorem Group.closeEntry_waited (g : Group) (st : Strand) (e : Entry) (fs : List (Nat × Fate)) : (g.closeEntry st e fs).waited = g.waited := by
  unfold Group.closeEntry; split <;> simp
@[simp] theorem Group.closeEntry_resided (g : Group) (st : Strand) (e : Entry) (fs : List (Nat × Fate)) : (g.closeEntry st e fs).resided = g.resided := by
  unfold Group.closeEntry; split <;> simp
@[simp] theorem Group.closeEntry_idle (g : Group) (st : Strand) (e : Entry) (fs : List (Nat × Fate)) : (g.closeEntry st e fs).idle = g.idle := by
  unfold Group.closeEntry; split <;> simp
@[simp] theorem Group.closeEntry_waitDue (g : Group) (st : Strand) (e : Entry) (fs : List (Nat × Fate)) : (g.closeEntry st e fs).waitDue = g.waitDue := by
  unfold Group.closeEntry; split <;> simp
@[simp] theorem Group.closeEntry_residedDue (g : Group) (st : Strand) (e : Entry) (fs : List (Nat × Fate)) : (g.closeEntry st e fs).residedDue = g.residedDue := by
  unfold Group.closeEntry; split <;> simp
@[simp] theorem Group.closeEntry_idleDue (g : Group) (st : Strand) (e : Entry) (fs : List (Nat × Fate)) : (g.closeEntry st e fs).idleDue = g.idleDue := by
  unfold Group.closeEntry; split <;> simp
@[simp] theorem Group.closeEntry_order (g : Group) (st : Strand) (e : Entry) (fs : List (Nat × Fate)) : (g.closeEntry st e fs).order = g.order := by
  unfold Group.closeEntry; split <;> simp
@[simp] theorem Group.closeEntry_spillSlot (g : Group) (st : Strand) (e : Entry) (fs : List (Nat × Fate)) : (g.closeEntry st e fs).spillSlot = g.spillSlot := by
  unfold Group.closeEntry; split <;> simp
@[simp] theorem Group.closeEntry_parkFaults (g : Group) (st : Strand) (e : Entry) (fs : List (Nat × Fate)) : (g.closeEntry st e fs).parkFaults = g.parkFaults := by
  unfold Group.closeEntry; split <;> simp
@[simp] theorem Group.closeEntry_owed (g : Group) (st : Strand) (e : Entry) (fs : List (Nat × Fate)) : (g.closeEntry st e fs).owed = g.owed := by
  unfold Group.closeEntry; split <;> simp

theorem Group.joinAll_keeps {β : Type} (φ : Group → β)
    (h : ∀ (g : Group) st pc hs ls, φ (g.join st pc hs ls) = φ g) (g : Group) (st : Strand) (fs : List (Nat × Fate)) :
    φ (g.joinAll st fs) = φ g := by
  induction fs generalizing g with
  | nil => rfl
  | cons f fs ih =>
    obtain ⟨l, x⟩ := f
    cases x <;> simp only [Group.joinAll, ih, h]

@[simp] theorem Group.joinAll_ctx (g : Group) (st : Strand) (fs : List (Nat × Fate)) : (g.joinAll st fs).ctx = g.ctx :=
  Group.joinAll_keeps (·.ctx) (fun g st pc hs ls => Group.join_ctx g st pc hs ls) g st fs
@[simp] theorem Group.joinAll_tree (g : Group) (st : Strand) (fs : List (Nat × Fate)) : (g.joinAll st fs).tree = g.tree :=
  Group.joinAll_keeps (·.tree) (fun g st pc hs ls => Group.join_tree g st pc hs ls) g st fs
@[simp] theorem Group.joinAll_gid (g : Group) (st : Strand) (fs : List (Nat × Fate)) : (g.joinAll st fs).gid = g.gid :=
  Group.joinAll_keeps (·.gid) (fun g st pc hs ls => Group.join_gid g st pc hs ls) g st fs
@[simp] theorem Group.joinAll_team (g : Group) (st : Strand) (fs : List (Nat × Fate)) : (g.joinAll st fs).team = g.team :=
  Group.joinAll_keeps (·.team) (fun g st pc hs ls => Group.join_team g st pc hs ls) g st fs
@[simp] theorem Group.joinAll_core (g : Group) (st : Strand) (fs : List (Nat × Fate)) : (g.joinAll st fs).core = g.core :=
  Group.joinAll_keeps (·.core) (fun g st pc hs ls => Group.join_core g st pc hs ls) g st fs
@[simp] theorem Group.joinAll_status (g : Group) (st : Strand) (fs : List (Nat × Fate)) : (g.joinAll st fs).status = g.status :=
  Group.joinAll_keeps (·.status) (fun g st pc hs ls => Group.join_status g st pc hs ls) g st fs
@[simp] theorem Group.joinAll_width (g : Group) (st : Strand) (fs : List (Nat × Fate)) : (g.joinAll st fs).width = g.width :=
  Group.joinAll_keeps (·.width) (fun g st pc hs ls => Group.join_width g st pc hs ls) g st fs
@[simp] theorem Group.joinAll_vAlloc (g : Group) (st : Strand) (fs : List (Nat × Fate)) : (g.joinAll st fs).vAlloc = g.vAlloc :=
  Group.joinAll_keeps (·.vAlloc) (fun g st pc hs ls => Group.join_vAlloc g st pc hs ls) g st fs
@[simp] theorem Group.joinAll_sAlloc (g : Group) (st : Strand) (fs : List (Nat × Fate)) : (g.joinAll st fs).sAlloc = g.sAlloc :=
  Group.joinAll_keeps (·.sAlloc) (fun g st pc hs ls => Group.join_sAlloc g st pc hs ls) g st fs
@[simp] theorem Group.joinAll_kernel (g : Group) (st : Strand) (fs : List (Nat × Fate)) : (g.joinAll st fs).kernel = g.kernel :=
  Group.joinAll_keeps (·.kernel) (fun g st pc hs ls => Group.join_kernel g st pc hs ls) g st fs
@[simp] theorem Group.joinAll_depth (g : Group) (st : Strand) (fs : List (Nat × Fate)) : (g.joinAll st fs).depth = g.depth :=
  Group.joinAll_keeps (·.depth) (fun g st pc hs ls => Group.join_depth g st pc hs ls) g st fs
@[simp] theorem Group.joinAll_firstGid (g : Group) (st : Strand) (fs : List (Nat × Fate)) : (g.joinAll st fs).firstGid = g.firstGid :=
  Group.joinAll_keeps (·.firstGid) (fun g st pc hs ls => Group.join_firstGid g st pc hs ls) g st fs
@[simp] theorem Group.joinAll_groupCount (g : Group) (st : Strand) (fs : List (Nat × Fate)) : (g.joinAll st fs).groupCount = g.groupCount :=
  Group.joinAll_keeps (·.groupCount) (fun g st pc hs ls => Group.join_groupCount g st pc hs ls) g st fs
@[simp] theorem Group.joinAll_spawner (g : Group) (st : Strand) (fs : List (Nat × Fate)) : (g.joinAll st fs).spawner = g.spawner :=
  Group.joinAll_keeps (·.spawner) (fun g st pc hs ls => Group.join_spawner g st pc hs ls) g st fs
@[simp] theorem Group.joinAll_hint (g : Group) (st : Strand) (fs : List (Nat × Fate)) : (g.joinAll st fs).hint = g.hint :=
  Group.joinAll_keeps (·.hint) (fun g st pc hs ls => Group.join_hint g st pc hs ls) g st fs
@[simp] theorem Group.joinAll_args (g : Group) (st : Strand) (fs : List (Nat × Fate)) : (g.joinAll st fs).args = g.args :=
  Group.joinAll_keeps (·.args) (fun g st pc hs ls => Group.join_args g st pc hs ls) g st fs
@[simp] theorem Group.joinAll_argFaults (g : Group) (st : Strand) (fs : List (Nat × Fate)) : (g.joinAll st fs).argFaults = g.argFaults :=
  Group.joinAll_keeps (·.argFaults) (fun g st pc hs ls => Group.join_argFaults g st pc hs ls) g st fs
@[simp] theorem Group.joinAll_regs (g : Group) (st : Strand) (fs : List (Nat × Fate)) : (g.joinAll st fs).regs = g.regs :=
  Group.joinAll_keeps (·.regs) (fun g st pc hs ls => Group.join_regs g st pc hs ls) g st fs
@[simp] theorem Group.joinAll_bank (g : Group) (st : Strand) (fs : List (Nat × Fate)) : (g.joinAll st fs).bank = g.bank :=
  Group.joinAll_keeps (·.bank) (fun g st pc hs ls => Group.join_bank g st pc hs ls) g st fs
@[simp] theorem Group.joinAll_empty (g : Group) (st : Strand) (fs : List (Nat × Fate)) : (g.joinAll st fs).empty = g.empty :=
  Group.joinAll_keeps (·.empty) (fun g st pc hs ls => Group.join_empty g st pc hs ls) g st fs
@[simp] theorem Group.joinAll_loose (g : Group) (st : Strand) (fs : List (Nat × Fate)) : (g.joinAll st fs).loose = g.loose :=
  Group.joinAll_keeps (·.loose) (fun g st pc hs ls => Group.join_loose g st pc hs ls) g st fs
@[simp] theorem Group.joinAll_stores (g : Group) (st : Strand) (fs : List (Nat × Fate)) : (g.joinAll st fs).stores = g.stores :=
  Group.joinAll_keeps (·.stores) (fun g st pc hs ls => Group.join_stores g st pc hs ls) g st fs
@[simp] theorem Group.joinAll_winC (g : Group) (st : Strand) (fs : List (Nat × Fate)) : (g.joinAll st fs).winC = g.winC :=
  Group.joinAll_keeps (·.winC) (fun g st pc hs ls => Group.join_winC g st pc hs ls) g st fs
@[simp] theorem Group.joinAll_winA (g : Group) (st : Strand) (fs : List (Nat × Fate)) : (g.joinAll st fs).winA = g.winA :=
  Group.joinAll_keeps (·.winA) (fun g st pc hs ls => Group.join_winA g st pc hs ls) g st fs
@[simp] theorem Group.joinAll_sentC (g : Group) (st : Strand) (fs : List (Nat × Fate)) : (g.joinAll st fs).sentC = g.sentC :=
  Group.joinAll_keeps (·.sentC) (fun g st pc hs ls => Group.join_sentC g st pc hs ls) g st fs
@[simp] theorem Group.joinAll_sentA (g : Group) (st : Strand) (fs : List (Nat × Fate)) : (g.joinAll st fs).sentA = g.sentA :=
  Group.joinAll_keeps (·.sentA) (fun g st pc hs ls => Group.join_sentA g st pc hs ls) g st fs
@[simp] theorem Group.joinAll_threads (g : Group) (st : Strand) (fs : List (Nat × Fate)) : (g.joinAll st fs).threads = g.threads :=
  Group.joinAll_keeps (·.threads) (fun g st pc hs ls => Group.join_threads g st pc hs ls) g st fs
@[simp] theorem Group.joinAll_accs (g : Group) (st : Strand) (fs : List (Nat × Fate)) : (g.joinAll st fs).accs = g.accs :=
  Group.joinAll_keeps (·.accs) (fun g st pc hs ls => Group.join_accs g st pc hs ls) g st fs
@[simp] theorem Group.joinAll_ops (g : Group) (st : Strand) (fs : List (Nat × Fate)) : (g.joinAll st fs).ops = g.ops :=
  Group.joinAll_keeps (·.ops) (fun g st pc hs ls => Group.join_ops g st pc hs ls) g st fs
@[simp] theorem Group.joinAll_slow (g : Group) (st : Strand) (fs : List (Nat × Fate)) : (g.joinAll st fs).slow = g.slow :=
  Group.joinAll_keeps (·.slow) (fun g st pc hs ls => Group.join_slow g st pc hs ls) g st fs
@[simp] theorem Group.joinAll_seqs (g : Group) (st : Strand) (fs : List (Nat × Fate)) : (g.joinAll st fs).seqs = g.seqs :=
  Group.joinAll_keeps (·.seqs) (fun g st pc hs ls => Group.join_seqs g st pc hs ls) g st fs
@[simp] theorem Group.joinAll_mstat (g : Group) (st : Strand) (fs : List (Nat × Fate)) : (g.joinAll st fs).mstat = g.mstat :=
  Group.joinAll_keeps (·.mstat) (fun g st pc hs ls => Group.join_mstat g st pc hs ls) g st fs
@[simp] theorem Group.joinAll_vstat (g : Group) (st : Strand) (fs : List (Nat × Fate)) : (g.joinAll st fs).vstat = g.vstat :=
  Group.joinAll_keeps (·.vstat) (fun g st pc hs ls => Group.join_vstat g st pc hs ls) g st fs
@[simp] theorem Group.joinAll_attach (g : Group) (st : Strand) (fs : List (Nat × Fate)) : (g.joinAll st fs).attach = g.attach :=
  Group.joinAll_keeps (·.attach) (fun g st pc hs ls => Group.join_attach g st pc hs ls) g st fs
@[simp] theorem Group.joinAll_waited (g : Group) (st : Strand) (fs : List (Nat × Fate)) : (g.joinAll st fs).waited = g.waited :=
  Group.joinAll_keeps (·.waited) (fun g st pc hs ls => Group.join_waited g st pc hs ls) g st fs
@[simp] theorem Group.joinAll_resided (g : Group) (st : Strand) (fs : List (Nat × Fate)) : (g.joinAll st fs).resided = g.resided :=
  Group.joinAll_keeps (·.resided) (fun g st pc hs ls => Group.join_resided g st pc hs ls) g st fs
@[simp] theorem Group.joinAll_idle (g : Group) (st : Strand) (fs : List (Nat × Fate)) : (g.joinAll st fs).idle = g.idle :=
  Group.joinAll_keeps (·.idle) (fun g st pc hs ls => Group.join_idle g st pc hs ls) g st fs
@[simp] theorem Group.joinAll_waitDue (g : Group) (st : Strand) (fs : List (Nat × Fate)) : (g.joinAll st fs).waitDue = g.waitDue :=
  Group.joinAll_keeps (·.waitDue) (fun g st pc hs ls => Group.join_waitDue g st pc hs ls) g st fs
@[simp] theorem Group.joinAll_residedDue (g : Group) (st : Strand) (fs : List (Nat × Fate)) : (g.joinAll st fs).residedDue = g.residedDue :=
  Group.joinAll_keeps (·.residedDue) (fun g st pc hs ls => Group.join_residedDue g st pc hs ls) g st fs
@[simp] theorem Group.joinAll_idleDue (g : Group) (st : Strand) (fs : List (Nat × Fate)) : (g.joinAll st fs).idleDue = g.idleDue :=
  Group.joinAll_keeps (·.idleDue) (fun g st pc hs ls => Group.join_idleDue g st pc hs ls) g st fs
@[simp] theorem Group.joinAll_order (g : Group) (st : Strand) (fs : List (Nat × Fate)) : (g.joinAll st fs).order = g.order :=
  Group.joinAll_keeps (·.order) (fun g st pc hs ls => Group.join_order g st pc hs ls) g st fs
@[simp] theorem Group.joinAll_spillSlot (g : Group) (st : Strand) (fs : List (Nat × Fate)) : (g.joinAll st fs).spillSlot = g.spillSlot :=
  Group.joinAll_keeps (·.spillSlot) (fun g st pc hs ls => Group.join_spillSlot g st pc hs ls) g st fs
@[simp] theorem Group.joinAll_parkFaults (g : Group) (st : Strand) (fs : List (Nat × Fate)) : (g.joinAll st fs).parkFaults = g.parkFaults :=
  Group.joinAll_keeps (·.parkFaults) (fun g st pc hs ls => Group.join_parkFaults g st pc hs ls) g st fs
@[simp] theorem Group.joinAll_owed (g : Group) (st : Strand) (fs : List (Nat × Fate)) : (g.joinAll st fs).owed = g.owed :=
  Group.joinAll_keeps (·.owed) (fun g st pc hs ls => Group.join_owed g st pc hs ls) g st fs

/-! ### Registers -/

/-- Codes of a0: its writes are discarded (R72). -/
def isA0 (code : Nat) : Bool := decide (0x4000 ≤ code) && decide (code < 0x4040)

theorem Group.write_a0 (g : Group) (code : Nat) (x : DWord) (h : isA0 code = true) : g.write code x = g := by
  unfold Group.write; exact if_pos h

theorem Group.write_eq (g : Group) (code : Nat) (x : DWord) (h : isA0 code = false) :
    g.write code x =
      { g with regs := SMap.put 0#64 g.regs code x, loose := SMap.put false g.loose code false, stores := g.unseenBut code } := by
  unfold Group.write
  exact if_neg (by rw [show (decide (0x4000 ≤ code) && decide (code < 0x4040)) = isA0 code from rfl, h]; simp)

/-- A write that is not discarded is what every later read returns. -/
theorem Group.read_write_self (g : Group) (free code : Nat) (x : DWord) (h : isA0 code = false) :
    (g.write code x).read free code = x := by
  rw [Group.write_eq g code x h]; simp [Group.read]

/-- A write leaves every other register as it reads. -/
theorem Group.read_write_other (g : Group) (free : Nat) {code c : Nat} (x : DWord) (h : c ≠ code) :
    (g.write code x).read free c = g.read free c := by
  unfold Group.write
  split
  · rfl
  · simp [Group.read, SMap.get_put, h]

theorem Group.arch_write (g : Group) (code c : Nat) (x : DWord) :
    (g.write code x).arch c = if c = code ∧ isA0 code = false then x else g.arch c := by
  by_cases h : isA0 code = true
  · rw [Group.write_a0 g code x h, if_neg (by simp [h])]
  · have h' : isA0 code = false := by simpa using h
    rw [Group.write_eq g code x h']
    simp only [Group.arch, SMap.get_put, h', and_true]

@[simp] theorem Group.arch_writeBack (g : Group) (cs : List Nat) (c : Nat) : (g.writeBack cs).arch c = g.arch c := by
  simp [Group.arch]

@[simp] theorem Group.arch_pushWindow (g : Group) (st : Strand) (cs : List Nat) (c : Nat) :
    (g.pushWindow st cs).arch c = g.arch c := by simp [Group.arch]

@[simp] theorem Group.arch_kill (g : Group) (st : Strand) (cs : List Nat) (c : Nat) :
    (g.kill st cs).arch c = g.arch c := by simp [Group.arch]

/-- Writes leave the architectural value of every register they do not name. -/
theorem Group.arch_writeAll_other (g : Group) (ws : List (Nat × DWord)) (c : Nat) (h : c ∉ ws.map (·.1)) :
    (g.writeAll ws).arch c = g.arch c := by
  unfold Group.writeAll
  induction ws generalizing g with
  | nil => rfl
  | cons w ws ih =>
    simp only [List.map_cons, List.mem_cons, not_or] at h
    rw [List.foldl_cons, ih _ h.2, Group.arch_write, if_neg (fun e => h.1 e.1)]

end Sys2Proof.Machine
end

