-- ==== Sys2Proof/Laws/Memory.lean ====
section
/-! SUPPORT. The laws of memory: reading after writing, other bytes left alone, and the canonical form kept by every memory
operation. -/

namespace Sys2Proof.Machine

open Sys2Proof

/-! ### Bytes of a byte map -/

/-- Writing a run of bytes keeps the canonical form. -/
theorem putBytes_wf (m : List Host.Cell) (a : Nat) (bs : List Byte) (h : Memory.wf m = true) :
    Memory.wf (putBytes m a bs) = true := by
  induction bs generalizing m a with
  | nil => exact h
  | cons b bs ih => exact ih _ _ (SMap.wf_put 0#8 m a b h)

/-- What a byte map reads after a run of bytes was written. -/
theorem putBytes_get (m : List Host.Cell) (a : Nat) (bs : List Byte) (x : Nat) :
    SMap.get 0#8 (putBytes m a bs) x =
      if a ≤ x ∧ x < a + bs.length then bs.getD (x - a) 0#8 else SMap.get 0#8 m x := by
  induction bs generalizing m a with
  | nil =>
    have h : ¬ (a ≤ x ∧ x < a + ([] : List Byte).length) := by simp only [List.length_nil]; omega
    rw [if_neg h]; rfl
  | cons b bs ih =>
    simp only [putBytes, ih, List.length_cons]
    by_cases h1 : a + 1 ≤ x ∧ x < a + 1 + bs.length
    · rw [if_pos h1, if_pos (by omega)]
      obtain ⟨k, hk⟩ : ∃ k, x - a = k + 1 := ⟨x - a - 1, by omega⟩
      rw [hk, List.getD_cons_succ]
      congr 1; omega
    · rw [if_neg h1, SMap.get_put]
      by_cases h2 : x = a
      · subst h2; simp
      · rw [if_neg h2, if_neg (by omega)]

/-! ### The operations -/

@[simp] theorem mscTouch_mem (s : State) (pa n : Nat) (d : Bool) : (mscTouch s pa n d).mem = s.mem := by
  unfold mscTouch; simp only; split <;> rfl

@[simp] theorem clearPoison_mem (s : State) (pa n : Nat) : (clearPoison s pa n).mem = s.mem := rfl

@[simp] theorem mscTouch_domainOn (s : State) (pa n : Nat) (d : Bool) :
    (mscTouch s pa n d).domainOn = s.domainOn := by unfold mscTouch; simp only; split <;> rfl

@[simp] theorem mscTouch_domain (s : State) (pa n : Nat) (d : Bool) : (mscTouch s pa n d).domain = s.domain := by
  unfold mscTouch; simp only; split <;> rfl

theorem normPA_congr {s t : State} (h1 : t.domainOn = s.domainOn) (h2 : t.domain = s.domain) (pa : Nat) :
    normPA t pa = normPA s pa := by unfold normPA; rw [h1, h2]

/-- A write of bytes at their home. -/
theorem writeRaw_mem (s : State) (pa : Nat) (bs : List Byte) :
    (writeRaw s pa bs).mem = putBytes s.mem (normPA s pa) bs := by
  simp only [writeRaw, mscTouch_mem, clearPoison_mem]
  congr 1
  exact normPA_congr (mscTouch_domainOn ..) (mscTouch_domain ..) pa

@[simp] theorem setBlock_mem (s : State) (c num stack tile : Nat) : (setBlock s c num stack tile).mem = s.mem := by
  unfold setBlock; split <;> rfl

theorem foldl_mem {β : Type} (f : State → β → State) (h : ∀ s x, (f s x).mem = s.mem) (l : List β) (s : State) :
    (l.foldl f s).mem = s.mem := by
  induction l generalizing s with
  | nil => rfl
  | cons x l ih => rw [List.foldl_cons, ih, h]

@[simp] theorem setPending_mem (s : State) (c num : Nat) (v : View) (i : Nat) : (setPending s c num v i).mem = s.mem :=
  foldl_mem _ (fun s _ => setBlock_mem s ..) _ _

@[simp] theorem markViews_mem (s : State) (pa n : Nat) : (markViews s pa n).mem = s.mem := by
  unfold markViews
  refine foldl_mem _ (fun s p => foldl_mem _ (fun s v => foldl_mem _ (fun s i => ?_) _ _) _ _) _ _
  exact setPending_mem s ..

/-- A write at a home changes memory as the raw write does. -/
theorem writeHome_mem (s : State) (pa : Nat) (bs : List Byte) :
    (writeHome s pa bs).mem = putBytes s.mem (normPA s pa) bs := by
  rw [writeHome, markViews_mem, writeRaw_mem]

@[simp] theorem readHome_mem (s : State) (pa n : Nat) : (readHome s pa n).2.mem = s.mem := mscTouch_mem ..

/-- A raw write keeps the canonical form. -/
theorem writeRaw_wf (s : State) (pa : Nat) (bs : List Byte) (h : Memory.wf s.mem = true) :
    Memory.wf (writeRaw s pa bs).mem = true := by rw [writeRaw_mem]; exact putBytes_wf _ _ _ h

/-- A write at a home keeps the canonical form. -/
theorem writeHome_wf (s : State) (pa : Nat) (bs : List Byte) (h : Memory.wf s.mem = true) :
    Memory.wf (writeHome s pa bs).mem = true := by rw [writeHome_mem]; exact putBytes_wf _ _ _ h

/-- Placing bytes in the local store of a core keeps its canonical form. -/
theorem lsWrite_wf (s : State) (core a : Nat) (bs : List Byte) (h : Memory.wf (s.core core).banks = true) :
    Memory.wf ((lsWrite s core a bs).core core).banks = true := by
  have : (lsWrite s core a bs).core core = { s.core core with banks := putBytes (s.core core).banks a bs } := by
    simp [lsWrite, State.setCore, State.core]
  rw [this]; exact putBytes_wf _ _ _ h

/-- Zeroing a bank keeps the canonical form of the local store. -/
theorem lsZeroBank_wf (s : State) (core b : Nat) (h : Memory.wf (s.core core).banks = true) :
    Memory.wf ((lsZeroBank s core b).core core).banks = true := by
  have : ((lsZeroBank s core b).core core).banks = (s.core core).banks.filter fun p => p.1 / 65536 != b := by
    simp [lsZeroBank, State.setCore, State.core]
  rw [this]; exact SMap.wf_filter 0#8 _ _ h

/-- Claiming frames changes no byte of memory. -/
@[simp] theorem claimFrames_mem (s : State) (c : Option Nat) (pas : List Nat) : (claimFrames s c pas).mem = s.mem := by
  cases c <;> rfl

@[simp] theorem claimFrames_cores (s : State) (c : Option Nat) (pas : List Nat) : (claimFrames s c pas).cores = s.cores := by
  cases c <;> rfl

@[simp] theorem claimFrames_none (s : State) (pas : List Nat) : claimFrames s none pas = s := rfl

/-- Marking the lines of a stream changes the slices' lines alone. -/
@[simp] theorem streamLines_mem (s t : State) : (streamLines s t).mem = t.mem := rfl

@[simp] theorem streamLines_cores (s t : State) : (streamLines s t).cores = t.cores := rfl

/-- The memory after reset has the canonical form. -/
theorem reset_mem_wf : Memory.wf State.reset.mem = true := rfl

end Sys2Proof.Machine
end

