-- ==== Sys2Proof/Laws/PerInstr.lean ====
section
/-! SUPPORT. The families of lemmas made per instruction: an instruction without an encoding, a device or host event, is
decoded from no word. -/

namespace Sys2Proof.Laws

open Sys2Proof

/-- A decoded word is the encoding of its instruction: the fields that must be zero are zero. -/
theorem encode_of_decodeWord {w : BitVec 32} {i : Instr} (h : decodeWord w = some i) : encode i = some w := by
  unfold decodeWord at h
  split at h
  · cases h
  · split at h
    · cases h; assumption
    · cases h

/-- An instruction without an encoding is decoded from no word. -/
theorem undecoded {i : Instr} (h : encode i = none) (w : BitVec 32) : decodeWord w ≠ some i := by
  intro e
  rw [encode_of_decodeWord e] at h
  cases h

/-- An instruction without an encoding is decoded from no word. -/
def Words.Statement (i : Instr) : Prop := encode i = none → ∀ w : BitVec 32, decodeWord w ≠ some i

theorem Words.iadd (f : VOps) : Words.Statement (.iadd f) := undecoded
theorem Words.isub (f : VOps) : Words.Statement (.isub f) := undecoded
theorem Words.imul (f : VOps) : Words.Statement (.imul f) := undecoded
theorem Words.imulh (f : VOps) : Words.Statement (.imulh f) := undecoded
theorem Words.imin (f : VOps) : Words.Statement (.imin f) := undecoded
theorem Words.imax (f : VOps) : Words.Statement (.imax f) := undecoded
theorem Words.umin (f : VOps) : Words.Statement (.umin f) := undecoded
theorem Words.umax (f : VOps) : Words.Statement (.umax f) := undecoded
theorem Words.land (f : VOps) : Words.Statement (.land f) := undecoded
theorem Words.lor (f : VOps) : Words.Statement (.lor f) := undecoded
theorem Words.lxor (f : VOps) : Words.Statement (.lxor f) := undecoded
theorem Words.landn (f : VOps) : Words.Statement (.landn f) := undecoded
theorem Words.shl (f : VOps) : Words.Statement (.shl f) := undecoded
theorem Words.shr (f : VOps) : Words.Statement (.shr f) := undecoded
theorem Words.sar (f : VOps) : Words.Statement (.sar f) := undecoded
theorem Words.rot (f : VOps) : Words.Statement (.rot f) := undecoded
theorem Words.imac (f : VOps) : Words.Statement (.imac f) := undecoded
theorem Words.imulhu (f : VOps) : Words.Statement (.imulhu f) := undecoded
theorem Words.isad (f : VOps) : Words.Statement (.isad f) := undecoded
theorem Words.idot4 (f : VOps) : Words.Statement (.idot4 f) := undecoded
theorem Words.inot (f : UnOps) : Words.Statement (.inot f) := undecoded
theorem Words.ineg (f : UnOps) : Words.Statement (.ineg f) := undecoded
theorem Words.iabs (f : UnOps) : Words.Statement (.iabs f) := undecoded
theorem Words.popc (f : UnOps) : Words.Statement (.popc f) := undecoded
theorem Words.clz (f : UnOps) : Words.Statement (.clz f) := undecoded
theorem Words.ctz (f : UnOps) : Words.Statement (.ctz f) := undecoded
theorem Words.brev (f : UnOps) : Words.Statement (.brev f) := undecoded
theorem Words.fneg (f : UnOps) : Words.Statement (.fneg f) := undecoded
theorem Words.fabs (f : UnOps) : Words.Statement (.fabs f) := undecoded
theorem Words.ffloor (f : UnOps) : Words.Statement (.ffloor f) := undecoded
theorem Words.fceil (f : UnOps) : Words.Statement (.fceil f) := undecoded
theorem Words.ftrunc (f : UnOps) : Words.Statement (.ftrunc f) := undecoded
theorem Words.frint (f : UnOps) : Words.Statement (.frint f) := undecoded
theorem Words.frcp (f : UnOps) : Words.Statement (.frcp f) := undecoded
theorem Words.frsq (f : UnOps) : Words.Statement (.frsq f) := undecoded
theorem Words.fsqrt (f : UnOps) : Words.Statement (.fsqrt f) := undecoded
theorem Words.fexp2 (f : UnOps) : Words.Statement (.fexp2 f) := undecoded
theorem Words.flog2 (f : UnOps) : Words.Statement (.flog2 f) := undecoded
theorem Words.ftanh (f : UnOps) : Words.Statement (.ftanh f) := undecoded
theorem Words.fsin (f : UnOps) : Words.Statement (.fsin f) := undecoded
theorem Words.fcos (f : UnOps) : Words.Statement (.fcos f) := undecoded
theorem Words.fadd (f : VOps) : Words.Statement (.fadd f) := undecoded
theorem Words.fsub (f : VOps) : Words.Statement (.fsub f) := undecoded
theorem Words.fmul (f : VOps) : Words.Statement (.fmul f) := undecoded
theorem Words.fmac (f : VOps) : Words.Statement (.fmac f) := undecoded
theorem Words.fmin (f : VOps) : Words.Statement (.fmin f) := undecoded
theorem Words.fmax (f : VOps) : Words.Statement (.fmax f) := undecoded
theorem Words.fsgnj (f : VOps) : Words.Statement (.fsgnj f) := undecoded
theorem Words.fabd (f : VOps) : Words.Statement (.fabd f) := undecoded
theorem Words.badd2 (f : VOps) : Words.Statement (.badd2 f) := undecoded
theorem Words.bmul2 (f : VOps) : Words.Statement (.bmul2 f) := undecoded
theorem Words.bmac2 (f : VOps) : Words.Statement (.bmac2 f) := undecoded
theorem Words.bmax2 (f : VOps) : Words.Statement (.bmax2 f) := undecoded
theorem Words.hadd2 (f : VOps) : Words.Statement (.hadd2 f) := undecoded
theorem Words.hmul2 (f : VOps) : Words.Statement (.hmul2 f) := undecoded
theorem Words.hmac2 (f : VOps) : Words.Statement (.hmac2 f) := undecoded
theorem Words.hmax2 (f : VOps) : Words.Statement (.hmax2 f) := undecoded
theorem Words.icmp (f : CmpOps) : Words.Statement (.icmp f) := undecoded
theorem Words.ucmp (f : CmpOps) : Words.Statement (.ucmp f) := undecoded
theorem Words.fcmp (f : CmpOps) : Words.Statement (.fcmp f) := undecoded
theorem Words.fclass (f : ClassOps) : Words.Statement (.fclass f) := undecoded
theorem Words.cvtf (f : CvtOps) : Words.Statement (.cvtf f) := undecoded
theorem Words.cvth (f : CvtOps) : Words.Statement (.cvth f) := undecoded
theorem Words.bxpack (f : CvtOps) : Words.Statement (.bxpack f) := undecoded
theorem Words.bxunpack (f : CvtOps) : Words.Statement (.bxunpack f) := undecoded
theorem Words.bxdot2 (f : BxOps) : Words.Statement (.bxdot2 f) := undecoded
theorem Words.bxdot4 (f : BxOps) : Words.Statement (.bxdot4 f) := undecoded
theorem Words.bxdot7 (f : BxOps) : Words.Statement (.bxdot7 f) := undecoded
theorem Words.f4dot (f : DotOps) : Words.Statement (.f4dot f) := undecoded
theorem Words.shfl (f : LnOps) : Words.Statement (.shfl f) := undecoded
theorem Words.vote (f : LnOps) : Words.Statement (.vote f) := undecoded
theorem Words.redux (f : LnOps) : Words.Statement (.redux f) := undecoded
theorem Words.scan (f : LnOps) : Words.Statement (.scan f) := undecoded
theorem Words.iadds (f : VsOps) : Words.Statement (.iadds f) := undecoded
theorem Words.fadds (f : VsOps) : Words.Statement (.fadds f) := undecoded
theorem Words.fmuls (f : VsOps) : Words.Statement (.fmuls f) := undecoded
theorem Words.movs (f : MovsOps) : Words.Statement (.movs f) := undecoded
theorem Words.iaddi (f : ViOps) : Words.Statement (.iaddi f) := undecoded
theorem Words.andi (f : ViOps) : Words.Statement (.andi f) := undecoded
theorem Words.ori (f : ViOps) : Words.Statement (.ori f) := undecoded
theorem Words.xori (f : ViOps) : Words.Statement (.xori f) := undecoded
theorem Words.shli (f : ShOps) : Words.Statement (.shli f) := undecoded
theorem Words.shri (f : ShOps) : Words.Statement (.shri f) := undecoded
theorem Words.sari (f : ShOps) : Words.Statement (.sari f) := undecoded
theorem Words.li (f : LiOps) : Words.Statement (.li f) := undecoded
theorem Words.mov (f : UnOps) : Words.Statement (.mov f) := undecoded
theorem Words.sel (f : SelOps) : Words.Statement (.sel f) := undecoded
theorem Words.xsend (f : SendOps) : Words.Statement (.xsend f) := undecoded
theorem Words.xrecv (f : RecvOps) : Words.Statement (.xrecv f) := undecoded
theorem Words.pop (f : QOps) : Words.Statement (.pop f) := undecoded
theorem Words.push (f : QOps) : Words.Statement (.push f) := undecoded
theorem Words.peek (f : QOps) : Words.Statement (.peek f) := undecoded
theorem Words.qlen (f : QOps) : Words.Statement (.qlen f) := undecoded
theorem Words.sadd (f : S3Ops) : Words.Statement (.sadd f) := undecoded
theorem Words.ssub (f : S3Ops) : Words.Statement (.ssub f) := undecoded
theorem Words.smul (f : S3Ops) : Words.Statement (.smul f) := undecoded
theorem Words.sand (f : S3Ops) : Words.Statement (.sand f) := undecoded
theorem Words.sor (f : S3Ops) : Words.Statement (.sor f) := undecoded
theorem Words.sxor (f : S3Ops) : Words.Statement (.sxor f) := undecoded
theorem Words.sshl (f : S3Ops) : Words.Statement (.sshl f) := undecoded
theorem Words.sshr (f : S3Ops) : Words.Statement (.sshr f) := undecoded
theorem Words.saddi (f : SiOps) : Words.Statement (.saddi f) := undecoded
theorem Words.sli (f : SliOps) : Words.Statement (.sli f) := undecoded
theorem Words.smov (f : S2Ops) : Words.Statement (.smov f) := undecoded
theorem Words.v2s (f : V2sOps) : Words.Statement (.v2s f) := undecoded
theorem Words.smin (f : S3Ops) : Words.Statement (.smin f) := undecoded
theorem Words.smax (f : S3Ops) : Words.Statement (.smax f) := undecoded
theorem Words.sclz (f : S2Ops) : Words.Statement (.sclz f) := undecoded
theorem Words.spopc (f : S2Ops) : Words.Statement (.spopc f) := undecoded
theorem Words.aadd (f : A3Ops) : Words.Statement (.aadd f) := undecoded
theorem Words.asub (f : A3Ops) : Words.Statement (.asub f) := undecoded
theorem Words.amul (f : A3Ops) : Words.Statement (.amul f) := undecoded
theorem Words.aand (f : A3Ops) : Words.Statement (.aand f) := undecoded
theorem Words.aor (f : A3Ops) : Words.Statement (.aor f) := undecoded
theorem Words.axor (f : A3Ops) : Words.Statement (.axor f) := undecoded
theorem Words.ashl (f : A3Ops) : Words.Statement (.ashl f) := undecoded
theorem Words.ashr (f : A3Ops) : Words.Statement (.ashr f) := undecoded
theorem Words.asar (f : A3Ops) : Words.Statement (.asar f) := undecoded
theorem Words.amin (f : A3Ops) : Words.Statement (.amin f) := undecoded
theorem Words.amax (f : A3Ops) : Words.Statement (.amax f) := undecoded
theorem Words.alea (f : LeaOps) : Words.Statement (.alea f) := undecoded
theorem Words.acmp (f : AcmpOps) : Words.Statement (.acmp f) := undecoded
theorem Words.amov (f : A2Ops) : Words.Statement (.amov f) := undecoded
theorem Words.a2s (f : A2sOps) : Words.Statement (.a2s f) := undecoded
theorem Words.s2a (f : S2aOps) : Words.Statement (.s2a f) := undecoded
theorem Words.aaddi (f : AiOps) : Words.Statement (.aaddi f) := undecoded
theorem Words.ali (f : AliOps) : Words.Statement (.ali f) := undecoded
theorem Words.alui (f : AiOps) : Words.Statement (.alui f) := undecoded
theorem Words.aandi (f : AiOps) : Words.Statement (.aandi f) := undecoded
theorem Words.aori (f : AiOps) : Words.Statement (.aori f) := undecoded
theorem Words.ashli (f : AshOps) : Words.Statement (.ashli f) := undecoded
theorem Words.ashri (f : AshOps) : Words.Statement (.ashri f) := undecoded
theorem Words.acmpi (f : AcmpiOps) : Words.Statement (.acmpi f) := undecoded
theorem Words.ldq (f : LdqOps) : Words.Statement (.ldq f) := undecoded
theorem Words.lda (f : MOps) : Words.Statement (.lda f) := undecoded
theorem Words.st (f : MOps) : Words.Statement (.st f) := undecoded
theorem Words.atomAdd (f : AtomOps) : Words.Statement (.atomAdd f) := undecoded
theorem Words.atomMin (f : AtomMOps) : Words.Statement (.atomMin f) := undecoded
theorem Words.atomMax (f : AtomMOps) : Words.Statement (.atomMax f) := undecoded
theorem Words.atomAnd (f : AtomOps) : Words.Statement (.atomAnd f) := undecoded
theorem Words.atomOr (f : AtomOps) : Words.Statement (.atomOr f) := undecoded
theorem Words.atomXor (f : AtomOps) : Words.Statement (.atomXor f) := undecoded
theorem Words.atomXchg (f : AtomOps) : Words.Statement (.atomXchg f) := undecoded
theorem Words.atomCas (f : AtomOps) : Words.Statement (.atomCas f) := undecoded
theorem Words.ldl (f : LtOps) : Words.Statement (.ldl f) := undecoded
theorem Words.stl (f : LtOps) : Words.Statement (.stl f) := undecoded
theorem Words.ldt (f : LtOps) : Words.Statement (.ldt f) := undecoded
theorem Words.stt (f : LtOps) : Words.Statement (.stt f) := undecoded
theorem Words.br (f : BrOps) : Words.Statement (.br f) := undecoded
theorem Words.brt (f : BrpOps) : Words.Statement (.brt f) := undecoded
theorem Words.brf (f : BrpOps) : Words.Statement (.brf f) := undecoded
theorem Words.call (f : BrOps) : Words.Statement (.call f) := undecoded
theorem Words.ret (f : RetOps) : Words.Statement (.ret f) := undecoded
theorem Words.jmps (f : JmpsOps) : Words.Statement (.jmps f) := undecoded
theorem Words.exit : Words.Statement (.exit) := undecoded
theorem Words.cpl (f : CplOps) : Words.Statement (.cpl f) := undecoded
theorem Words.cpk (f : CpkOps) : Words.Statement (.cpk f) := undecoded
theorem Words.pft (f : PftOps) : Words.Statement (.pft f) := undecoded
theorem Words.tload (f : TloadOps) : Words.Statement (.tload f) := undecoded
theorem Words.tsclaim (f : SlotOps) : Words.Statement (.tsclaim f) := undecoded
theorem Words.tsrel (f : SlotOps) : Words.Statement (.tsrel f) := undecoded
theorem Words.mma (f : XaOps) : Words.Statement (.mma f) := undecoded
theorem Words.mdist (f : XaOps) : Words.Statement (.mdist f) := undecoded
theorem Words.mtopk (f : XaOps) : Words.Statement (.mtopk f) := undecoded
theorem Words.mattn (f : XaOps) : Words.Statement (.mattn f) := undecoded
theorem Words.macz (f : MaczOps) : Words.Statement (.macz f) := undecoded
theorem Words.macrd (f : MacrdOps) : Words.Statement (.macrd f) := undecoded
theorem Words.spawn (f : XaOps) : Words.Statement (.spawn f) := undecoded
theorem Words.vwsync (f : XaOps) : Words.Statement (.vwsync f) := undecoded
theorem Words.vwstat (f : XdOps) : Words.Statement (.vwstat f) := undecoded
theorem Words.segmk (f : SegmkOps) : Words.Statement (.segmk f) := undecoded
theorem Words.segatt (f : SegattOps) : Words.Statement (.segatt f) := undecoded
theorem Words.segdet (f : XaOps) : Words.Statement (.segdet f) := undecoded
theorem Words.segdrop (f : XaOps) : Words.Statement (.segdrop f) := undecoded
theorem Words.segseal (f : XaOps) : Words.Statement (.segseal f) := undecoded
theorem Words.ctload (f : CtloadOps) : Words.Statement (.ctload f) := undecoded
theorem Words.ctinv (f : CtinvOps) : Words.Statement (.ctinv f) := undecoded
theorem Words.xlmapNew (f : XadOps) : Words.Statement (.xlmapNew f) := undecoded
theorem Words.xlmapRd (f : XlmapOps) : Words.Statement (.xlmapRd f) := undecoded
theorem Words.xlmapWr (f : XlmapOps) : Words.Statement (.xlmapWr f) := undecoded
theorem Words.xlfork (f : XadOps) : Words.Statement (.xlfork f) := undecoded
theorem Words.xlfree (f : XaOps) : Words.Statement (.xlfree f) := undecoded
theorem Words.xlfreeAccept (f : XabOps) : Words.Statement (.xlfreeAccept f) := undecoded
theorem Words.xlseal (f : XaOps) : Words.Statement (.xlseal f) := undecoded
theorem Words.xlpfx (f : XlmapOps) : Words.Statement (.xlpfx f) := undecoded
theorem Words.evwait (f : EvOps) : Words.Statement (.evwait f) := undecoded
theorem Words.evset (f : EvOps) : Words.Statement (.evset f) := undecoded
theorem Words.evclr (f : XaOps) : Words.Statement (.evclr f) := undecoded
theorem Words.evtest (f : EvdOps) : Words.Statement (.evtest f) := undecoded
theorem Words.tbinit (f : XabOps) : Words.Statement (.tbinit f) := undecoded
theorem Words.tbarv (f : TbarvOps) : Words.Statement (.tbarv f) := undecoded
theorem Words.tbarvLanes (f : XaOps) : Words.Statement (.tbarvLanes f) := undecoded
theorem Words.tbexp (f : XabOps) : Words.Statement (.tbexp f) := undecoded
theorem Words.tbexpArv (f : XabOps) : Words.Statement (.tbexpArv f) := undecoded
theorem Words.tbwait (f : XabdOps) : Words.Statement (.tbwait f) := undecoded
theorem Words.cwait (f : CwaitOps) : Words.Statement (.cwait f) := undecoded
theorem Words.fence (f : FenceOps) : Words.Statement (.fence f) := undecoded
theorem Words.trap (f : TrapOps) : Words.Statement (.trap f) := undecoded
theorem Words.tret : Words.Statement (.tret) := undecoded
theorem Words.brk (f : BrkOps) : Words.Statement (.brk f) := undecoded
theorem Words.csrr (f : CsrOps) : Words.Statement (.csrr f) := undecoded
theorem Words.csrw (f : CsrOps) : Words.Statement (.csrw f) := undecoded
theorem Words.sleep (f : SleepOps) : Words.Statement (.sleep f) := undecoded
theorem Words.yield : Words.Statement (.yield) := undecoded
theorem Words.rgrow (f : GrowOps) : Words.Statement (.rgrow f) := undecoded
theorem Words.rshrink (f : GrowOps) : Words.Statement (.rshrink f) := undecoded
theorem Words.rsync : Words.Statement (.rsync) := undecoded
theorem Words.lsmode (f : LsmodeOps) : Words.Statement (.lsmode f) := undecoded
theorem Words.nop : Words.Statement (.nop) := undecoded
theorem Words.hImm (f : HintOps) : Words.Statement (.hImm f) := undecoded
theorem Words.hImx (f : HintOps) : Words.Statement (.hImx f) := undecoded
theorem Words.hKill (f : HintOps) : Words.Statement (.hKill f) := undecoded
theorem Words.hSched (f : HintOps) : Words.Statement (.hSched f) := undecoded
theorem Words.hMod (f : HintOps) : Words.Statement (.hMod f) := undecoded
theorem Words.hPred (f : HintOps) : Words.Statement (.hPred f) := undecoded
theorem Words.loadDelivery (g : Nat) (acc : Nat) : Words.Statement (.loadDelivery g acc) := undecoded
theorem Words.ldaFill (g : Nat) (acc : Nat) : Words.Statement (.ldaFill g acc) := undecoded
theorem Words.ldtDelivery (g : Nat) (op : Nat) : Words.Statement (.ldtDelivery g op) := undecoded
theorem Words.sttPopStep (g : Nat) (op : Nat) : Words.Statement (.sttPopStep g op) := undecoded
theorem Words.tileDecode (core : Nat) (port : Nat) : Words.Statement (.tileDecode core port) := undecoded
theorem Words.encodeTile (core : Nat) : Words.Statement (.encodeTile core) := undecoded
theorem Words.copyItem (o : OpRef) : Words.Statement (.copyItem o) := undecoded
theorem Words.cplItem (g : Nat) (op : Nat) (lane : Nat) : Words.Statement (.cplItem g op lane) := undecoded
theorem Words.prefetchLine (g : Nat) (op : Nat) : Words.Statement (.prefetchLine g op) := undecoded
theorem Words.matrixProductExecute (core : Nat) : Words.Statement (.matrixProductExecute core) := undecoded
theorem Words.topkExecute (core : Nat) : Words.Statement (.topkExecute core) := undecoded
theorem Words.attentionExecute (core : Nat) : Words.Statement (.attentionExecute core) := undecoded
theorem Words.accumulatorRead (core : Nat) : Words.Statement (.accumulatorRead core) := undecoded
theorem Words.proofSample (core : Nat) : Words.Statement (.proofSample core) := undecoded
theorem Words.pmvalReply (g : Nat) (strand : Strand) (lane : Nat) : Words.Statement (.pmvalReply g strand lane) := undecoded
theorem Words.viewRefresh (cluster : Nat) : Words.Statement (.viewRefresh cluster) := undecoded
theorem Words.spawnAccept (g : Nat) (op : Nat) : Words.Statement (.spawnAccept g op) := undecoded
theorem Words.groupAdmit (g : Nat) (core : Nat) : Words.Statement (.groupAdmit g core) := undecoded
theorem Words.groupReadmit (g : Nat) : Words.Statement (.groupReadmit g) := undecoded
theorem Words.groupPark (g : Nat) : Words.Statement (.groupPark g) := undecoded
theorem Words.groupRetire (g : Nat) : Words.Statement (.groupRetire g) := undecoded
theorem Words.regGrant (core : Nat) : Words.Statement (.regGrant core) := undecoded
theorem Words.turnTimerExpiry (g : Nat) (strand : Strand) : Words.Statement (.turnTimerExpiry g strand) := undecoded
theorem Words.frontierSpillExchange (g : Nat) (strand : Strand) : Words.Statement (.frontierSpillExchange g strand) := undecoded
theorem Words.deadlockCount (g : Nat) (lane : Nat) : Words.Statement (.deadlockCount g lane) := undecoded
theorem Words.swapThreshold (g : Nat) : Words.Statement (.swapThreshold g) := undecoded
theorem Words.admissionWaitLimit (g : Nat) : Words.Statement (.admissionWaitLimit g) := undecoded
theorem Words.sleepExpiry (g : Nat) (strand : Strand) (entry : Nat) : Words.Statement (.sleepExpiry g strand entry) := undecoded
theorem Words.lsmodeComplete (core : Nat) (bank : Nat) : Words.Statement (.lsmodeComplete core bank) := undecoded
theorem Words.segmentEvict (core : Nat) : Words.Statement (.segmentEvict core) := undecoded
theorem Words.segmentEvictionComplete (ctx : Nat) (seg : Nat) : Words.Statement (.segmentEvictionComplete ctx seg) := undecoded
theorem Words.segmentRestoreComplete (ctx : Nat) (seg : Nat) : Words.Statement (.segmentRestoreComplete ctx seg) := undecoded
theorem Words.seedStart (q : Nat) : Words.Statement (.seedStart q) := undecoded
theorem Words.mscEviction (line : Nat) : Words.Statement (.mscEviction line) := undecoded
theorem Words.monitorSnapshot (cluster : Nat) (mon : Nat) : Words.Statement (.monitorSnapshot cluster mon) := undecoded
theorem Words.doorbell (q : Nat) : Words.Statement (.doorbell q) := undecoded
theorem Words.nopPacket (q : Nat) : Words.Statement (.nopPacket q) := undecoded
theorem Words.launch (q : Nat) : Words.Statement (.launch q) := undecoded
theorem Words.wait (q : Nat) : Words.Statement (.wait q) := undecoded
theorem Words.signal (q : Nat) : Words.Statement (.signal q) := undecoded
theorem Words.copy (q : Nat) : Words.Statement (.copy q) := undecoded
theorem Words.viewReg (q : Nat) : Words.Statement (.viewReg q) := undecoded
theorem Words.packetComplete (q : Nat) : Words.Statement (.packetComplete q) := undecoded
theorem Words.semaphorePoll (q : Nat) : Words.Statement (.semaphorePoll q) := undecoded
theorem Words.eventOverflowPoll (g : Nat) (strand : Strand) (entry : Nat) : Words.Statement (.eventOverflowPoll g strand entry) := undecoded
theorem Words.ringConsPoll (ctx : Nat) (ring : Nat) : Words.Statement (.ringConsPoll ctx ring) := undecoded
theorem Words.faultans (part : Nat) (value : BitVec 64) : Words.Statement (.faultans part value) := undecoded
theorem Words.inval (part : Nat) (ctx : Nat) (hi : BitVec 64) : Words.Statement (.inval part ctx hi) := undecoded
theorem Words.invalidationComplete (part : Nat) (ctx : Nat) : Words.Statement (.invalidationComplete part ctx) := undecoded
theorem Words.ctxcmdCreate (part : Nat) (value : BitVec 60) : Words.Statement (.ctxcmdCreate part value) := undecoded
theorem Words.ctxcmdDestroy (part : Nat) (value : BitVec 60) : Words.Statement (.ctxcmdDestroy part value) := undecoded
theorem Words.ctxcmdPreempt (part : Nat) (value : BitVec 60) : Words.Statement (.ctxcmdPreempt part value) := undecoded
theorem Words.preemptSave (ctx : Nat) : Words.Statement (.preemptSave ctx) := undecoded
theorem Words.ctxcmdResume (part : Nat) (value : BitVec 60) : Words.Statement (.ctxcmdResume part value) := undecoded
theorem Words.contextResume (ctx : Nat) : Words.Statement (.contextResume ctx) := undecoded
theorem Words.qcmdBind (part : Nat) (value : BitVec 60) : Words.Statement (.qcmdBind part value) := undecoded
theorem Words.qcmdUnbind (part : Nat) (value : BitVec 60) : Words.Statement (.qcmdUnbind part value) := undecoded
theorem Words.queueFree (q : Nat) : Words.Statement (.queueFree q) := undecoded
theorem Words.moncfg (part : Nat) (cluster : Nat) (mon : Nat) (value : BitVec 64) : Words.Statement (.moncfg part cluster mon value) := undecoded
theorem Words.domain (value : BitVec 64) : Words.Statement (.domain value) := undecoded
theorem Words.extasn (value : BitVec 64) : Words.Statement (.extasn value) := undecoded
theorem Words.corrsel (part : Nat) (core : Nat) (ptm : BitVec 64) : Words.Statement (.corrsel part core ptm) := undecoded
theorem Words.registerWrite (part : Nat) (off : Nat) (value : BitVec 64) : Words.Statement (.registerWrite part off value) := undecoded
theorem Words.kick (g : Nat) (lane : Nat) (value : BitVec 64) : Words.Statement (.kick g lane value) := undecoded
theorem Words.mstat (g : Nat) (value : BitVec 64) : Words.Statement (.mstat g value) := undecoded
theorem Words.createRegion (region : Nat) (tdi : Nat) (base : Nat) (len : Nat) : Words.Statement (.createRegion region tdi base len) := undecoded
theorem Words.destroyRegion (region : Nat) : Words.Statement (.destroyRegion region) := undecoded
theorem Words.tdiLeaveRun (tdi : Nat) : Words.Statement (.tdiLeaveRun tdi) := undecoded
theorem Words.spdmRequest (req : Nat) : Words.Statement (.spdmRequest req) := undecoded
theorem Words.recoveryImage (image : Nat) : Words.Statement (.recoveryImage image) := undecoded
theorem Words.deviceReset : Words.Statement (.deviceReset) := undecoded
theorem Words.coreScan (core : Nat) : Words.Statement (.coreScan core) := undecoded
theorem Words.scanEnd (core : Nat) (pass : Bool) : Words.Statement (.scanEnd core pass) := undecoded
theorem Words.scanAbort (core : Nat) : Words.Statement (.scanAbort core) := undecoded
theorem Words.d3hot : Words.Statement (.d3hot) := undecoded
theorem Words.d3cold : Words.Statement (.d3cold) := undecoded
theorem Words.powerLimitThrottle (milliwatts : Nat) : Words.Statement (.powerLimitThrottle milliwatts) := undecoded
theorem Words.thermalThrottle (celsius : Nat) : Words.Statement (.thermalThrottle celsius) := undecoded
theorem Words.thermalShutdown (celsius : Nat) : Words.Statement (.thermalShutdown celsius) := undecoded
theorem Words.extentRelease (ext : Nat) : Words.Statement (.extentRelease ext) := undecoded
theorem Words.extentReleaseAck (ext : Nat) : Words.Statement (.extentReleaseAck ext) := undecoded
theorem Words.extentRevoke (ext : Nat) : Words.Statement (.extentRevoke ext) := undecoded
theorem Words.eccUncorrectable (line : Nat) (kind : Nat) : Words.Statement (.eccUncorrectable line kind) := undecoded
theorem Words.barporFlit (port : Nat) (crcOk : Bool) (addr : Nat) (data : Nat) : Words.Statement (.barporFlit port crcOk addr data) := undecoded
theorem Words.rdmaAccess (part : Nat) (write : Bool) (addr : Nat) (data : Nat) : Words.Statement (.rdmaAccess part write addr data) := undecoded
theorem Words.coreCycle (core : Nat) : Words.Statement (.coreCycle core) := undecoded
theorem Words.l1Eviction (core : Nat) (line : Nat) : Words.Statement (.l1Eviction core line) := undecoded
theorem Words.storePerformed (g : Nat) (acc : Nat) : Words.Statement (.storePerformed g acc) := undecoded
theorem Words.dynamicCapacityAdd (ext : Nat) (base : Nat) (len : Nat) : Words.Statement (.dynamicCapacityAdd ext base len) := undecoded
theorem Words.barporLinkDown (port : Nat) : Words.Statement (.barporLinkDown port) := undecoded
theorem Words.partitionAssign (cluster : Nat) (part : Nat) : Words.Statement (.partitionAssign cluster part) := undecoded

end Sys2Proof.Laws
end

