-- ==== Sys2Proof/Tests/Slice0.lean ====
section
/-! SUPPORT. The tests: words written out from the encodings, ill-formed terms that the check refuses, single steps, and for each
statement a state and operands that meet its hypotheses. -/

namespace Sys2Proof.Tests

open Sys2Proof Sys2Proof.Machine

set_option Elab.async false

/-! ### Small machines -/

/-- The word that issues. -/
def wordOf (i : Instr) : Word := (encode i).getD 0#32

/-- The issue of an instruction at the placed pc, after the hints `hs`, by lanes 0 to 15. -/
def issue (st : Strand) (i : Instr) (hs : List Word := []) : Issue :=
  ⟨0, st, { id := 0, pc := placePC, members := upTo 16, hints := hs }, wordOf i⟩

/-- The issuing group: that of the placed word with its entry out of the frontier, changed by `f`. -/
def grp (f : Group → Group := id) : Group := f { placeGroup .comp with frC := {} }

/-- The machine in which `i` issues. -/
def mach (st : Strand) (i : Instr) (f : Group → Group := id) (h : State → State := id) (hs : List Word := []) : State :=
  h { placeWord State.reset (wordOf i) with agenda := [], groups := [(0, grp f)], cur := some (issue st i hs) }

/-- The instruction runs there. -/
abbrev Ready (st : Strand) (i : Instr) (f : Group → Group := id) (h : State → State := id) (hs : List Word := []) : Prop :=
  Runs i (mach st i f h hs) (issue st i hs) (grp f)

/-- A group whose a register `r` of lane `l` holds `x l`. -/
def withA (r : Nat) (x : Nat → Nat) (g : Group) : Group :=
  { g with regs := g.regs ++ (upTo 16).map fun l => (aCode r l, BitVec.ofNat 64 (x l)) }

/-- The landings that the checks of an access find. -/
def found (a : Act) (f : State → Nat → Check × State) (l : Nat) : List Land :=
  match (checkAll a.s f a.lanes).1.find? fun p => p.1 = l with
  | some (_, .ok ls) => ls
  | _ => []

/-- Write bytes over zeros. -/
def putSome (m : List Host.Cell) (a : Nat) : List Byte → List Host.Cell
  | [] => m
  | b :: bs => putSome (if b = 0#8 then m else SMap.put 0#8 m a b) (a + 1) bs

/-- Words of major 0x00, field by field. -/
theorem test_words_00 :
    decodeWord (0b0000000#7 ++ 0b10#2 ++ 0b1101101#7 ++ 0b0110110#7 ++ 0b1011011#7 ++ 0b1#1 ++ 0b1#1) = some (.iadd { w := 2#2, vd := 109#7, va := 54#7, vb := 91#7, ea := true, eb := true })
    ∧ decodeWord (0b0000001#7 ++ 0b10#2 ++ 0b1101101#7 ++ 0b0110110#7 ++ 0b1011011#7 ++ 0b1#1 ++ 0b1#1) = some (.isub { w := 2#2, vd := 109#7, va := 54#7, vb := 91#7, ea := true, eb := true })
    ∧ decodeWord (0b0000010#7 ++ 0b10#2 ++ 0b1101101#7 ++ 0b0110110#7 ++ 0b1011011#7 ++ 0b1#1 ++ 0b1#1) = some (.imul { w := 2#2, vd := 109#7, va := 54#7, vb := 91#7, ea := true, eb := true })
    ∧ decodeWord (0b0000011#7 ++ 0b01#2 ++ 0b0110110#7 ++ 0b1011011#7 ++ 0b0101101#7 ++ 0b1#1 ++ 0b1#1) = some (.imulh { w := 1#2, vd := 54#7, va := 91#7, vb := 45#7, ea := true, eb := true }) := by decide +kernel

/-- Words of major 0x01, field by field. -/
theorem test_words_01 :
    decodeWord (0b0000100#7 ++ 0b10#2 ++ 0b1101101#7 ++ 0b0110110#7 ++ 0b1011011#7 ++ 0b1#1 ++ 0b1#1) = some (.imin { w := 2#2, vd := 109#7, va := 54#7, vb := 91#7, ea := true, eb := true })
    ∧ decodeWord (0b0000101#7 ++ 0b10#2 ++ 0b1101101#7 ++ 0b0110110#7 ++ 0b1011011#7 ++ 0b1#1 ++ 0b1#1) = some (.imax { w := 2#2, vd := 109#7, va := 54#7, vb := 91#7, ea := true, eb := true })
    ∧ decodeWord (0b0000110#7 ++ 0b10#2 ++ 0b1101101#7 ++ 0b0110110#7 ++ 0b1011011#7 ++ 0b1#1 ++ 0b1#1) = some (.umin { w := 2#2, vd := 109#7, va := 54#7, vb := 91#7, ea := true, eb := true })
    ∧ decodeWord (0b0000111#7 ++ 0b10#2 ++ 0b1101101#7 ++ 0b0110110#7 ++ 0b1011011#7 ++ 0b1#1 ++ 0b1#1) = some (.umax { w := 2#2, vd := 109#7, va := 54#7, vb := 91#7, ea := true, eb := true }) := by decide +kernel

/-- Words of major 0x02, field by field. -/
theorem test_words_02 :
    decodeWord (0b0001000#7 ++ 0b10#2 ++ 0b1101101#7 ++ 0b0110110#7 ++ 0b1011011#7 ++ 0b1#1 ++ 0b1#1) = some (.land { w := 2#2, vd := 109#7, va := 54#7, vb := 91#7, ea := true, eb := true })
    ∧ decodeWord (0b0001001#7 ++ 0b01#2 ++ 0b1010110#7 ++ 0b1101101#7 ++ 0b0110110#7 ++ 0b1#1 ++ 0b1#1) = some (.lor { w := 1#2, vd := 86#7, va := 109#7, vb := 54#7, ea := true, eb := true })
    ∧ decodeWord (0b0001010#7 ++ 0b10#2 ++ 0b1101101#7 ++ 0b0110110#7 ++ 0b1011011#7 ++ 0b1#1 ++ 0b1#1) = some (.lxor { w := 2#2, vd := 109#7, va := 54#7, vb := 91#7, ea := true, eb := true })
    ∧ decodeWord (0b0001011#7 ++ 0b01#2 ++ 0b0110110#7 ++ 0b1011011#7 ++ 0b0101101#7 ++ 0b1#1 ++ 0b1#1) = some (.landn { w := 1#2, vd := 54#7, va := 91#7, vb := 45#7, ea := true, eb := true }) := by decide +kernel

/-- Words of major 0x03, field by field. -/
theorem test_words_03 :
    decodeWord (0b0001100#7 ++ 0b01#2 ++ 0b1010110#7 ++ 0b1101101#7 ++ 0b0110110#7 ++ 0b1#1 ++ 0b1#1) = some (.shl { w := 1#2, vd := 86#7, va := 109#7, vb := 54#7, ea := true, eb := true })
    ∧ decodeWord (0b0001101#7 ++ 0b01#2 ++ 0b1010110#7 ++ 0b1101101#7 ++ 0b0110110#7 ++ 0b1#1 ++ 0b1#1) = some (.shr { w := 1#2, vd := 86#7, va := 109#7, vb := 54#7, ea := true, eb := true })
    ∧ decodeWord (0b0001110#7 ++ 0b01#2 ++ 0b1010110#7 ++ 0b1101101#7 ++ 0b0110110#7 ++ 0b1#1 ++ 0b1#1) = some (.sar { w := 1#2, vd := 86#7, va := 109#7, vb := 54#7, ea := true, eb := true })
    ∧ decodeWord (0b0001111#7 ++ 0b01#2 ++ 0b1010110#7 ++ 0b1101101#7 ++ 0b0110110#7 ++ 0b1#1 ++ 0b1#1) = some (.rot { w := 1#2, vd := 86#7, va := 109#7, vb := 54#7, ea := true, eb := true }) := by decide +kernel

/-- Words of major 0x04, field by field. -/
theorem test_words_04 :
    decodeWord (0b0010000#7 ++ 0b10#2 ++ 0b1101101#7 ++ 0b0110110#7 ++ 0b1011011#7 ++ 0b1#1 ++ 0b1#1) = some (.imac { w := 2#2, vd := 109#7, va := 54#7, vb := 91#7, ea := true, eb := true })
    ∧ decodeWord (0b0010001#7 ++ 0b10#2 ++ 0b1011011#7 ++ 0b0101101#7 ++ 0b1010110#7 ++ 0b1#1 ++ 0b1#1) = some (.imulhu { w := 2#2, vd := 91#7, va := 45#7, vb := 86#7, ea := true, eb := true })
    ∧ decodeWord (0b0010010#7 ++ 0b10#2 ++ 0b1101101#7 ++ 0b0110110#7 ++ 0b1011011#7 ++ 0b1#1 ++ 0b1#1) = some (.isad { w := 2#2, vd := 109#7, va := 54#7, vb := 91#7, ea := true, eb := true })
    ∧ decodeWord (0b0010011#7 ++ 0b01#2 ++ 0b0110110#7 ++ 0b1011011#7 ++ 0b0101101#7 ++ 0b1#1 ++ 0b1#1) = some (.idot4 { w := 1#2, vd := 54#7, va := 91#7, vb := 45#7, ea := true, eb := true }) := by decide +kernel

/-- Words of major 0x05, field by field. -/
theorem test_words_05 :
    decodeWord (0b0010100#7 ++ 0b10#2 ++ 0b1101101#7 ++ 0b0110110#7 ++ 0b0000000#7 ++ 0b1#1 ++ 0b0#1) = some (.inot { w := 2#2, vd := 109#7, va := 54#7, ea := true })
    ∧ decodeWord (0b0010100#7 ++ 0b10#2 ++ 0b1101101#7 ++ 0b0110110#7 ++ 0b0000001#7 ++ 0b1#1 ++ 0b0#1) = some (.ineg { w := 2#2, vd := 109#7, va := 54#7, ea := true })
    ∧ decodeWord (0b0010100#7 ++ 0b10#2 ++ 0b1101101#7 ++ 0b0110110#7 ++ 0b0000010#7 ++ 0b1#1 ++ 0b0#1) = some (.iabs { w := 2#2, vd := 109#7, va := 54#7, ea := true })
    ∧ decodeWord (0b0010100#7 ++ 0b10#2 ++ 0b1101101#7 ++ 0b0110110#7 ++ 0b0000011#7 ++ 0b1#1 ++ 0b0#1) = some (.popc { w := 2#2, vd := 109#7, va := 54#7, ea := true })
    ∧ decodeWord (0b0010100#7 ++ 0b01#2 ++ 0b1010110#7 ++ 0b1101101#7 ++ 0b0000100#7 ++ 0b1#1 ++ 0b0#1) = some (.clz { w := 1#2, vd := 86#7, va := 109#7, ea := true })
    ∧ decodeWord (0b0010100#7 ++ 0b01#2 ++ 0b1010110#7 ++ 0b1101101#7 ++ 0b0000101#7 ++ 0b1#1 ++ 0b0#1) = some (.ctz { w := 1#2, vd := 86#7, va := 109#7, ea := true })
    ∧ decodeWord (0b0010100#7 ++ 0b10#2 ++ 0b1101101#7 ++ 0b0110110#7 ++ 0b0000110#7 ++ 0b1#1 ++ 0b0#1) = some (.brev { w := 2#2, vd := 109#7, va := 54#7, ea := true })
    ∧ decodeWord (0b0010100#7 ++ 0b10#2 ++ 0b1101101#7 ++ 0b0110110#7 ++ 0b0010000#7 ++ 0b1#1 ++ 0b0#1) = some (.fneg { w := 2#2, vd := 109#7, va := 54#7, ea := true })
    ∧ decodeWord (0b0010100#7 ++ 0b10#2 ++ 0b1101101#7 ++ 0b0110110#7 ++ 0b0010001#7 ++ 0b1#1 ++ 0b0#1) = some (.fabs { w := 2#2, vd := 109#7, va := 54#7, ea := true })
    ∧ decodeWord (0b0010100#7 ++ 0b10#2 ++ 0b1011011#7 ++ 0b0101101#7 ++ 0b0010010#7 ++ 0b1#1 ++ 0b0#1) = some (.ffloor { w := 2#2, vd := 91#7, va := 45#7, ea := true })
    ∧ decodeWord (0b0010100#7 ++ 0b01#2 ++ 0b0110110#7 ++ 0b1011011#7 ++ 0b0010011#7 ++ 0b1#1 ++ 0b0#1) = some (.fceil { w := 1#2, vd := 54#7, va := 91#7, ea := true })
    ∧ decodeWord (0b0010100#7 ++ 0b10#2 ++ 0b1011011#7 ++ 0b0101101#7 ++ 0b0010100#7 ++ 0b1#1 ++ 0b0#1) = some (.ftrunc { w := 2#2, vd := 91#7, va := 45#7, ea := true })
    ∧ decodeWord (0b0010100#7 ++ 0b01#2 ++ 0b0110110#7 ++ 0b1011011#7 ++ 0b0010101#7 ++ 0b1#1 ++ 0b0#1) = some (.frint { w := 1#2, vd := 54#7, va := 91#7, ea := true })
    ∧ decodeWord (0b0010100#7 ++ 0b10#2 ++ 0b1101101#7 ++ 0b0110110#7 ++ 0b0010110#7 ++ 0b1#1 ++ 0b0#1) = some (.frcp { w := 2#2, vd := 109#7, va := 54#7, ea := true })
    ∧ decodeWord (0b0010100#7 ++ 0b10#2 ++ 0b1101101#7 ++ 0b0110110#7 ++ 0b0010111#7 ++ 0b1#1 ++ 0b0#1) = some (.frsq { w := 2#2, vd := 109#7, va := 54#7, ea := true })
    ∧ decodeWord (0b0010100#7 ++ 0b01#2 ++ 0b0110110#7 ++ 0b1011011#7 ++ 0b0011000#7 ++ 0b1#1 ++ 0b0#1) = some (.fsqrt { w := 1#2, vd := 54#7, va := 91#7, ea := true })
    ∧ decodeWord (0b0010100#7 ++ 0b01#2 ++ 0b0110110#7 ++ 0b1011011#7 ++ 0b0011001#7 ++ 0b1#1 ++ 0b0#1) = some (.fexp2 { w := 1#2, vd := 54#7, va := 91#7, ea := true })
    ∧ decodeWord (0b0010100#7 ++ 0b01#2 ++ 0b0110110#7 ++ 0b1011011#7 ++ 0b0011010#7 ++ 0b1#1 ++ 0b0#1) = some (.flog2 { w := 1#2, vd := 54#7, va := 91#7, ea := true })
    ∧ decodeWord (0b0010100#7 ++ 0b01#2 ++ 0b0110110#7 ++ 0b1011011#7 ++ 0b0011011#7 ++ 0b1#1 ++ 0b0#1) = some (.ftanh { w := 1#2, vd := 54#7, va := 91#7, ea := true })
    ∧ decodeWord (0b0010100#7 ++ 0b10#2 ++ 0b1101101#7 ++ 0b0110110#7 ++ 0b0011100#7 ++ 0b1#1 ++ 0b0#1) = some (.fsin { w := 2#2, vd := 109#7, va := 54#7, ea := true })
    ∧ decodeWord (0b0010100#7 ++ 0b10#2 ++ 0b1101101#7 ++ 0b0110110#7 ++ 0b0011101#7 ++ 0b1#1 ++ 0b0#1) = some (.fcos { w := 2#2, vd := 109#7, va := 54#7, ea := true }) := by decide +kernel

/-- Words of major 0x06, field by field. -/
theorem test_words_06 :
    decodeWord (0b0011000#7 ++ 0b10#2 ++ 0b1101101#7 ++ 0b0110110#7 ++ 0b1011011#7 ++ 0b1#1 ++ 0b1#1) = some (.fadd { w := 2#2, vd := 109#7, va := 54#7, vb := 91#7, ea := true, eb := true })
    ∧ decodeWord (0b0011001#7 ++ 0b10#2 ++ 0b1101101#7 ++ 0b0110110#7 ++ 0b1011011#7 ++ 0b1#1 ++ 0b1#1) = some (.fsub { w := 2#2, vd := 109#7, va := 54#7, vb := 91#7, ea := true, eb := true })
    ∧ decodeWord (0b0011010#7 ++ 0b10#2 ++ 0b1101101#7 ++ 0b0110110#7 ++ 0b1011011#7 ++ 0b1#1 ++ 0b1#1) = some (.fmul { w := 2#2, vd := 109#7, va := 54#7, vb := 91#7, ea := true, eb := true })
    ∧ decodeWord (0b0011011#7 ++ 0b10#2 ++ 0b1101101#7 ++ 0b0110110#7 ++ 0b1011011#7 ++ 0b1#1 ++ 0b1#1) = some (.fmac { w := 2#2, vd := 109#7, va := 54#7, vb := 91#7, ea := true, eb := true }) := by decide +kernel

/-- Words of major 0x07, field by field. -/
theorem test_words_07 :
    decodeWord (0b0011100#7 ++ 0b10#2 ++ 0b1101101#7 ++ 0b0110110#7 ++ 0b1011011#7 ++ 0b1#1 ++ 0b1#1) = some (.fmin { w := 2#2, vd := 109#7, va := 54#7, vb := 91#7, ea := true, eb := true })
    ∧ decodeWord (0b0011101#7 ++ 0b10#2 ++ 0b1101101#7 ++ 0b0110110#7 ++ 0b1011011#7 ++ 0b1#1 ++ 0b1#1) = some (.fmax { w := 2#2, vd := 109#7, va := 54#7, vb := 91#7, ea := true, eb := true })
    ∧ decodeWord (0b0011110#7 ++ 0b01#2 ++ 0b0110110#7 ++ 0b1011011#7 ++ 0b0101101#7 ++ 0b1#1 ++ 0b1#1) = some (.fsgnj { w := 1#2, vd := 54#7, va := 91#7, vb := 45#7, ea := true, eb := true })
    ∧ decodeWord (0b0011111#7 ++ 0b10#2 ++ 0b1101101#7 ++ 0b0110110#7 ++ 0b1011011#7 ++ 0b1#1 ++ 0b1#1) = some (.fabd { w := 2#2, vd := 109#7, va := 54#7, vb := 91#7, ea := true, eb := true }) := by decide +kernel

/-- Words of major 0x08, field by field. -/
theorem test_words_08 :
    decodeWord (0b0100000#7 ++ 0b01#2 ++ 0b0110110#7 ++ 0b1011011#7 ++ 0b0101101#7 ++ 0b1#1 ++ 0b1#1) = some (.badd2 { w := 1#2, vd := 54#7, va := 91#7, vb := 45#7, ea := true, eb := true })
    ∧ decodeWord (0b0100001#7 ++ 0b01#2 ++ 0b0110110#7 ++ 0b1011011#7 ++ 0b0101101#7 ++ 0b1#1 ++ 0b1#1) = some (.bmul2 { w := 1#2, vd := 54#7, va := 91#7, vb := 45#7, ea := true, eb := true })
    ∧ decodeWord (0b0100010#7 ++ 0b01#2 ++ 0b0110110#7 ++ 0b1011011#7 ++ 0b0101101#7 ++ 0b1#1 ++ 0b1#1) = some (.bmac2 { w := 1#2, vd := 54#7, va := 91#7, vb := 45#7, ea := true, eb := true })
    ∧ decodeWord (0b0100011#7 ++ 0b01#2 ++ 0b0110110#7 ++ 0b1011011#7 ++ 0b0101101#7 ++ 0b1#1 ++ 0b1#1) = some (.bmax2 { w := 1#2, vd := 54#7, va := 91#7, vb := 45#7, ea := true, eb := true }) := by decide +kernel

/-- Words of major 0x09, field by field. -/
theorem test_words_09 :
    decodeWord (0b0100100#7 ++ 0b01#2 ++ 0b0110110#7 ++ 0b1011011#7 ++ 0b0101101#7 ++ 0b1#1 ++ 0b1#1) = some (.hadd2 { w := 1#2, vd := 54#7, va := 91#7, vb := 45#7, ea := true, eb := true })
    ∧ decodeWord (0b0100101#7 ++ 0b01#2 ++ 0b0110110#7 ++ 0b1011011#7 ++ 0b0101101#7 ++ 0b1#1 ++ 0b1#1) = some (.hmul2 { w := 1#2, vd := 54#7, va := 91#7, vb := 45#7, ea := true, eb := true })
    ∧ decodeWord (0b0100110#7 ++ 0b01#2 ++ 0b0110110#7 ++ 0b1011011#7 ++ 0b0101101#7 ++ 0b1#1 ++ 0b1#1) = some (.hmac2 { w := 1#2, vd := 54#7, va := 91#7, vb := 45#7, ea := true, eb := true })
    ∧ decodeWord (0b0100111#7 ++ 0b01#2 ++ 0b0110110#7 ++ 0b1011011#7 ++ 0b0101101#7 ++ 0b1#1 ++ 0b1#1) = some (.hmax2 { w := 1#2, vd := 54#7, va := 91#7, vb := 45#7, ea := true, eb := true }) := by decide +kernel

/-- Words of major 0x0A, field by field. -/
theorem test_words_0A :
    decodeWord (0b010100000#9 ++ 0b110#3 ++ 0b1101#4 ++ 0b0110110#7 ++ 0b1011011#7 ++ 0b1#1 ++ 0b1#1) = some (.icmp { pd := 6#3, cond := 13#4, va := 54#7, vb := 91#7, ea := true, eb := true })
    ∧ decodeWord (0b010100100#9 ++ 0b110#3 ++ 0b1101#4 ++ 0b0110110#7 ++ 0b1011011#7 ++ 0b1#1 ++ 0b1#1) = some (.ucmp { pd := 6#3, cond := 13#4, va := 54#7, vb := 91#7, ea := true, eb := true })
    ∧ decodeWord (0b010101000#9 ++ 0b110#3 ++ 0b1101#4 ++ 0b0110110#7 ++ 0b1011011#7 ++ 0b1#1 ++ 0b1#1) = some (.fcmp { pd := 6#3, cond := 13#4, va := 54#7, vb := 91#7, ea := true, eb := true })
    ∧ decodeWord (0b010101100#9 ++ 0b110#3 ++ 0b1011#4 ++ 0b0101101#7 ++ 0b0000000#7 ++ 0b1#1 ++ 0b0#1) = some (.fclass { pd := 6#3, cond := 11#4, va := 45#7, ea := true }) := by decide +kernel

/-- Words of major 0x0B, field by field. -/
theorem test_words_0B :
    decodeWord (0b0101100#7 ++ 0b10#2 ++ 0b1101101#7 ++ 0b0110110#7 ++ 0b1011#4 ++ 0b01#2 ++ 0b1#1 ++ 0b1#1 ++ 0b0#1) = some (.cvtf { w := 2#2, vd := 109#7, va := 54#7, fmt := 11#4, pol := 1#2, t := true, ea := true })
    ∧ decodeWord (0b0101101#7 ++ 0b10#2 ++ 0b1101101#7 ++ 0b0110110#7 ++ 0b1011#4 ++ 0b01#2 ++ 0b1#1 ++ 0b1#1 ++ 0b0#1) = some (.cvth { w := 2#2, vd := 109#7, va := 54#7, fmt := 11#4, pol := 1#2, t := true, ea := true })
    ∧ decodeWord (0b0101110#7 ++ 0b10#2 ++ 0b1011011#7 ++ 0b0101101#7 ++ 0b0110#4 ++ 0b01#2 ++ 0b1#1 ++ 0b1#1 ++ 0b0#1) = some (.bxpack { w := 2#2, vd := 91#7, va := 45#7, fmt := 6#4, pol := 1#2, t := true, ea := true })
    ∧ decodeWord (0b0101111#7 ++ 0b01#2 ++ 0b1010110#7 ++ 0b1101101#7 ++ 0b0110#4 ++ 0b11#2 ++ 0b1#1 ++ 0b1#1 ++ 0b0#1) = some (.bxunpack { w := 1#2, vd := 86#7, va := 109#7, fmt := 6#4, pol := 3#2, t := true, ea := true }) := by decide +kernel

/-- Words of major 0x0C, field by field. -/
theorem test_words_0C :
    decodeWord (0b0110000#7 ++ 0b0110110#7 ++ 0b1011011#7 ++ 0b0101101#7 ++ 0b10#2 ++ 0b1#1 ++ 0b1#1) = some (.bxdot2 { vd := 54#7, va := 91#7, vb := 45#7, bsel := 2#2, ea := true, eb := true })
    ∧ decodeWord (0b0110001#7 ++ 0b0110110#7 ++ 0b1011011#7 ++ 0b0101101#7 ++ 0b10#2 ++ 0b1#1 ++ 0b1#1) = some (.bxdot4 { vd := 54#7, va := 91#7, vb := 45#7, bsel := 2#2, ea := true, eb := true })
    ∧ decodeWord (0b0110010#7 ++ 0b0110110#7 ++ 0b1011011#7 ++ 0b0101101#7 ++ 0b10#2 ++ 0b1#1 ++ 0b1#1) = some (.bxdot7 { vd := 54#7, va := 91#7, vb := 45#7, bsel := 2#2, ea := true, eb := true })
    ∧ decodeWord (0b0110011#7 ++ 0b1101101#7 ++ 0b0110110#7 ++ 0b1011011#7 ++ 0b00#2 ++ 0b1#1 ++ 0b1#1) = some (.f4dot { vd := 109#7, va := 54#7, vb := 91#7, ea := true, eb := true }) := by decide +kernel

/-- Words of major 0x0D, field by field. -/
theorem test_words_0D :
    decodeWord (0b0110100#7 ++ 0b110#3 ++ 0b1101101#7 ++ 0b0110110#7 ++ 0b01011011#8) = some (.shfl { mode := 6#3, vd := 109#7, va := 54#7, sm := 91#8 })
    ∧ decodeWord (0b0110101#7 ++ 0b110#3 ++ 0b1101101#7 ++ 0b0110110#7 ++ 0b01011011#8) = some (.vote { mode := 6#3, vd := 109#7, va := 54#7, sm := 91#8 })
    ∧ decodeWord (0b0110110#7 ++ 0b101#3 ++ 0b0110110#7 ++ 0b1011011#7 ++ 0b10101101#8) = some (.redux { mode := 5#3, vd := 54#7, va := 91#7, sm := 173#8 })
    ∧ decodeWord (0b0110111#7 ++ 0b110#3 ++ 0b1101101#7 ++ 0b0110110#7 ++ 0b01011011#8) = some (.scan { mode := 6#3, vd := 109#7, va := 54#7, sm := 91#8 }) := by decide +kernel

/-- Words of major 0x0E, field by field. -/
theorem test_words_0E :
    decodeWord (0b0111000#7 ++ 0b01#2 ++ 0b0110110#7 ++ 0b1011011#7 ++ 0b10101101#8 ++ 0b1#1) = some (.iadds { w := 1#2, vd := 54#7, va := 91#7, sb := 173#8, ea := true })
    ∧ decodeWord (0b0111001#7 ++ 0b01#2 ++ 0b0110110#7 ++ 0b1011011#7 ++ 0b10101101#8 ++ 0b1#1) = some (.fadds { w := 1#2, vd := 54#7, va := 91#7, sb := 173#8, ea := true })
    ∧ decodeWord (0b0111010#7 ++ 0b01#2 ++ 0b0110110#7 ++ 0b1011011#7 ++ 0b10101101#8 ++ 0b1#1) = some (.fmuls { w := 1#2, vd := 54#7, va := 91#7, sb := 173#8, ea := true })
    ∧ decodeWord (0b0111011#7 ++ 0b10#2 ++ 0b1101101#7 ++ 0b0000000#7 ++ 0b10110110#8 ++ 0b0#1) = some (.movs { w := 2#2, vd := 109#7, sb := 182#8 }) := by decide +kernel

/-- Words of major 0x0F, field by field. -/
theorem test_words_0F :
    decodeWord (0b0111100#7 ++ 0b1101101#7 ++ 0b0110110#7 ++ 0b1#1 ++ 0b0110101101#10) = some (.iaddi { vd := 109#7, va := 54#7, ea := true, imm := 429#10 })
    ∧ decodeWord (0b0111101#7 ++ 0b1010110#7 ++ 0b1101101#7 ++ 0b1#1 ++ 0b1101011011#10) = some (.andi { vd := 86#7, va := 109#7, ea := true, imm := 859#10 })
    ∧ decodeWord (0b0111110#7 ++ 0b0101101#7 ++ 0b1010110#7 ++ 0b1#1 ++ 0b1010110110#10) = some (.ori { vd := 45#7, va := 86#7, ea := true, imm := 694#10 })
    ∧ decodeWord (0b0111111#7 ++ 0b1010110#7 ++ 0b1101101#7 ++ 0b1#1 ++ 0b1101011011#10) = some (.xori { vd := 86#7, va := 109#7, ea := true, imm := 859#10 }) := by decide +kernel

/-- Words of major 0x10, field by field. -/
theorem test_words_10 :
    decodeWord (0b1000000#7 ++ 0b1010110#7 ++ 0b1101101#7 ++ 0b1#1 ++ 0b00000#5 ++ 0b11011#5) = some (.shli { vd := 86#7, va := 109#7, ea := true, k := 27#5 })
    ∧ decodeWord (0b1000001#7 ++ 0b1010110#7 ++ 0b1101101#7 ++ 0b1#1 ++ 0b00000#5 ++ 0b11011#5) = some (.shri { vd := 86#7, va := 109#7, ea := true, k := 27#5 })
    ∧ decodeWord (0b1000010#7 ++ 0b1010110#7 ++ 0b1101101#7 ++ 0b1#1 ++ 0b00000#5 ++ 0b11011#5) = some (.sari { vd := 86#7, va := 109#7, ea := true, k := 27#5 })
    ∧ decodeWord (0b1000011#7 ++ 0b1011011#7 ++ 0b00000000#8 ++ 0b0110101101#10) = some (.li { vd := 91#7, imm := 429#10 }) := by decide +kernel

/-- Words of major 0x11, field by field. -/
theorem test_words_11 :
    decodeWord (0b1000100#7 ++ 0b01#2 ++ 0b1010110#7 ++ 0b1101101#7 ++ 0b0000000#7 ++ 0b1#1 ++ 0b0#1) = some (.mov { w := 1#2, vd := 86#7, va := 109#7, ea := true })
    ∧ decodeWord (0b1000101#7 ++ 0b01#2 ++ 0b1010110#7 ++ 0b1101101#7 ++ 0b0110110#7 ++ 0b11#2) = some (.sel { w := 1#2, vd := 86#7, va := 109#7, vb := 54#7, p := 3#2 })
    ∧ decodeWord (0b1000110#7 ++ 0b01#2 ++ 0b0000000#7 ++ 0b0110110#7 ++ 0b1011011#7 ++ 0b1#1 ++ 0b0#1) = some (.xsend { w := 1#2, va := 54#7, slot := 91#7, ea := true })
    ∧ decodeWord (0b1000111#7 ++ 0b01#2 ++ 0b0110110#7 ++ 0b0000000#7 ++ 0b1011011#7 ++ 0b00#2) = some (.xrecv { w := 1#2, vd := 54#7, slot := 91#7 }) := by decide +kernel

/-- Words of major 0x12, field by field. -/
theorem test_words_12 :
    decodeWord (0b1001000#7 ++ 0b01#2 ++ 0b1010110#7 ++ 0b01#2 ++ 0b00000000000000#14) = some (.pop { w := 1#2, reg := 86#7, queue := 1#2 })
    ∧ decodeWord (0b1001001#7 ++ 0b10#2 ++ 0b1101101#7 ++ 0b10#2 ++ 0b00000000000000#14) = some (.push { w := 2#2, reg := 109#7, queue := 2#2 })
    ∧ decodeWord (0b1001010#7 ++ 0b10#2 ++ 0b1101101#7 ++ 0b10#2 ++ 0b00000000000000#14) = some (.peek { w := 2#2, reg := 109#7, queue := 2#2 })
    ∧ decodeWord (0b100101100#9 ++ 0b1010110#7 ++ 0b01#2 ++ 0b00000000000000#14) = some (.qlen { w := 0#2, reg := 86#7, queue := 1#2 }) := by decide +kernel

/-- Words of major 0x13, field by field. -/
theorem test_words_13 :
    decodeWord (0b10011000#8 ++ 0b11010110#8 ++ 0b01101101#8 ++ 0b10110110#8) = some (.sadd { sd := 214#8, sa := 109#8, sb := 182#8 })
    ∧ decodeWord (0b10011001#8 ++ 0b11010110#8 ++ 0b01101101#8 ++ 0b10110110#8) = some (.ssub { sd := 214#8, sa := 109#8, sb := 182#8 })
    ∧ decodeWord (0b10011010#8 ++ 0b11010110#8 ++ 0b01101101#8 ++ 0b10110110#8) = some (.smul { sd := 214#8, sa := 109#8, sb := 182#8 })
    ∧ decodeWord (0b10011011#8 ++ 0b11010110#8 ++ 0b01101101#8 ++ 0b10110110#8) = some (.sand { sd := 214#8, sa := 109#8, sb := 182#8 })
    ∧ decodeWord (0b10011100#8 ++ 0b10101101#8 ++ 0b11010110#8 ++ 0b01101101#8) = some (.sor { sd := 173#8, sa := 214#8, sb := 109#8 })
    ∧ decodeWord (0b10011101#8 ++ 0b11010110#8 ++ 0b01101101#8 ++ 0b10110110#8) = some (.sxor { sd := 214#8, sa := 109#8, sb := 182#8 })
    ∧ decodeWord (0b10011110#8 ++ 0b11010110#8 ++ 0b01101101#8 ++ 0b10110110#8) = some (.sshl { sd := 214#8, sa := 109#8, sb := 182#8 })
    ∧ decodeWord (0b10011111#8 ++ 0b11010110#8 ++ 0b01101101#8 ++ 0b10110110#8) = some (.sshr { sd := 214#8, sa := 109#8, sb := 182#8 }) := by decide +kernel

/-- Words of major 0x14, field by field. -/
theorem test_words_14 :
    decodeWord (0b10100000#8 ++ 0b01101101#8 ++ 0b10110110#8 ++ 0b01011011#8) = some (.saddi { sd := 109#8, sa := 182#8, imm := 91#8 })
    ∧ decodeWord (0b10100001#8 ++ 0b10101101#8 ++ 0b00000000#8 ++ 0b11010110#8) = some (.sli { sd := 173#8, imm := 214#8 })
    ∧ decodeWord (0b10100010#8 ++ 0b11010110#8 ++ 0b01101101#8 ++ 0b00000000#8) = some (.smov { sd := 214#8, sa := 109#8 })
    ∧ decodeWord (0b10100011#8 ++ 0b10101101#8 ++ 0b0#1 ++ 0b1010110#7 ++ 0b01101101#8) = some (.v2s { sd := 173#8, va := 86#7, lane := 109#8 })
    ∧ decodeWord (0b10100100#8 ++ 0b11010110#8 ++ 0b01101101#8 ++ 0b10110110#8) = some (.smin { sd := 214#8, sa := 109#8, sb := 182#8 })
    ∧ decodeWord (0b10100101#8 ++ 0b11010110#8 ++ 0b01101101#8 ++ 0b10110110#8) = some (.smax { sd := 214#8, sa := 109#8, sb := 182#8 })
    ∧ decodeWord (0b10100110#8 ++ 0b11010110#8 ++ 0b01101101#8 ++ 0b00000000#8) = some (.sclz { sd := 214#8, sa := 109#8 })
    ∧ decodeWord (0b10100111#8 ++ 0b01101101#8 ++ 0b10110110#8 ++ 0b00000000#8) = some (.spopc { sd := 109#8, sa := 182#8 }) := by decide +kernel

/-- Words of major 0x15, field by field. -/
theorem test_words_15 :
    decodeWord (0b101010000#9 ++ 0b10110#5 ++ 0b01101#5 ++ 0b10110#5 ++ 0b00000000#8) = some (.aadd { ad := 22#5, aa := 13#5, ab := 22#5 })
    ∧ decodeWord (0b101010001#9 ++ 0b10110#5 ++ 0b01101#5 ++ 0b10110#5 ++ 0b00000000#8) = some (.asub { ad := 22#5, aa := 13#5, ab := 22#5 })
    ∧ decodeWord (0b101010010#9 ++ 0b10110#5 ++ 0b01101#5 ++ 0b10110#5 ++ 0b00000000#8) = some (.amul { ad := 22#5, aa := 13#5, ab := 22#5 })
    ∧ decodeWord (0b101010011#9 ++ 0b10110#5 ++ 0b01101#5 ++ 0b10110#5 ++ 0b00000000#8) = some (.aand { ad := 22#5, aa := 13#5, ab := 22#5 })
    ∧ decodeWord (0b101010100#9 ++ 0b01101#5 ++ 0b10110#5 ++ 0b01101#5 ++ 0b00000000#8) = some (.aor { ad := 13#5, aa := 22#5, ab := 13#5 })
    ∧ decodeWord (0b101010101#9 ++ 0b10110#5 ++ 0b01101#5 ++ 0b10110#5 ++ 0b00000000#8) = some (.axor { ad := 22#5, aa := 13#5, ab := 22#5 })
    ∧ decodeWord (0b101010110#9 ++ 0b10110#5 ++ 0b01101#5 ++ 0b10110#5 ++ 0b00000000#8) = some (.ashl { ad := 22#5, aa := 13#5, ab := 22#5 })
    ∧ decodeWord (0b101010111#9 ++ 0b10110#5 ++ 0b01101#5 ++ 0b10110#5 ++ 0b00000000#8) = some (.ashr { ad := 22#5, aa := 13#5, ab := 22#5 })
    ∧ decodeWord (0b101011000#9 ++ 0b10110#5 ++ 0b01101#5 ++ 0b10110#5 ++ 0b00000000#8) = some (.asar { ad := 22#5, aa := 13#5, ab := 22#5 })
    ∧ decodeWord (0b101011001#9 ++ 0b10110#5 ++ 0b01101#5 ++ 0b10110#5 ++ 0b00000000#8) = some (.amin { ad := 22#5, aa := 13#5, ab := 22#5 })
    ∧ decodeWord (0b101011010#9 ++ 0b10110#5 ++ 0b01101#5 ++ 0b10110#5 ++ 0b00000000#8) = some (.amax { ad := 22#5, aa := 13#5, ab := 22#5 })
    ∧ decodeWord (0b101011011#9 ++ 0b10110#5 ++ 0b01101#5 ++ 0b10110#5 ++ 0b00000#5 ++ 0b011#3) = some (.alea { ad := 22#5, aa := 13#5, ab := 22#5, k := 3#3 })
    ∧ decodeWord (0b101011100#9 ++ 0b110#3 ++ 0b00#2 ++ 0b01101#5 ++ 0b10110#5 ++ 0b0000#4 ++ 0b1011#4) = some (.acmp { pd := 6#3, aa := 13#5, ab := 22#5, cond := 11#4 })
    ∧ decodeWord (0b101011101#9 ++ 0b10110#5 ++ 0b01101#5 ++ 0b0000000000000#13) = some (.amov { ad := 22#5, aa := 13#5 })
    ∧ decodeWord (0b10101111000000#14 ++ 0b01101#5 ++ 0b00000#5 ++ 0b11010110#8) = some (.a2s { aa := 13#5, sd := 214#8 })
    ∧ decodeWord (0b101011111#9 ++ 0b01101#5 ++ 0b0000000000#10 ++ 0b11010110#8) = some (.s2a { ad := 13#5, sb := 214#8 }) := by decide +kernel

/-- Words of major 0x16, field by field. -/
theorem test_words_16 :
    decodeWord (0b10110000#8 ++ 0b01101#5 ++ 0b10110#5 ++ 0b01101101011011#14) = some (.aaddi { ad := 13#5, aa := 22#5, imm := 7003#14 })
    ∧ decodeWord (0b10110001#8 ++ 0b01101#5 ++ 0b00000#5 ++ 0b01011011010110#14) = some (.ali { ad := 13#5, imm := 5846#14 })
    ∧ decodeWord (0b10110010#8 ++ 0b10110#5 ++ 0b01101#5 ++ 0b11011010110110#14) = some (.alui { ad := 22#5, aa := 13#5, imm := 14006#14 })
    ∧ decodeWord (0b10110011#8 ++ 0b01101#5 ++ 0b10110#5 ++ 0b01101101011011#14) = some (.aandi { ad := 13#5, aa := 22#5, imm := 7003#14 })
    ∧ decodeWord (0b10110100#8 ++ 0b10110#5 ++ 0b01101#5 ++ 0b11011010110110#14) = some (.aori { ad := 22#5, aa := 13#5, imm := 14006#14 })
    ∧ decodeWord (0b10110101#8 ++ 0b01101#5 ++ 0b10110#5 ++ 0b00000000#8 ++ 0b011011#6) = some (.ashli { ad := 13#5, aa := 22#5, k := 27#6 })
    ∧ decodeWord (0b10110110#8 ++ 0b01101#5 ++ 0b10110#5 ++ 0b00000000#8 ++ 0b011011#6) = some (.ashri { ad := 13#5, aa := 22#5, k := 27#6 })
    ∧ decodeWord (0b10110111#8 ++ 0b101#3 ++ 0b10#2 ++ 0b11011#5 ++ 0b10110110101101#14) = some (.acmpi { pd := 5#3, cond := 2#2, aa := 27#5, imm := 11693#14 }) := by decide +kernel

/-- Words of major 0x17, field by field. -/
theorem test_words_17 :
    decodeWord (0b10111#5 ++ 0b101#3 ++ 0b10#2 ++ 0b101#3 ++ 0b00000#5 ++ 0b10110#5 ++ 0b101011011#9) = some (.ldq { size := 5#3, order := 2#2, scope := 5#3, base := 22#5, off := 347#9 }) := by decide +kernel

/-- Words of major 0x18, field by field. -/
theorem test_words_18 :
    decodeWord (0b11000#5 ++ 0b101#3 ++ 0b10#2 ++ 0b101#3 ++ 0b10110#5 ++ 0b11011#5 ++ 0b110101101#9) = some (.lda { size := 5#3, order := 2#2, scope := 5#3, t := 22#5, base := 27#5, off := 429#9 }) := by decide +kernel

/-- Words of major 0x19, field by field. -/
theorem test_words_19 :
    decodeWord (0b11001#5 ++ 0b011#3 ++ 0b01#2 ++ 0b110#3 ++ 0b01101#5 ++ 0b10110#5 ++ 0b101011011#9) = some (.st { size := 3#3, order := 1#2, scope := 6#3, t := 13#5, base := 22#5, off := 347#9 }) := by decide +kernel

/-- Words of major 0x1A, field by field. -/
theorem test_words_1A :
    decodeWord (0b11010000#8 ++ 0b11#2 ++ 0b101#3 ++ 0b1#1 ++ 0b1#1 ++ 0b000#3 ++ 0b10110#5 ++ 0b101011011#9) = some (.atomAdd { order := 3#2, scope := 5#3, sz64 := true, ret := true, base := 22#5, off := 347#9 })
    ∧ decodeWord (0b11010001#8 ++ 0b11#2 ++ 0b101#3 ++ 0b1#1 ++ 0b1#1 ++ 0b1#1 ++ 0b00#2 ++ 0b11011#5 ++ 0b110101101#9) = some (.atomMin { order := 3#2, scope := 5#3, sz64 := true, ret := true, uns := true, base := 27#5, off := 429#9 })
    ∧ decodeWord (0b11010010#8 ++ 0b11#2 ++ 0b101#3 ++ 0b1#1 ++ 0b1#1 ++ 0b1#1 ++ 0b00#2 ++ 0b11011#5 ++ 0b110101101#9) = some (.atomMax { order := 3#2, scope := 5#3, sz64 := true, ret := true, uns := true, base := 27#5, off := 429#9 })
    ∧ decodeWord (0b11010011#8 ++ 0b11#2 ++ 0b101#3 ++ 0b1#1 ++ 0b1#1 ++ 0b000#3 ++ 0b10110#5 ++ 0b101011011#9) = some (.atomAnd { order := 3#2, scope := 5#3, sz64 := true, ret := true, base := 22#5, off := 347#9 })
    ∧ decodeWord (0b11010100#8 ++ 0b10#2 ++ 0b011#3 ++ 0b1#1 ++ 0b1#1 ++ 0b000#3 ++ 0b01101#5 ++ 0b010110110#9) = some (.atomOr { order := 2#2, scope := 3#3, sz64 := true, ret := true, base := 13#5, off := 182#9 })
    ∧ decodeWord (0b11010101#8 ++ 0b11#2 ++ 0b101#3 ++ 0b1#1 ++ 0b1#1 ++ 0b000#3 ++ 0b10110#5 ++ 0b101011011#9) = some (.atomXor { order := 3#2, scope := 5#3, sz64 := true, ret := true, base := 22#5, off := 347#9 })
    ∧ decodeWord (0b11010110#8 ++ 0b01#2 ++ 0b110#3 ++ 0b1#1 ++ 0b1#1 ++ 0b000#3 ++ 0b11011#5 ++ 0b110101101#9) = some (.atomXchg { order := 1#2, scope := 6#3, sz64 := true, ret := true, base := 27#5, off := 429#9 })
    ∧ decodeWord (0b11010111#8 ++ 0b11#2 ++ 0b101#3 ++ 0b1#1 ++ 0b1#1 ++ 0b000#3 ++ 0b10110#5 ++ 0b101011011#9) = some (.atomCas { order := 3#2, scope := 5#3, sz64 := true, ret := true, base := 22#5, off := 347#9 }) := by decide +kernel

/-- Words of major 0x1B, field by field. -/
theorem test_words_1B :
    decodeWord (0b1101100#7 ++ 0b101#3 ++ 0b10110#5 ++ 0b01101#5 ++ 0b011010110110#12) = some (.ldl { size := 5#3, t := 22#5, base := 13#5, off := 1718#12 })
    ∧ decodeWord (0b1101101#7 ++ 0b101#3 ++ 0b10110#5 ++ 0b01101#5 ++ 0b011010110110#12) = some (.stl { size := 5#3, t := 22#5, base := 13#5, off := 1718#12 })
    ∧ decodeWord (0b1101110#7 ++ 0b101#3 ++ 0b10110#5 ++ 0b01101#5 ++ 0b011010110110#12) = some (.ldt { size := 5#3, t := 22#5, base := 13#5, off := 1718#12 })
    ∧ decodeWord (0b1101111010#10 ++ 0b01101#5 ++ 0b10110#5 ++ 0b110101101101#12) = some (.stt { size := 2#3, t := 13#5, base := 22#5, off := 3437#12 }) := by decide +kernel

/-- Words of major 0x1C, field by field. -/
theorem test_words_1C :
    decodeWord (0b11100000000#11 ++ 0b1011#4 ++ 0b11010110110101101#17) = some (.br { prio := 11#4, disp := 109997#17 })
    ∧ decodeWord (0b11100001#8 ++ 0b101#3 ++ 0b0110#4 ++ 0b10110110101101101#17) = some (.brt { p := 5#3, prio := 6#4, disp := 93549#17 })
    ∧ decodeWord (0b11100010#8 ++ 0b101#3 ++ 0b0110#4 ++ 0b10110110101101101#17) = some (.brf { p := 5#3, prio := 6#4, disp := 93549#17 })
    ∧ decodeWord (0b11100011000#11 ++ 0b0110#4 ++ 0b10110110101101101#17) = some (.call { prio := 6#4, disp := 93549#17 })
    ∧ decodeWord (0b11100100000#11 ++ 0b1101#4 ++ 0b00000000000000000#17) = some (.ret { prio := 13#4 })
    ∧ decodeWord (0b11100101000#11 ++ 0b0110#4 ++ 0b000000000#9 ++ 0b01101101#8) = some (.jmps { prio := 6#4, sn := 109#8 })
    ∧ decodeWord (0b11100110000000000000000000000000#32) = some .exit := by decide +kernel

/-- Words of major 0x1D, field by field. -/
theorem test_words_1D :
    decodeWord (0b1110100000#10 ++ 0b01101#5 ++ 0b10110#5 ++ 0b0000#4 ++ 0b1#1 ++ 0b10110#5 ++ 0b11#2) = some (.cpl { aa := 13#5, ab := 22#5, arv := true, bar := 22#5, size := 3#2 })
    ∧ decodeWord (0b1110100001#10 ++ 0b01101#5 ++ 0b00000000000#11 ++ 0b010110#6) = some (.cpk { aa := 13#5, n := 22#6 })
    ∧ decodeWord (0b1110100010#10 ++ 0b01101#5 ++ 0b10110#5 ++ 0b01#2 ++ 0b1010110110#10) = some (.pft { aa := 13#5, ab := 22#5, comp := 1#2, size := 694#10 })
    ∧ decodeWord (0b1110100011#10 ++ 0b01101#5 ++ 0b10110#5 ++ 0b1#1 ++ 0b01101#5 ++ 0b010110#6) = some (.tload { aa := 13#5, ab := 22#5, list := true, count := 13#5, slot := 22#6 })
    ∧ decodeWord (0b11101001000000000000#20 ++ 0b011011#6 ++ 0b101101#6) = some (.tsclaim { count := 27#6, slot := 45#6 })
    ∧ decodeWord (0b11101001010000000000#20 ++ 0b101101#6 ++ 0b110110#6) = some (.tsrel { count := 45#6, slot := 54#6 })
    ∧ decodeWord (0b1110100110#10 ++ 0b01101#5 ++ 0b00000000000000000#17) = some (.mma { aa := 13#5 })
    ∧ decodeWord (0b1110100111#10 ++ 0b01101#5 ++ 0b00000000000000000#17) = some (.mdist { aa := 13#5 })
    ∧ decodeWord (0b1110101000#10 ++ 0b01101#5 ++ 0b00000000000000000#17) = some (.mtopk { aa := 13#5 })
    ∧ decodeWord (0b1110101001#10 ++ 0b01101#5 ++ 0b00000000000000000#17) = some (.mattn { aa := 13#5 })
    ∧ decodeWord (0b11101010100000000000000000000#29 ++ 0b110#3) = some (.macz { tile := 6#3 })
    ∧ decodeWord (0b1110101011#10 ++ 0b01101#5 ++ 0b10110#5 ++ 0b11#2 ++ 0b101#3 ++ 0b1010110#7) = some (.macrd { aa := 13#5, mode := 22#5, w := 3#2, tile := 5#3, vd := 86#7 })
    ∧ decodeWord (0b1110101100#10 ++ 0b01101#5 ++ 0b00000000000000000#17) = some (.spawn { aa := 13#5 })
    ∧ decodeWord (0b1110101101#10 ++ 0b10110#5 ++ 0b00000000000000000#17) = some (.vwsync { aa := 22#5 })
    ∧ decodeWord (0b11101011100000000000#20 ++ 0b10110#5 ++ 0b0000000#7) = some (.vwstat { ad := 22#5 })
    ∧ decodeWord (0b1110101111#10 ++ 0b01101#5 ++ 0b10110#5 ++ 0b11011#5 ++ 0b01#2 ++ 0b10110#5) = some (.segmk { aa := 13#5, ab := 22#5, ad := 27#5, cls := 1#2, n := 22#5 })
    ∧ decodeWord (0b1110110000#10 ++ 0b10110#5 ++ 0b00000#5 ++ 0b11011#5 ++ 0b00000#5 ++ 0b1#1 ++ 0b1#1) = some (.segatt { aa := 22#5, ad := 27#5, acq := true, pull := true })
    ∧ decodeWord (0b1110110001#10 ++ 0b10110#5 ++ 0b00000000000000000#17) = some (.segdet { aa := 22#5 })
    ∧ decodeWord (0b1110110010#10 ++ 0b11011#5 ++ 0b00000000000000000#17) = some (.segdrop { aa := 27#5 })
    ∧ decodeWord (0b1110110011#10 ++ 0b11011#5 ++ 0b00000000000000000#17) = some (.segseal { aa := 27#5 }) := by decide +kernel

/-- Words of major 0x1E, field by field. -/
theorem test_words_1E :
    decodeWord (0b1111000000#10 ++ 0b10110#5 ++ 0b0000000000000#13 ++ 0b1011#4) = some (.ctload { aa := 22#5, slot := 11#4 })
    ∧ decodeWord (0b1111000001000000000000000000#28 ++ 0b1101#4) = some (.ctinv { slot := 13#4 })
    ∧ decodeWord (0b1111000010#10 ++ 0b01101#5 ++ 0b00000#5 ++ 0b10110#5 ++ 0b0000000#7) = some (.xlmapNew { aa := 13#5, ad := 22#5 })
    ∧ decodeWord (0b1111000010#10 ++ 0b11011#5 ++ 0b01101#5 ++ 0b10110#5 ++ 0b01101#5 ++ 0b01#2) = some (.xlmapRd { aa := 27#5, ab := 13#5, ad := 22#5, hh := 13#5 })
    ∧ decodeWord (0b1111000010#10 ++ 0b11011#5 ++ 0b01101#5 ++ 0b10110#5 ++ 0b01101#5 ++ 0b10#2) = some (.xlmapWr { aa := 27#5, ab := 13#5, ad := 22#5, hh := 13#5 })
    ∧ decodeWord (0b1111000011#10 ++ 0b10110#5 ++ 0b00000#5 ++ 0b11011#5 ++ 0b0000000#7) = some (.xlfork { aa := 22#5, ad := 27#5 })
    ∧ decodeWord (0b1111000100#10 ++ 0b10110#5 ++ 0b00000000000000000#17) = some (.xlfree { aa := 22#5 })
    ∧ decodeWord (0b1111000100#10 ++ 0b11011#5 ++ 0b01101#5 ++ 0b000000000000#12) = some (.xlfreeAccept { aa := 27#5, ab := 13#5 })
    ∧ decodeWord (0b1111000101#10 ++ 0b10110#5 ++ 0b00000000000000000#17) = some (.xlseal { aa := 22#5 })
    ∧ decodeWord (0b1111000110#10 ++ 0b01101#5 ++ 0b10110#5 ++ 0b11011#5 ++ 0b01101#5 ++ 0b00#2) = some (.xlpfx { aa := 13#5, ab := 22#5, ad := 27#5, hh := 13#5 })
    ∧ decodeWord (0b1111000111#10 ++ 0b10110#5 ++ 0b00000000000000#14 ++ 0b011#3) = some (.evwait { aa := 22#5, scope := 3#3 })
    ∧ decodeWord (0b1111001000#10 ++ 0b01101#5 ++ 0b00000000000000#14 ++ 0b110#3) = some (.evset { aa := 13#5, scope := 6#3 })
    ∧ decodeWord (0b1111001001#10 ++ 0b01101#5 ++ 0b00000000000000000#17) = some (.evclr { aa := 13#5 })
    ∧ decodeWord (0b1111001010#10 ++ 0b10110#5 ++ 0b00000#5 ++ 0b11011#5 ++ 0b0000#4 ++ 0b101#3) = some (.evtest { aa := 22#5, ad := 27#5, scope := 5#3 })
    ∧ decodeWord (0b1111001011#10 ++ 0b10110#5 ++ 0b11011#5 ++ 0b000000000000#12) = some (.tbinit { aa := 22#5, ab := 27#5 })
    ∧ decodeWord (0b1111001100#10 ++ 0b01101#5 ++ 0b00000000000#11 ++ 0b110110#6) = some (.tbarv { aa := 13#5, k := 54#6 })
    ∧ decodeWord (0b1111001100#10 ++ 0b01101#5 ++ 0b00000000001000000#17) = some (.tbarvLanes { aa := 13#5 })
    ∧ decodeWord (0b1111001101#10 ++ 0b01101#5 ++ 0b10110#5 ++ 0b000000000000#12) = some (.tbexp { aa := 13#5, ab := 22#5 })
    ∧ decodeWord (0b1111001101#10 ++ 0b01101#5 ++ 0b10110#5 ++ 0b000000000001#12) = some (.tbexpArv { aa := 13#5, ab := 22#5 })
    ∧ decodeWord (0b1111001110#10 ++ 0b10110#5 ++ 0b11011#5 ++ 0b01101#5 ++ 0b0000000#7) = some (.tbwait { aa := 22#5, ab := 27#5, ad := 13#5 })
    ∧ decodeWord (0b11110011110000000000#20 ++ 0b101101#6 ++ 0b110#3 ++ 0b011#3) = some (.cwait { n := 45#6, cls := 6#3, scope := 3#3 }) := by decide +kernel

/-- Words of major 0x1F, field by field. -/
theorem test_words_1F :
    decodeWord (0b1111100000#10 ++ 0b101#3 ++ 0b110#3 ++ 0b0000000000000000#16) = some (.fence { scope := 5#3, order := 6#3 })
    ∧ decodeWord (0b111110000100000000000000000#27 ++ 0b10110#5) = some (.trap { n := 22#5 })
    ∧ decodeWord (0b11111000100000000000000000000000#32) = some .tret
    ∧ decodeWord (0b1111100011000000#16 ++ 0b1010110110101101#16) = some (.brk { code := 44461#16 })
    ∧ decodeWord (0b1111100100#10 ++ 0b1010110#7 ++ 0b000#3 ++ 0b110101101101#12) = some (.csrr { reg := 86#7, num := 3437#12 })
    ∧ decodeWord (0b1111100101#10 ++ 0b1010110#7 ++ 0b000#3 ++ 0b110101101101#12) = some (.csrw { reg := 86#7, num := 3437#12 })
    ∧ decodeWord (0b1111100110#10 ++ 0b1011010110110101101101#22) = some (.sleep { n := 2977133#22 })
    ∧ decodeWord (0b11111001110000000000000000000000#32) = some .yield
    ∧ decodeWord (0b111110100000000000000000000#27 ++ 0b01101#5) = some (.rgrow { k := 13#5 })
    ∧ decodeWord (0b111110100100000000000000000#27 ++ 0b11011#5) = some (.rshrink { k := 27#5 })
    ∧ decodeWord (0b11111010100000000000000000000000#32) = some .rsync
    ∧ decodeWord (0b1111101011#10 ++ 0b10110#5 ++ 0b11#2 ++ 0b000000000000000#15) = some (.lsmode { bank := 22#5, mode := 3#2 })
    ∧ decodeWord (0b11111011000000000000000000000000#32) = some .nop
    ∧ decodeWord (0b1111111000#10 ++ 0b0000101101011011010110#22) = some (.hImm { payload := 186070#22 })
    ∧ decodeWord (0b1111111001#10 ++ 0b0000101101011011010110#22) = some (.hImx { payload := 186070#22 })
    ∧ decodeWord (0b111111101000#12 ++ 0b1#1 ++ 0b10#2 ++ 0b1011011#7 ++ 0b1#1 ++ 0b10#2 ++ 0b1101101#7) = some (.hKill { payload := 880493#22 })
    ∧ decodeWord (0b11111110110000000000000000000#29 ++ 0b1#1 ++ 0b1#1 ++ 0b1#1) = some (.hSched { payload := 7#22 })
    ∧ decodeWord (0b1111111100000000000000000#25 ++ 0b10#2 ++ 0b01#2 ++ 0b110#3) = some (.hMod { payload := 78#22 })
    ∧ decodeWord (0b1111111101000000000000000000#28 ++ 0b1#1 ++ 0b110#3) = some (.hPred { payload := 14#22 }) := by decide +kernel
/-! ### Ill-formed terms -/

/-- The check refuses an instruction on a strand of 16 lanes, with this reason. -/
abbrev Refuses (st : Strand) (i : Instr) (reason : Nat) : Prop := ¬ WellFormed st 16 i ∧ reason ∈ breaches st 16 i

/-- The refusal is decided by the reasons alone. -/
theorem refuses_of_mem {st : Strand} {i : Instr} {r : Nat} (h : r ∈ breaches st 16 i) : Refuses st i r :=
  ⟨fun w => absurd h (by unfold WellFormed at w; simp [w]), h⟩

/-- Strands, classes and queues (R75). -/
theorem test_ill_strand :
    ∀ p ∈ [(Strand.addr, Instr.iadd ⟨0, 0, 0, 0, false, false⟩), (.comp, .aadd ⟨1, 2, 3⟩), (.comp, .pop ⟨0, 0, 2⟩),
      (.comp, .peek ⟨0, 0, 3⟩), (.comp, .push ⟨0, 0, 1⟩), (.addr, .pop ⟨0, 0, 0⟩), (.addr, .peek ⟨0, 0, 1⟩),
      (.addr, .push ⟨0, 0, 2⟩), (.addr, .v2s ⟨0, 0, 0⟩)], Refuses p.1 p.2 4 :=
  fun p h => refuses_of_mem (by revert p; decide +kernel)

/-- Conditions, modes, formats and operations (R78 to R83). -/
theorem test_ill_operation :
    ∀ p ∈ [(Strand.comp, Instr.icmp ⟨0, 6, 0, 0, false, false⟩), (.comp, .ucmp ⟨0, 6, 0, 0, false, false⟩),
      (.comp, .fcmp ⟨0, 8, 0, 0, false, false⟩), (.comp, .fclass ⟨0, 14, 0, false⟩), (.addr, .acmp ⟨0, 1, 2, 10⟩),
      (.comp, .cvtf ⟨0, 0, 1, 0, 0, false, false⟩), (.comp, .cvth ⟨0, 0, 1, 8, 0, false, false⟩),
      (.comp, .bxpack ⟨1, 0, 2, 7, 0, false, false⟩), (.comp, .bxunpack ⟨1, 0, 2, 11, 0, false, false⟩),
      (.comp, .shfl ⟨4, 0, 2, 80⟩), (.comp, .vote ⟨5, 0, 2, 80⟩), (.addr, .macrd ⟨1, 3, 0, 0, 0⟩), (.addr, .cwait ⟨0, 6, 1⟩)],
      Refuses p.1 p.2 1 :=
  fun p h => refuses_of_mem (by revert p; decide +kernel)

/-- Sizes, orders, scopes and combinations (R74, R75, R83, R150). -/
theorem test_ill_combination :
    ∀ p ∈ [(Strand.comp, Instr.bxpack ⟨0, 0, 1, 8, 0, false, false⟩), (.addr, .pop ⟨1, 0, 2⟩), (.comp, .qlen ⟨1, 0, 0⟩),
      (.addr, .ldq ⟨5, 0, 0, 1, 0⟩), (.addr, .ldq ⟨2, 0, 7, 1, 0⟩), (.addr, .ldq ⟨2, 1, 0, 1, 0⟩), (.addr, .ldq ⟨2, 2, 4, 1, 0⟩),
      (.addr, .lda ⟨4, 0, 0, 2, 1, 0⟩), (.addr, .lda ⟨2, 2, 4, 2, 1, 0⟩), (.addr, .st ⟨5, 0, 0, 2, 1, 0⟩),
      (.addr, .st ⟨2, 1, 4, 2, 1, 0⟩), (.addr, .atomAdd ⟨0, 0, false, false, 1, 0⟩),
      (.addr, .atomMin ⟨0, 7, false, false, false, 1, 0⟩), (.addr, .ldl ⟨5, 2, 1, 0⟩), (.addr, .ldt ⟨1, 1, 1, 0⟩),
      (.addr, .stt ⟨3, 1, 1, 0⟩), (.addr, .cpl ⟨1, 2, false, 0, 3⟩), (.addr, .pft ⟨1, 0, 3, 0⟩), (.addr, .macrd ⟨1, 2, 0, 0, 0⟩),
      (.addr, .evset ⟨1, 7⟩), (.addr, .evtest ⟨1, 2, 7⟩), (.addr, .cwait ⟨0, 0, 0⟩), (.addr, .fence ⟨7, 1⟩), (.addr, .fence ⟨1, 5⟩)],
      Refuses p.1 p.2 2 :=
  fun p h => refuses_of_mem (by revert p; decide +kernel)

/-- Fields that must be zero (R79, R288, R300): also those that a word has beside its operands. -/
theorem test_ill_zero :
    (∀ p ∈ [(Strand.comp, Instr.cvth ⟨0, 0, 1, 1, 1, false, false⟩), (.comp, .bxunpack ⟨3, 0, 8, 8, 0, true, false⟩),
      (.addr, .cpl ⟨1, 2, true, 0, 0⟩), (.addr, .pft ⟨1, 2, 2, 0⟩)], Refuses p.1 p.2 3)
    ∧ wordReasons .nop 0xFB000001#32 = [3] ∧ decodeWord 0xFB000001#32 = none :=
  ⟨fun p h => refuses_of_mem (by revert p; decide +kernel), by decide +kernel, by decide +kernel⟩

/-- Registers, lanes, slots, banks and counts (R72, R75, R80, R83). -/
theorem test_ill_number :
    ∀ p ∈ [(Strand.comp, Instr.shfl ⟨0, 0, 2, 81⟩), (.comp, .redux ⟨0, 0, 2, 160⟩), (.comp, .xsend ⟨0, 0, 32, false⟩),
      (.comp, .xrecv ⟨0, 0, 32⟩), (.addr, .pop ⟨0, 32, 2⟩), (.addr, .qlen ⟨0, 32, 2⟩), (.comp, .v2s ⟨80, 0, 16⟩),
      (.addr, .cpk ⟨1, 0⟩), (.addr, .tload ⟨1, 2, false, 1, 63⟩), (.addr, .tsclaim ⟨1, 63⟩), (.addr, .tbarv ⟨1, 0⟩),
      (.comp, .csrr ⟨0, 0x002⟩), (.addr, .csrw ⟨32, 0⟩), (.comp, .rgrow ⟨0⟩), (.comp, .rshrink ⟨17⟩), (.comp, .lsmode ⟨24, 0⟩),
      (.comp, .sadd ⟨80, 160, 0⟩)], Refuses p.1 p.2 5 :=
  fun p h => refuses_of_mem (by revert p; decide +kernel)

/-- Alignment, overlap and halves (R69, R70, R72). -/
theorem test_ill_register :
    (∀ p ∈ [(Strand.comp, Instr.iadd ⟨1, 1, 2, 4, false, false⟩), (.comp, .bxdot2 ⟨0, 1, 2, 0, false, false⟩),
      (.addr, .st ⟨4, 0, 0, 3, 1, 0⟩), (.addr, .ldl ⟨4, 3, 1, 0⟩)], Refuses p.1 p.2 6)
    ∧ Refuses .comp (.bxdot2 ⟨3, 2, 4, 0, false, false⟩) 7
    ∧ (∀ p ∈ [(Strand.comp, Instr.sadd ⟨79, 0, 0⟩), (.addr, .sadd ⟨80, 0, 0⟩)], Refuses p.1 p.2 8) :=
  ⟨fun p h => refuses_of_mem (by revert p; decide +kernel), refuses_of_mem (by decide +kernel),
   fun p h => refuses_of_mem (by revert p; decide +kernel)⟩

/-- Hints: a repeated kind, a target that cannot take one, a conflict, and a breach of a hint's own payload (R84 to R90). -/
theorem test_ill_hints :
    (illegalInstr (grp) (issue .comp .nop [0xFE000001#32]) .nop).map (·.1) = some 9
    ∧ (illegalInstr (grp) (issue .comp (.li ⟨1, 0⟩) [0xFE000001#32, 0xFE000002#32]) (.li ⟨1, 0⟩)).map (·.1) = some 9
    ∧ (illegalInstr (grp) (issue .comp .nop [0xFE800000#32]) .nop).map (·.1) = some 9
    ∧ (illegalInstr (grp) (issue .comp .nop [0xFEC00008#32]) .nop).map (·.1) = some 3
    ∧ illegalInstr (grp) (issue .comp (.li ⟨1, 0⟩) [0xFE000001#32]) (.li ⟨1, 0⟩) = none := by decide +kernel

/-- What the check accepts (R92). -/
theorem test_well_formed :
    WellFormed .comp 16 (.iadd ⟨2, 8, 12, 16, false, false⟩) ∧ WellFormed .addr 16 (.aaddi ⟨5, 4, 0x3FC0⟩)
    ∧ Encodable (.xlfreeAccept ⟨1, 2⟩) ∧ ¬ Encodable (.xlfreeAccept ⟨1, 0⟩) := by
  unfold WellFormed Encodable; decide +kernel

/-! ### Single steps: values worked out by hand from the rules -/

/-- The machine with `i` placed and registers of lane 15, given by their codes. -/
def placed (i : Instr) (rs : List (Nat × DWord)) (f : Group → Group := id) : State :=
  let s := placeWord State.reset (wordOf i)
  { s with groups := SMap.modify s.groups 0 fun g => f { g with regs := rs } }

/-- What the step of that machine makes of the group. -/
def ran (i : Instr) (rs : List (Nat × DWord)) (f : Group → Group := id) : Option Group :=
  match step (placed i rs f) with
  | .next t => t.group? 0
  | _ => none

/-- The value of a register after the step. -/
def got (i : Instr) (rs : List (Nat × DWord)) (code : Nat) : Option Nat := (ran i rs).map fun g => (g.read 0 code).toNat

/-- Registers 1 and 2 of lane 15. -/
def v2 (x y : DWord) : List (Nat × DWord) := [(vCode 1 15, x), (vCode 2 15, y)]
def a2 (x y : DWord) : List (Nat × DWord) := [(aCode 1 15, x), (aCode 2 15, y)]

-- Sums wrap modulo 2^32 (R116).
theorem test_iadd_wraps : got (.iadd ⟨0, 3, 1, 2, false, false⟩) (v2 0xFFFFFFFF 2) (vCode 3 15) = some 1 := by decide +kernel
theorem test_isub_source_is_destination : got (.isub ⟨0, 1, 2, 1, false, false⟩) (v2 5 3) (vCode 1 15) = some 0xFFFFFFFE := by decide +kernel
theorem test_imulh_signed : got (.imulh ⟨0, 3, 1, 2, false, false⟩) (v2 0xFFFFFFFF 2) (vCode 3 15) = some 0xFFFFFFFF := by decide +kernel
theorem test_imulhu_unsigned : got (.imulhu ⟨0, 3, 1, 2, false, false⟩) (v2 0xFFFFFFFF 2) (vCode 3 15) = some 1 := by decide +kernel
theorem test_umax_unsigned : got (.umax ⟨0, 3, 1, 2, false, false⟩) (v2 0x80000000 1) (vCode 3 15) = some 0x80000000 := by decide +kernel
theorem test_imax_signed : got (.imax ⟨0, 3, 1, 2, false, false⟩) (v2 0x80000000 1) (vCode 3 15) = some 1 := by decide +kernel
theorem test_sar_sign : got (.sar ⟨0, 3, 1, 2, false, false⟩) (v2 0x80000000 4) (vCode 3 15) = some 0xF8000000 := by decide +kernel
theorem test_clz : got (.clz ⟨0, 3, 1, false⟩) (v2 0x00010000 0) (vCode 3 15) = some 15 := by decide +kernel
theorem test_brev : got (.brev ⟨0, 3, 1, false⟩) (v2 1 0) (vCode 3 15) = some 0x80000000 := by decide +kernel
-- 1.0 + 2.0 = 3.0; 2.5 rounds to 2.0, to even; the root of 4.0 is 2.0 (R43, R140, R142).
theorem test_fadd : got (.fadd ⟨0, 3, 1, 2, false, false⟩) (v2 0x3F800000 0x40000000) (vCode 3 15) = some 0x40400000 := by decide +kernel
theorem test_frint_even : got (.frint ⟨0, 3, 1, false⟩) (v2 0x40200000 0) (vCode 3 15) = some 0x40000000 := by decide +kernel
theorem test_fsqrt : got (.fsqrt ⟨0, 3, 1, false⟩) (v2 0x40800000 0) (vCode 3 15) = some 0x40000000 := by decide +kernel
-- A source that is also the accumulator: 1.0 + 2.0 * 3.0 = 7.0.
theorem test_fmac : got (.fmac ⟨0, 3, 1, 2, false, false⟩) ((vCode 3 15, 0x3F800000) :: v2 0x40000000 0x40400000) (vCode 3 15)
    = some 0x40E00000 := by decide +kernel
theorem test_movs : got (.movs ⟨0, 3, 5⟩) [(sCode 5, 7)] (vCode 3 15) = some 7 := by decide +kernel
theorem test_sadd : got (.sadd ⟨6, 5, 4⟩) [(sCode 5, 0xFFFFFFFF), (sCode 4, 5)] (sCode 6) = some 4 := by decide +kernel
theorem test_v2s : got (.v2s ⟨86, 1, 15⟩) (v2 9 0) (sCode 86) = some 9 := by decide +kernel
theorem test_aadd_wraps : got (.aadd ⟨3, 1, 2⟩) (a2 0xFFFFFFFFFFFFFFFF 3) (aCode 3 15) = some 2 := by decide +kernel
-- a0 reads zero and discards writes (R72).
theorem test_a0_reads_zero : got (.aadd ⟨3, 0, 2⟩) (a2 1 3) (aCode 3 15) = some 3 := by decide +kernel
theorem test_a0_discards : got (.aadd ⟨0, 1, 2⟩) (a2 1 3) (aCode 0 15) = some 0 := by decide +kernel
-- The call of R132 pushes the next word's address; its target is pc + 4 * disp (R130).
theorem test_call : (ran (.call ⟨5, 0x1FFFF⟩) []).map (fun g =>
    (g.frC.hw.map fun e => (e.pc.toNat, e.members.length), (g.thread 15).comp.stack.map (·.toNat), (g.thread 15).comp.bprio.toNat))
    = some ([(0xFFFC, 16)], [0x10004], 5) := by decide +kernel
-- An empty return stack traps every member (R132, R162): the cause code, the least lane and 0, and the vector.
theorem test_ret_empty : (ran (.ret ⟨0⟩) []).map (fun g =>
    (g.frC.hw.map fun e => (e.pc.toNat, e.members.length), (g.thread 15).comp.tpc.toNat, (g.thread 15).comp.th))
    = some ([(0x20000, 16)], 0x10000, true) := by decide +kernel
-- exit ends the strand of every member (R21).
theorem test_exit : (ran .exit []).map (fun g => (g.frC.entries.length, (g.thread 15).comp.ended, (g.thread 15).ended))
    = some (0, true, false) := by decide +kernel
-- A word that is no instruction: ILLEGAL_INSTRUCTION with the word as tval and reason 1 (R67, R162).
theorem test_illegal_word :
    (match step (placeWord State.reset 0xFF800000#32) with
      | .next t => (t.group? 0).map fun g => ((g.thread 0).comp.tcause.toNat, (g.thread 0).comp.tval.toNat, (g.thread 0).comp.tinfo.toNat)
      | _ => none) = some (0, 0xFF800000, 1) := by decide +kernel
-- A brt of members whose predicate differs leaves two entries (R24, R130).
theorem test_brt_splits : (ran (.brt ⟨2, 0, 4⟩) [(pCode .comp 2 15, 1)]).map (fun g => g.frC.hw.map fun e => (e.pc.toNat, e.members.length))
    = some [(0x10004, 15), (0x10010, 1)] := by decide +kernel
-- The memory that nothing has written reads 0, and a byte written is read back (R204).
theorem test_memory : readNat (writeHome State.reset 0x1234 [0x11#8, 0x22#8]) 0x1234 3 = 0x2211 := by decide +kernel

/-- R109, R105: a byte 7 stored at the aperture place of v5 of lane 3 is in the banks at once; v5 reads 0 until an entry pushed after the
store is popped, and the pop of the entry pushed before it does not show it. -/
theorem test_aperture_store :
    let g := (grp fun g => g.setThread 3 fun t => t.pushQueue 1 [1#64]).setImageByte (4 * (5 * 16 + 3)) 7#8
    let g1 := (g.setThread 3 fun t => t.pushQueue 1 [2#64]).popLanes 1 1 [3]
    let g2 := g1.popLanes 1 1 [3]
    g.imageByte (4 * (5 * 16 + 3)) = 7#8 ∧ g.arch (vCode 5 3) = 0#64 ∧ g1.arch (vCode 5 3) = 0#64
      ∧ g2.arch (vCode 5 3) = 7#64 ∧ g2.stores = [] ∧ ((g1.write (vCode 5 3) 9#64).popLanes 1 1 [3]).arch (vCode 5 3) = 9#64 := by
  decide +kernel
/-! ### Witnesses: register instructions -/

theorem witness_VectorIntegerResults :
    let f : VOps := ⟨3, 8, 16, 24, false, true⟩
    ∀ i ∈ [Instr.iadd f, .isub f, .imul f, .imulh f, .imin f, .imax f, .umin f, .umax f, .land f, .lor f, .lxor f, .landn f,
      .shl f, .shr f, .sar f, .rot f, .imac f, .imulhu f, .isad f, .idot4 f], Ready .comp i := by decide +kernel

theorem witness_VectorOneSourceResults :
    let f : UnOps := ⟨1, 126, 0, true⟩
    let n : ViOps := ⟨127, 3, false, 0x200⟩
    let h : ShOps := ⟨1, 2, false, 31⟩
    (∀ i ∈ [Instr.inot f, .ineg f, .iabs f, .popc f, .clz f, .ctz f, .brev f, .mov f, .sel ⟨0, 1, 2, 3, 3⟩, .iaddi n, .andi n,
      .ori n, .xori n, .shli h, .shri h, .sari h, .li ⟨5, 0x3FF⟩, .iadds ⟨2, 4, 8, 159, false⟩, .movs ⟨0, 4, 0⟩], Ready .comp i)
    ∧ Ready .comp (.iaddi n) id id [0xFE000061#32] := by decide +kernel

theorem witness_CompareResults :
    let f : CmpOps := ⟨7, 5, 1, 2, false, false⟩
    (∀ i ∈ [Instr.icmp f, .ucmp f, .fcmp f, .fclass ⟨0, 13, 127, true⟩], Ready .comp i)
    ∧ ∀ i ∈ [Instr.acmp ⟨7, 1, 0, 9⟩, .acmpi ⟨0, 3, 31, 0x2000⟩], Ready .addr i := by decide +kernel

theorem witness_ScalarResults :
    let f : S3Ops := ⟨80, 0, 159⟩
    let u : S2Ops := ⟨159, 79⟩
    ∀ i ∈ [Instr.sadd f, .ssub f, .smul f, .sand f, .sor f, .sxor f, .sshl f, .sshr f, .smin f, .smax f, .saddi ⟨80, 1, 0x80⟩,
      .sli ⟨81, 255⟩, .smov u, .v2s ⟨82, 127, 15⟩, .sclz u, .spopc u], Ready .comp i := by decide +kernel

theorem witness_AddressResults :
    let f : A3Ops := ⟨0, 31, 1⟩
    let n : AiOps := ⟨31, 0, 0x2000⟩
    let h : AshOps := ⟨2, 1, 63⟩
    ∀ i ∈ [Instr.aadd f, .asub f, .amul f, .aand f, .aor f, .axor f, .ashl f, .ashr f, .asar f, .amin f, .amax f, .alea ⟨1, 2, 3, 7⟩,
      .amov ⟨1, 2⟩, .a2s ⟨1, 79⟩, .s2a ⟨1, 159⟩, .aaddi n, .alui n, .aandi n, .aori n, .ali ⟨0, 1⟩, .ashli h, .ashri h],
      Ready .addr i := by decide +kernel

theorem witness_FloatResults :
    let f : VOps := ⟨0, 1, 2, 3, false, false⟩
    let v : VsOps := ⟨3, 8, 16, 80, false⟩
    let u : UnOps := ⟨3, 8, 8, false⟩
    (∀ i ∈ [Instr.fadd f, .fsub f, .fmul f, .fmac f, .fmin f, .fmax f, .fsgnj f, .fabd f, .fadds v, .fmuls v], Ready .comp i)
    ∧ (∀ i ∈ [Instr.fneg u, .fabs u, .ffloor u, .fceil u, .ftrunc u, .frint u, .frcp u, .frsq u, .fsqrt u, .fexp2 u, .flog2 u,
        .ftanh u, .fsin u, .fcos u], Ready .comp i)
    ∧ ∀ i ∈ [Instr.badd2 f, .bmul2 f, .bmac2 f, .bmax2 f, .hadd2 f, .hmul2 f, .hmac2 f, .hmax2 f], Ready .comp i := by decide +kernel

/-- Every conversion of zeros is exact. -/
theorem witness_ConversionResults :
    let c : CvtOps := ⟨0, 1, 2, 1, 0, false, false⟩
    let p : CvtOps := ⟨3, 8, 16, 8, 2, true, false⟩
    let b : BxOps := ⟨1, 2, 4, 3, false, false⟩
    (∀ i ∈ [Instr.cvtf c, .cvth { c with fmt := 11, t := true }, .bxpack p, .bxunpack { p with pol := 0, t := false }, .bxdot2 b, .bxdot4 b,
      .bxdot7 b, .f4dot ⟨1, 2, 3, false, false⟩], Ready .comp i)
    ∧ (∀ l ∈ acting (mach .comp (.cvtf c)) (issue .comp (.cvtf c)) grp,
        f32ToCode (ctlOf (grp.thread l).fmode []) 1 0 0 (grp.thread l).f4x none ≠ .trap)
    ∧ (acts (mach .comp (.bxpack p)) (issue .comp (.bxpack p)) grp).packTraps p (fmtK 8) = [] := by decide +kernel

/-- Lane 15 overflows fp16 under policy 11, in the second of its two values. -/
theorem witness_ConversionResults_overflow :
    let c : CvtOps := ⟨1, 4, 2, 2, 3, false, false⟩
    let f := fun g : Group => { g with regs := (vCode 3 15, 0x7F000000#64) :: g.regs }
    let i := Instr.cvtf c
    let code := fun l k => f32ToCode (ctlOf ((grp f).thread l).fmode []) 2 3 (vNow (mach .comp i f) (grp f) (2 + k) l).toNat
      ((grp f).thread l).f4x none
    Ready .comp i f ∧ 15 ∈ acting (mach .comp i f) (issue .comp i) (grp f) ∧ code 15 1 = .trap
    ∧ (∀ m ∈ upTo 16, ∀ j < span c.w, m < 15 ∨ j = 0 → code m j ≠ .trap)
    ∧ CanTrap .comp (grp f) (acting (mach .comp i f) (issue .comp i) (grp f)) (fun _ => ⟨0x080, 15, 0x7F000000⟩) := by
  dsimp only [CanTrap]; (repeat' apply And.intro) <;> decide +kernel

/-! ### Witnesses: issue, traps, branches, control -/

/-- Each rung of the ladder before an instruction: an illegal word, no member selected, a register above the allocation, an empty source
that raises, one that blocks. -/
theorem witness_IssueChecks :
    (let i := Instr.sadd ⟨0, 0, 0⟩
     illegalInstr grp (issue .comp i) i = some (8, wordOf i) ∧ CanTrap .comp grp ((issue .comp i).lanes grp) (fun _ => ⟨0x000, (wordOf i).toNat, 8⟩))
    ∧ (let i := Instr.li ⟨1, 0⟩
       Issues i (mach .comp i id id [0xFF400000#32]) (issue .comp i [0xFF400000#32]) grp
         ∧ acting (mach .comp i id id [0xFF400000#32]) (issue .comp i [0xFF400000#32]) grp = [])
    ∧ (let i := Instr.li ⟨9, 0⟩
       let f := fun g : Group => { g with vAlloc := 8 }
       Issues i (mach .comp i f) (issue .comp i) (grp f) ∧ notAllocated (grp f) (shapeOf .comp i) = some 9
         ∧ CanTrap .comp (grp f) (acting (mach .comp i f) (issue .comp i) (grp f)) (fun _ => ⟨0x040, (wordOf i).toNat, 9⟩))
    ∧ (let i := Instr.mov ⟨0, 1, 2, true⟩
       let f := fun g : Group => { g with empty := [(vCode 2 3, true)] }
       Issues i (mach .comp i f) (issue .comp i) (grp f) ∧ notAllocated (grp f) (shapeOf .comp i) = none
         ∧ emptyRead (grp f) (sources i (mach .comp i f) (issue .comp i) (grp f)) = some 2)
    ∧ (let i := Instr.mov ⟨0, 1, 2, false⟩
       let f := fun g : Group => { g with empty := [(vCode 2 3, true)] }
       let src := sources i (mach .comp i f) (issue .comp i) (grp f)
       Issues i (mach .comp i f) (issue .comp i) (grp f) ∧ emptyRead (grp f) src = none
         ∧ emptyCodes (grp f) i (shapeOf .comp i) src (acting (mach .comp i f) (issue .comp i) (grp f)) ≠ [])
    ∧ (issue .comp (.hImm ⟨1⟩)).entry.members ≠ [] ∧ isHint (.hImm ⟨1⟩) = true ∧ isWord (.li ⟨1, 0⟩) = true := by
  simp only [CanTrap]; decide +kernel

theorem witness_TrapsAndReturns :
    let r := fun g : Group => { g with threads := g.threads.map fun t => { t with comp := { t.comp with th := true } } }
    (∀ i ∈ [Instr.trap ⟨31⟩, .brk ⟨0xFFFF⟩], Ready .comp i)
    ∧ CanTrap .comp grp (upTo 16) (fun _ => ⟨0x1FF, 31, 1⟩) ∧ CanTrap .comp grp (upTo 16) (fun _ => ⟨0x1C0, 0xFFFF, 1⟩)
    ∧ Ready .comp .tret r ∧ (∀ l ∈ upTo 16, (((grp r).thread l).strand .comp).th = true)
    ∧ Ready .comp .tret ∧ (∀ l ∈ upTo 16, ((grp.thread l).strand .comp).th = false)
    ∧ CanTrap .comp grp (upTo 16) (fun _ => ⟨0x1C1, 0, 0⟩) := by
  simp only [CanTrap]; decide +kernel

theorem witness_TrapsAndReturns_fatal :
    let s := mach .comp .nop
    s.group? 0 = some grp ∧ (s.ctx? grp.ctx).isSome ∧ fatalCode 0x1C3 = true
    ∧ ((grp (fun g => { g with threads := [{ comp := { th := true } }] })).thread 0).comp.th = true
    ∧ ((grp (fun g => { g with threads := [{}] })).thread 0).comp.tvec = 0#64 := by decide +kernel

theorem witness_BranchResults :
    let full := fun g : Group => { g with threads := g.threads.map fun t => { t with comp := { t.comp with stack := [1, 2, 3, 4, 5, 6, 7, 8] } } }
    let one := fun g : Group => { g with threads := g.threads.map fun t => { t with comp := { t.comp with stack := [placePC] } } }
    (∀ i ∈ [Instr.br ⟨15, 0x1FFFF⟩, .brt ⟨7, 0, 1⟩, .brf ⟨7, 0, 1⟩, .jmps ⟨0, 159⟩, .call ⟨1, 2⟩, .ret ⟨3⟩], Ready .comp i)
    ∧ Ready .comp (.call ⟨1, 2⟩) full ∧ Ready .comp (.ret ⟨3⟩) one
    ∧ (∀ l ∈ upTo 16, ((grp.thread l).strand .comp).stack = [] ∧ (((grp one).thread l).strand .comp).stack ≠ []
        ∧ 8 ≤ (((grp full).thread l).strand .comp).stack.length)
    ∧ CanTrap .comp (grp full) (upTo 16) (fun _ => ⟨0x044, 0, 8⟩) ∧ CanTrap .comp grp (upTo 16) (fun _ => ⟨0x045, 0, 0⟩) := by
  simp only [CanTrap]; decide +kernel

theorem witness_ExitEndsStrands :
    Ready .comp .exit ∧ (∀ l ∈ upTo 16, ((grp.thread l).strand (otherStrand .comp)).ended = false)
    ∧ grp.arrivals = [] ∧ (let e := fun g : Group => { g with threads := g.threads.map fun t => { t with addr := { t.addr with ended := true } } }
      Ready .comp .exit e ∧ ∀ l ∈ upTo 16, queueMask ((grp e).thread l) = 0 ∧ (grp e).owes l = false) := by decide +kernel

theorem witness_ControlRegisterResults :
    let f := fun g : Group => { g with slow := [⟨.addr, 3, 5, 0x7FF⟩] }
    (∀ i ∈ [Instr.csrr ⟨2, 0x041⟩, .csrr ⟨2, 0x030⟩, .csrr ⟨2, 0x020⟩, .csrw ⟨2, 0x014⟩, .csrw ⟨2, 0x030⟩], Ready .comp i ∧ Ready .addr i)
    ∧ csrReadOnly 0x014 = false ∧ csrReadOnly 0x030 = true
    ∧ CanTrap .comp grp (upTo 16) (fun _ => ⟨0x022, 0x030, 0⟩)
    ∧ ((grp f).slow.find? fun x => x.strand = .addr && x.lane = 3) = some ⟨.addr, 3, 5, 0x7FF⟩ ∧ (grp f).arrivals = []
    ∧ teamMeets (mach .addr .nop f) (grp f).team = [] := by
  simp only [CanTrap]; decide +kernel

/-- The second entry of the strand has yielded to the first, which is ready. -/
theorem witness_WaitingAndAllocation :
    let x : Entry := { id := 5, pc := placePC, members := [0] }
    let e : Entry := { id := 6, pc := placePC, members := [1], yieldFor := [5] }
    let f := fun g : Group => { g with frC := { hw := [x, e] } }
    (∀ i ∈ [Instr.nop, .sleep ⟨0⟩, .sleep ⟨0x3FFFFF⟩, .yield], Ready .comp i ∧ Ready .addr i)
    ∧ x ∈ ((grp f).frontier .comp).hw ∧ x.id ∈ e.yieldFor ∧ (grp f).entry? .comp 5 = some x
    ∧ entryReady (mach .comp .nop f) (grp f) .comp x = true := by decide +kernel

theorem witness_WaitingAndAllocation_grow :
    let f := fun g : Group => { g with vAlloc := 16 }
    let s := mach .comp (.rgrow ⟨14⟩) f
    Ready .comp (.rgrow ⟨14⟩) f ∧ chunksFor 128 (grp f).width (grp f).sAlloc ≤ regCapacity (s.core (grp f).core) ∧ (grp f).requests = []
    ∧ (∀ p ∈ s.groups, p.2.growWaits = false) ∧ chunksFor 128 (grp f).width (grp f).sAlloc - (grp f).chunks ≤ freeChunks s (grp f).core
    ∧ Ready .comp (.rshrink ⟨1⟩) f ∧ 8 * 1 + 8 ≤ (grp f).vAlloc ∧ (grp f).owedAbove 1 = []
    ∧ Ready .comp .rsync ∧ grp.emptyOwned .comp = [] := by decide +kernel

/-- Sixteen other groups leave too few chunks; a register that a late producer owes. -/
theorem witness_WaitingAndAllocation_waits :
    let f := fun g : Group => { g with vAlloc := 16 }
    let full := fun s : State => { s with groups := (0, grp f) :: (upTo 16).map fun k => (k + 1, { grp with gid := k + 1, width := if k < 14 then 64 else 16 }) }
    let s := mach .comp (.rgrow ⟨14⟩) f full
    let e := fun g : Group => { g with empty := [(vCode 3 15, true)] }
    Ready .comp (.rgrow ⟨14⟩) f full ∧ (grp f).vAlloc + 8 * 14 ≤ 128 ∧ (∀ p ∈ s.groups, p.2.growWaits = false)
    ∧ freeChunks s 0 < chunksFor 128 (grp f).width (grp f).sAlloc - (grp f).chunks
    ∧ Ready .comp .rsync e ∧ (grp e).emptyOwned .comp ≠ [] := by decide +kernel

/-- Each queue in each direction; a queue at its capacity may not be pushed, and an empty one not popped. -/
theorem witness_QueueResults :
    let f := fun g : Group => { g with threads := g.threads.map fun t => { t with qld := [1, 2], qac := [3], qca := [4] } }
    (∀ i ∈ [Instr.push ⟨0, 1, 2⟩, .push ⟨1, 2, 3⟩, .pop ⟨1, 2, 0⟩, .pop ⟨0, 1, 1⟩, .peek ⟨0, 1, 1⟩, .qlen ⟨0, 1, 3⟩], Ready .comp i f)
    ∧ (∀ i ∈ [Instr.push ⟨0, 31, 1⟩, .pop ⟨0, 0, 2⟩, .peek ⟨0, 31, 2⟩, .qlen ⟨0, 31, 0⟩], Ready .addr i f)
    ∧ ∀ l ∈ upTo 16, (∀ q ∈ [1, 2, 3], ((grp f).thread l).queueLen q + takeCount q 1 ≤ queueCap q ∧ (grp f).pushDead q (takeCount q 1) l = false)
        ∧ ∀ q ∈ [0, 1, 2], takeCount q 1 ≤ ((grp f).thread l).queueLen q ∧ (grp f).popDead q (takeCount q 1) l = false := by decide +kernel

/-! ### Witnesses: memory -/

/-- Loads of mapped memory and of a window. -/
theorem witness_LoadsIssue :
    let at_ := fun (b : Nat) (g : Group) => withA 1 (fun l => b + 16 * l) g
    let q := Instr.ldq ⟨4, 1, 4, 1, 0⟩
    let d := Instr.lda ⟨3, 0, 0, 2, 1, 0⟩
    let w := Instr.ldl ⟨4, 2, 1, 0⟩
    let a := fun (i : Instr) (b : Nat) => acts (mach .addr i (at_ b)) (issue .addr i) (grp (at_ b))
    let look := fun (by_ : Reacher) (n : Nat) (al : Bool) (b : Nat) (s : State) (l : Nat) =>
      checkAccess s (grp (at_ b)) { by_ := by_, kind := 1, align := al } (b + 16 * l) n
    Ready .addr q (at_ 0x40000) ∧ Ready .addr d (at_ 0x40000) ∧ Ready .addr w (at_ (coreWindow + 0xC0000))
    ∧ (let f := look .load 16 true 0x40000
       Lands (a q 0x40000) f (found (a q 0x40000) f) ∧ (let x := a q 0x40000; x.memWait false (found x f) (fun l => x.access (x.form 1 4 16) l (0x40000 + 16 * l) .loadQ (found x f l)) = none)
         ∧ ∀ l ∈ upTo 16, (grp (at_ 0x40000)).hasRoom (wordsOf 16) l = true)
    ∧ (let f := look .load 8 false 0x40000
       Lands (a d 0x40000) f (found (a d 0x40000) f) ∧ (let x := a d 0x40000; x.memWait false (found x f) (fun l => x.access (x.form 0 0 8) l (0x40000 + 16 * l) (.loadA 3) (found x f l)) = none))
    ∧ (let b := coreWindow + 0xC0000
       let f := look .ldl 16 false b
       Lands (a w b) f (found (a w b) f) ∧ (let x := a w b; x.memWait true (found x f) (fun l => x.access (x.form 0 0 16) l (b + 16 * l) (.loadA 2) (found x f l)) = none)
         ∧ found (a w b) f 0 = [.bank 0 0xC0000 16]) := by
  simp only [Lands]; decide +kernel

/-- Stores to memory and to a bank, and an atomic with its operand in qsd. -/
theorem witness_StoresAndAtomicsIssue :
    let at_ := fun (b : Nat) (g : Group) =>
      withA 1 (fun l => b + 16 * l) { g with threads := g.threads.map fun t => { t with qsd := [1, 2, 3, 4] } }
    let p := Instr.st ⟨2, 2, 4, 0, 1, 0⟩
    let w := Instr.stl ⟨4, 2, 1, 0⟩
    let x := Instr.atomCas ⟨3, 4, true, true, 1, 0⟩
    let z := Instr.atomMin ⟨0, 1, false, false, true, 1, 0⟩
    let a := fun (i : Instr) (b : Nat) => acts (mach .addr i (at_ b)) (issue .addr i) (grp (at_ b))
    let look := fun (by_ : Reacher) (n kind : Nat) (b : Nat) (s : State) (l : Nat) =>
      checkAccess s (grp (at_ b)) { by_ := by_, kind := kind, align := true } (b + 16 * l) n
    let passes := fun (i : Instr) (b n : Nat) (m : MemForm) (f : State → Nat → Check × State) =>
      Lands (a i b) f (found (a i b) f)
        ∧ (a i b).memWait false (found (a i b) f) (fun l => (a i b).access m l (b + 16 * l) (.store []) (found (a i b) f l)) = none
        ∧ ∀ l ∈ upTo 16, found (a i b) f l ≠ [.page 0 8] ∧ n ≤ ((grp (at_ b)).thread l).qsd.length
    (∀ i ∈ [p, .atomAdd ⟨0, 1, false, false, 1, 0⟩, z, .atomMax ⟨0, 1, false, true, false, 1, 0⟩, .atomAnd ⟨0, 1, false, false, 1, 0⟩,
        .atomOr ⟨0, 1, false, false, 1, 0⟩, .atomXor ⟨0, 1, false, false, 1, 0⟩, .atomXchg ⟨0, 1, false, true, 1, 0⟩, x],
        Ready .addr i (at_ 0x40000))
    ∧ Ready .addr w (at_ (coreWindow + 0xC0000))
    ∧ passes p 0x40000 1 ((a p 0x40000).form 2 4 4) (look .store 4 2 0x40000)
    ∧ passes x 0x40000 4 ((a x 0x40000).form 3 4 8) (look .atomic 8 3 0x40000)
    ∧ passes z 0x40000 1 ((a z 0x40000).form 0 1 4) (look .atomic 4 3 0x40000)
    ∧ (∀ l ∈ upTo 16, actsAtIssue (found (a x 0x40000) (look .atomic 8 3 0x40000) l) = false
        ∧ (grp (at_ 0x40000)).hasRoom 2 l = true)
    ∧ (let b := coreWindow + 0xC0000
       let f := fun (s : State) (l : Nat) => checkAccess s (grp (at_ b)) { by_ := .stl, kind := 2 } (b + 16 * l) 16
       passes w b 0 ((a w b).form 0 0 16) f ∧ found (a w b) f 0 = [.bank 0 0xC0000 16]) := by
  simp only [Lands]; decide +kernel

/-- A store to MSTAT by one lane, the others storing to a bank. -/
theorem witness_StoresAndAtomicsIssue_mstat :
    let i := Instr.st ⟨3, 0, 0, 2, 1, 0⟩
    let f := withA 1 fun l => if l = 15 then coreWindow + 0x190018 else coreWindow + 0xC0000 + 16 * l
    let a := acts (mach .addr i f) (issue .addr i) (grp f)
    let look := fun (s : State) (l : Nat) => checkAccess s (grp f) { by_ := .store, kind := 2 }
      (if l = 15 then coreWindow + 0x190018 else coreWindow + 0xC0000 + 16 * l) 8
    Ready .addr i f ∧ Lands a look (found a look) ∧ found a look 15 = [.page 0x18 8]
    ∧ (∀ l ∈ upTo 15, actsAtIssue (found a look l) = false) := by
  simp only [Lands]; decide +kernel

/-- Lane 0 is misaligned in the windows of R264 for each instruction, and the other lanes are not. -/
theorem witness_AccessCausesTrap :
    let causes := fun (i : Instr) (how : Reach264) (base size : Nat) =>
      let ea := fun l => if l = 0 then base + 2 else base + 16 * l
      let f := withA 1 ea
      let a := acts (mach .addr i f) (issue .addr i) (grp f)
      let c : Nat → Option Cause := fun l => if l = 0 then some ⟨0x0A0, base + 2, size⟩ else none
      Ready .addr i f
        ∧ (∀ p ∈ (checkAll a.s (fun s l => checkAccess s (grp f) how (ea l) size) a.lanes).1, p.2 = match c p.1 with
          | some x => .cause x
          | none => .ok p.2.lands)
        ∧ (∃ l ∈ upTo 16, (c l).isSome) ∧ CanTrap .addr (grp f) [0] (fun l => (c l).getD ⟨0, 0, 0⟩)
    let home := 0x40000
    let bank := coreWindow + 0xC0000
    let atomic : Reach264 := { by_ := .atomic, kind := 3, align := true }
    causes (.ldq ⟨2, 0, 1, 1, 0⟩) { by_ := .load, kind := 1, align := true } home 4
    ∧ causes (.lda ⟨3, 0, 1, 5, 1, 0⟩) { by_ := .load, kind := 1, align := true } home 8
    ∧ causes (.st ⟨2, 0, 1, 5, 1, 0⟩) { by_ := .store, kind := 2, align := true } home 4
    ∧ causes (.ldl ⟨2, 5, 1, 0⟩) { by_ := .ldl, kind := 1 } bank 4
    ∧ causes (.stl ⟨3, 5, 1, 0⟩) { by_ := .stl, kind := 2 } bank 8
    ∧ (∀ i ∈ [Instr.atomAdd ⟨0, 1, false, false, 1, 0⟩, .atomXchg ⟨0, 1, false, false, 1, 0⟩, .atomCas ⟨0, 1, false, false, 1, 0⟩],
        causes i { atomic with host := true } home 4)
    ∧ (∀ i ∈ [Instr.atomAnd ⟨0, 1, false, false, 1, 0⟩, .atomOr ⟨0, 1, false, false, 1, 0⟩, .atomXor ⟨0, 1, false, false, 1, 0⟩,
          .atomMin ⟨0, 1, false, false, false, 1, 0⟩, .atomMax ⟨0, 1, false, true, false, 1, 0⟩], causes i atomic home 4) := by
  dsimp only [CanTrap]; (repeat' apply And.intro) <;> decide +kernel

theorem witness_FenceResults :
    let i := Instr.fence ⟨6, 4⟩
    Ready .comp i ∧ Ready .addr i ∧ grp.accs = [] ∧ beyondCore 6 (pairOf (mach .addr i) grp) = true := by decide +kernel

/-- A bank of each kind; the switch of bank 12 from SCR to REG begins and completes. -/
theorem witness_BankModeResults :
    let stay := Instr.lsmode ⟨0, 0⟩
    let go := Instr.lsmode ⟨12, 0⟩
    let s := mach .comp go
    Ready .comp stay ∧ bankMode ((mach .comp stay).core 0) 0 = 0 ∧ (s.core 0).switch = none
    ∧ Ready .comp go ∧ bankMode (s.core 0) 12 ≠ 0
    ∧ modeRefused (acts s (issue .comp go) grp).s 0 (acts s (issue .comp go) grp).g 12 = none
    ∧ (let t := s.setCore 0 fun k => { k with switch := some (12, 0) }
       (t.core 0).switch = some (12, 0) ∧ modeReady t 0 12 = true ∧ 12 < (t.core 0).modes.length
         ∧ ∀ p ∈ t.groups, ∀ x ∈ p.2.accs, x.inBanks 0 12 1 = false) := by decide +kernel

/-! ### Witnesses: accesses in flight, barriers, events, counters, copies -/

/-- A group with one access in flight. -/
def withAcc (x : Access) (g : Group) : Group := { g with accs := [x] }

/-- A store, an ldq and an lda in flight. -/
theorem witness_AccessesComplete :
    let st : Access := { id := 7, issue := 0, lane := 3, kind := .store [1, 2, 3, 4], order := 0, scope := 0, va := 0x4007C, size := 4, pieces := [(0x4007C, 4)] }
    let ld : Access := { id := 8, issue := 0, lane := 15, kind := .loadQ, order := 0, scope := 0, va := 0x40000, size := 16, pieces := [(0x40000, 16)], performed := true, value := 5 }
    let la : Access := { ld with kind := .loadA 31, size := 8, pieces := [(0x40000, 8)] }
    let sb : Access := { st with pieces := [(bankPlace 0 0xC0000, 4)], va := coreWindow + 0xC0000 }
    let s := mach .addr .nop (withAcc st)
    let full := fun g : Group => { withAcc ld g with threads := g.threads.map fun t => { t with qld := List.replicate 12 0 } }
    (grp (withAcc st)).accs.find? (fun x => x.id = 7) = some st ∧ mayPerform [st] st = true ∧ st.releases = false
    ∧ st.todo = none ∧ st.scope = 0 ∧ isBankPlace 0x4007C = false ∧ normPA s 0x4007C = 0x4007C ∧ 0x4007C % 128 + 4 ≤ 128
    ∧ mayPerform [sb] sb = true ∧ accessPoison s 0 (scopeLevel sb.scope (pairOf s (grp (withAcc sb)))) false sb.pieces = none
    ∧ accessPoison s (grp (withAcc st)).core (scopeLevel st.scope (pairOf s (grp (withAcc st)))) false st.pieces = none
    ∧ ld.owed = 4 ∧ (grp full).oldestOwed 15 8 = true ∧ ((grp full).thread 15).qld.length + ld.owed ≤ 16 ∧ 15 < (grp full).threads.length
    ∧ ctxAway (mach .addr .nop full) (grp full).ctx = false ∧ (grp full).status ≠ .parked
    ∧ la.kind = .loadA 31 ∧ la.performed = true ∧ (grp (withAcc la)).arrivals = []
    ∧ teamMeets (mach .addr .nop (withAcc la)) (grp (withAcc la)).team = [] := by decide +kernel

/-- The barrier at the start of bank 12 of core 0, initialised for this tree, with counts of arrivals and sectors pending. -/
def withBar (arrivals sectors : Nat) (s : State) : State := putBar s 0 0xC0000 ⟨2 ^ 31, sectors, 0, 1, arrivals, 0⟩

/-- Steps that complete a phase, that do not, and that leave the range of a count; each barrier instruction on a barrier of its own
tree, and the two answers of tbwait. -/
theorem witness_BarrierResults :
    let b : Bar := ⟨2 ^ 31, 2 ^ 32 - 1, 0, 1, 1, 15⟩
    let f := fun g : Group => withA 2 (fun _ => 3) (withA 1 (fun _ => coreWindow + 0xC0000) g)
    let a := fun (i : Instr) (m k : Nat) => acts (mach .addr i f (withBar m k)) (issue .addr i) (grp f)
    (b.sectors + 0 < 2 ^ 32 ∧ 1 ≤ b.arrivals ∧ 2 ^ 32 - 1 ≤ b.sectors + 0) ∧ 2 ^ 32 ≤ b.sectors + 1 ∧ b.arrivals < 2 ∧ b.sectors + 0 < 2 ^ 32
    ∧ (∀ i ∈ [Instr.tbarv ⟨1, 1⟩, .tbarvLanes ⟨1⟩, .tbexp ⟨1, 2⟩, .tbexpArv ⟨1, 2⟩, .tbinit ⟨1, 2⟩, .tbwait ⟨1, 2, 3⟩],
        Ready .addr i f (withBar 1 0) ∧ (a i 1 0).barrier (coreWindow + 0xC0000) true = .ok (0, 0xC0000))
    ∧ (a (.tbinit ⟨1, 2⟩) 1 0).barrier (coreWindow + 0xC0000) false = .ok (0, 0xC0000)
    ∧ (let bar := barAt (a .nop 1 0).s 0 0xC0000
       (bar.step { arrive := 1 }).2 = 0 ∧ (bar.step { arrive := 2 }).2 = 1 ∧ (bar.step { expect := 3, arrive := 1 }).2 = 0
         ∧ bar.phase ≠ 3 ∧ bar.phase = 0)
    ∧ (barAt (a .nop 1 (2 ^ 32 - 1)).s 0 0xC0000).step { expect := 1 } = (⟨2 ^ 31, 2 ^ 32 - 1, 0, 1, 1, 16⟩, 2)
    ∧ (grp f).accs = [] ∧ CanTrap .addr (grp f) (upTo 16) (fun _ => ⟨0x180, coreWindow + 0xC0000, 1⟩) := by
  simp only [CanTrap]; decide +kernel

/-- An event that is set and one that is not; a waiter whose overflow count has run out. -/
theorem witness_EventResults :
    let w := Instr.evwait ⟨1, 6⟩
    let e : Entry := { id := 5, pc := placePC, members := upTo 16, block := .event 0 0 (some 0) }
    let h := fun g : Group => { g with frA := { hw := [e] } }
    let set := fun s : State => { s with events := [{ ctx := 0, name := 0, state := true }] }
    (∀ i ∈ [Instr.evset ⟨1, 6⟩, .evclr ⟨1⟩, .evtest ⟨1, 2, 0⟩, w], Ready .addr i) ∧ grp.accs = []
    ∧ ((mach .addr w).ctx? 0).isSome ∧ eventState (mach .addr w) 0 0 = false ∧ eventState (mach .addr w id set) 0 0 = true
    ∧ (grp h).entry? .addr 5 = some e ∧ ctxRuns (mach .addr w h set) 0 = true := by decide +kernel

/-- A group that has the one operation `o`. -/
def withOp (o : Op) (g : Group) : Group := { g with ops := [o], seqs := [1, 1, 1, 1, 1, 1] }

/-- A counter above, at and below the bound, and a failure that lane 3 is told of. -/
theorem witness_CwaitResults :
    let i := Instr.cwait ⟨0, 0, 1⟩
    let o : Op := { id := 4, cls := 0, seq := 0, stamp := 0, lane := 3, core := 0, kind := .cpl [] 16 0 false }
    let c : Cause := ⟨0x0A2, 1, 2⟩
    let open_ := withOp o
    let bad := withOp { o with ended := true, failed := some c }
    Ready .addr i open_ ∧ 0 < (grp open_).count 0 ∧ Ready .addr i ∧ grp.count 0 ≤ 0 ∧ grp.failure 0 0 = none
    ∧ Ready .addr i bad ∧ (grp bad).count 0 ≤ 0 ∧ (grp bad).failure 0 0 = some { o with ended := true, failed := some c }
    ∧ CanTrap .addr (grp bad) [3] (fun _ => c) := by
  simp only [CanTrap]; decide +kernel

/-- A request block: 64 bytes of one row from 0x40000 to 0x50000. -/
def blk : Nat := 0x40000 + 0x50000 * 2 ^ 64 + 64 * 2 ^ 256 + 2 ^ 280 + 2 ^ 296

/-- A machine with request block `x` at the start of bank 12. -/
def withBlk (x : Nat) (s : State) : State := lsWrite s 0 0xC0000 (bytesOfNat x 64)

/-- The blocks that a read of them answers. -/
def blocksOf (r : State × Got (List (Nat × Option Desc))) : Option (List (Nat × Option Desc)) :=
  match r.2 with
  | .ok bs => some bs
  | _ => none

theorem witness_CopiesIssue :
    let f := fun g : Group => withA 2 (fun l => 0x40000 + 16 * l) (withA 1 (fun l => 0x50000 + 16 * l) g)
    let h := fun g : Group => withA 3 (fun _ => coreWindow + 0xC0000) (f g)
    let k := fun g : Group => withA 1 (fun _ => coreWindow + 0xC0000) g
    let i := Instr.cpl ⟨1, 2, false, 0, 2⟩
    let j := Instr.cpl ⟨1, 2, true, 3, 2⟩
    let a := acts (mach .addr i f) (issue .addr i) (grp f)
    let b := acts (mach .addr (.cpk ⟨1, 1⟩) k (withBlk blk)) (issue .addr (.cpk ⟨1, 1⟩)) (grp k)
    Ready .addr i f ∧ (∀ l ∈ a.lanes, cplCheck a.s a.g 4 (0x40000 + 16 * l) 16 = none ∧ cplCheck a.s a.g 5 (0x50000 + 16 * l) 16 = none)
    ∧ (grp f).count 0 < 63 ∧ Ready .addr j h (withBar 1 0)
    ∧ engineBarrier (mach .addr j h (withBar 1 0)) (grp h).who 0 0xC0000 (coreWindow + 0xC0000) = .ok (0, 0xC0000)
    ∧ ((barAt (mach .addr j h (withBar 1 0)) 0 0xC0000).step { expect := 16, arrive := 1 }).2 = 0
    ∧ Ready .addr (.cpk ⟨1, 1⟩) k (withBlk blk)
    ∧ blocksOf (getBlocks b.s b.g .addr b.lanes b.nol1 (coreWindow + 0xC0000) 1) = some [(blk, none)] ∧ blkFlag blk 368 = false
    ∧ (let v : BitVec 64 := 0x10C0000#64
       v.extractLsb' 0 6 = 0#6 ∧ v.extractLsb' 22 2 = 0#2 ∧ v.extractLsb' 30 34 = 0#34 ∧ v.extractLsb' 24 6 = 1#6
         ∧ (v.extractLsb' 0 22).toNat = 0xC0000
         ∧ blocksOf (getBlocks (mach .addr .nop k (withBlk blk)) (grp k) .addr [15] false (coreWindow + 0xC0000) 1) = some [(blk, none)]) := by
  decide +kernel

/-- Two blocks that step one barrier, with an arrival each and the 2 sectors of each expected; a copy to bank 13. -/
theorem witness_CopiesIssue_barriers :
    let x := blk - 0x50000 * 2 ^ 64 + (coreWindow + 0xD0000) * 2 ^ 64 + 0xC8000 * 2 ^ 320 + 7 * 2 ^ 368
    let k := fun g : Group => withA 1 (fun _ => coreWindow + 0xC0000) g
    let h := fun s : State => putBar (lsWrite (withBlk x s) 0 0xC0040 (bytesOfNat x 64)) 0 0xC8000 ⟨2 ^ 31, 0, 0, 2, 2, 0⟩
    let i := Instr.cpk ⟨1, 2⟩
    let a := acts (mach .addr i k h) (issue .addr i) (grp k)
    let r := getBlocks a.s a.g .addr a.lanes a.nol1 (coreWindow + 0xC0000) 2
    let bs : List (Nat × Option Desc) := [(x, none), (x, none)]
    let p := (0, 0xC8000)
    let st : BarStep := { expect := 2, arrive := 1 }
    Ready .addr i k h ∧ blocksOf r = some bs ∧ blkFlag x 368 = true
    ∧ (barrierCores x 0).map (fun c => engineBarrier r.1 (grp k).who c (blkBarrier x) (coreWindow + blkBarrier x)) = [.ok p]
    ∧ blockItems x = 2 ∧ ((barAt r.1 0 0xC8000).step st).2 = 0 ∧ (((barAt r.1 0 0xC8000).step st).1.step st).2 = 0
    ∧ blocksOf (getBlocks (mach .addr .nop k h) (grp k) .addr [15] false (coreWindow + 0xC0000) 2) = some bs
    ∧ (0x20C0000#64).extractLsb' 24 6 = 2#6 := by
  dsimp only; (repeat' apply And.intro) <;> decide +kernel

/-- A cpl, a copy and a prefetch in progress, each with more than one item to go. -/
theorem witness_CopyItemsLand :
    let o : Op := { id := 4, cls := 0, seq := 0, stamp := 0, lane := 0, core := 0, count := 2, kind := .copy blk 0 0 0 0 }
    let c : Op := { o with kind := .cpl [(0, 0x50000, 0x40000), (15, 0x50010, 0x40010)] 16 0 false }
    let p : Op := { o with cls := 3, kind := .pft 0x40000 2 2 0 false }
    let s := fun x => mach .addr .nop (withOp x)
    let w := { grp.who with core := 0 }
    (∀ x ∈ [o, c, p], heldOp (s x) (.ofGroup 0 4) = some (x, w) ∧ heldMay (s x) (.ofGroup 0 4) x w = true)
    ∧ laneReady (s c) (.ofGroup 0 4) c 15 = true
    ∧ (∀ i ∈ [(0, 0x50000, 0x40000), (15, 0x50010, 0x40010)], cplFault (s c) w 16 i = none ∧ (i.1 < 15 → runsMeet 16 i.2.1 0x50010 = false))
    ∧ (engineRun (s c) w 5 0x50010 16).toOption.map (·.1) = some [(.home 0x50010, 16)]
    ∧ (engineRead (s c) w 0x40010 16).toOption.isSome = true
    ∧ (itemBytes (s o) w blk 0 0 0 32 0).toOption.map (·.1.length) = some 32
    ∧ (targetSpots (s o) w blk (addrPlus (blkDest blk) 0)).toOption.map (·.1) = some [.home 0x50000]
    ∧ (engineSpot (s p) w 4 0x40000).toOption.map (·.1) = some (.home 0x40000) ∧ tierOf 0x40000 = .hbm := by decide +kernel

theorem witness_CopyItemsLand_prefetch :
    let f := fun g : Group => withA 1 (fun _ => 0x40000) g
    let i := Instr.pft ⟨1, 0, 2, 1023⟩
    let a := acts (mach .addr i f) (issue .addr i) (grp f)
    Ready .addr i f ∧ pftCause a.s (grp f) 0x40000 (4096 * 1024) 2 0 = none
    ∧ (match (pftReach a.s a.g .addr a.lanes 0x40000 2 0).2 with
      | .ok _ => true
      | _ => false) = true
    ∧ (grp f).count 3 < 63 := by decide +kernel

/-! ### Witnesses: lanes, rendezvous, tiles -/

/-- The mask of lanes 0 to 15 in scalars 80 and 81. -/
def withMask (g : Group) : Group := { g with regs := [(sCode 80, 0xFFFF)] }

theorem witness_LaneResults :
    (∀ i ∈ [Instr.shfl ⟨3, 1, 2, 80⟩, .vote ⟨4, 1, 2, 80⟩, .redux ⟨6, 1, 2, 80⟩, .scan ⟨0, 1, 2, 80⟩, .redux ⟨7, 1, 2, 80⟩, .scan ⟨7, 1, 2, 80⟩],
        Ready .comp i withMask ∧ decodeOp (wordOf i) = some i ∧ (laneCodes i (upTo 16)).all (grp withMask).isFull = true)
    ∧ (let s := mach .comp .nop withMask
       lanesOfMask (sNow s (grp withMask) 81 ++ sNow s (grp withMask) 80) = upTo 16)
    ∧ (grp withMask).arrivals = [] ∧ ∀ l ∈ upTo 16, l < (grp withMask).width ∧ ((grp withMask).thread l).comp.ended = false := by
  decide +kernel

/-- Another group of the team, which waits at slot 31 to send (`tx`) or to receive a run of length 2 at v127 or v126. -/
def other (tx : Bool) (w : Nat) : Group :=
  { grp with core := 0, frC := { hw := [{ id := 3, pc := placePC, members := upTo 16, block := .rendezvous tx 31 0 126 w (upTo 16) }] } }

/-- A machine with the other group beside it. -/
def withOther (tx : Bool) (w : Nat) (s : State) : State :=
  { s with groups := s.groups ++ [(1, other tx w)], teams := [(0, { groups := [0, 1], core := some 0 })] }

theorem witness_RendezvousResults :
    let i := Instr.xsend ⟨1, 2, 31, false⟩
    let j := Instr.xrecv ⟨1, 2, 31⟩
    let ms := fun (tx : Bool) (w : Nat) (i : Instr) => teamMeets (mach .comp i id (withOther tx w)) 0
    Ready .comp i id (withOther false 1) ∧ Ready .comp j id (withOther true 1) ∧ Ready .comp i ∧ Ready .comp j
    ∧ (firstMeet (ms false 1 i) false 31).map (fun m => (m.gk, m.w, m.reg, m.lanes)) = some (1, 1, 126, upTo 16)
    ∧ (firstMeet (ms false 0 i) false 31).map (·.w) = some 0 ∧ firstMeet (ms false 1 i) true 31 = none
    ∧ (firstMeet (ms true 1 j) true 31).map (fun m => (m.gk, m.w)) = some (1, 1) ∧ firstMeet (ms true 1 j) false 31 = none
    ∧ (∀ m ∈ ms true 1 j, (meetCodes m (upTo 16)).all (other true 1).isFull = true)
    ∧ (∀ m ∈ ms false 1 i, m.slot = 31) ∧ (∀ m ∈ ms true 1 j, m.slot = 31)
    ∧ teamMeets (mach .comp i) 0 = [] ∧ (upTo 16).Nodup ∧ CanTrap .comp (other false 0) (upTo 16) (fun _ => ⟨0x064, 0, 0⟩) := by
  dsimp only [CanTrap]; (repeat' apply And.intro) <;> decide +kernel

/-- Core 0 with slots 0 to 63 claimed by group 0, those below `n` full with a tile of bf16 zeros. -/
def withSlots (n : Nat) (s : State) : State :=
  s.setCore 0 fun k => { k with slots := (upTo 64).map fun i =>
    (i, { state := if i < n then 2 else 1, owner := 0,
          tile := if i < n then some (tileOf { blank with fmt := 1 } 0 {}) else none }) }
where
  blank : Desc := descOf 0 0

theorem witness_SlotResults :
    let i := Instr.tsclaim ⟨63, 0⟩
    let j := Instr.tsrel ⟨63, 0⟩
    Ready .addr i ∧ (∀ k ∈ upTo 64, (slotOf (mach .addr i) 0 k).state = 0)
    ∧ Ready .addr i id (withSlots 0) ∧ (slotOf (mach .addr i id (withSlots 0)) 0 0).state ≠ 0
    ∧ Ready .addr j id (withSlots 0) ∧ (∀ k ∈ upTo 64, (slotOf (mach .addr j id (withSlots 0)) 0 k).owner = 0)
    ∧ grp.ops = [] ∧ Ready .addr j ∧ CanTrap .addr grp (upTo 16) (fun _ => ⟨0x142, 0, 0⟩)
    ∧ CanTrap .addr grp (upTo 16) (fun _ => ⟨0x141, 0, 0⟩) := by
  simp only [CanTrap]; decide +kernel

/-- A descriptor of 512 fp32 elements: its entries at 0x80000, its data at 0x70000. -/
def descWord : Nat := 0x70000 + 0x80000 * 2 ^ 64 + 512 * 2 ^ 128 + 1 * 2 ^ 256

/-- Memory with that descriptor at 0x60000, and ZERO entries for both of its tiles. -/
def withDesc (s : State) : State :=
  let es := (IndexEntry.bytes { offset := 0 }) ++ (IndexEntry.bytes { offset := 64 })
  { s with mem := putSome (putSome s.mem 0x60000 (bytesOfNat descWord 64)) 0x80000 es }

/-- The descriptor. -/
def desc : Desc := descOf 0x60000 descWord

/-- What a read answers. -/
def gotOk {α : Type} (r : State × Got α) : Option α :=
  match r.2 with
  | .ok x => some x
  | _ => none

theorem witness_TileCommandsAccepted :
    let f := fun g : Group => withA 2 (fun _ => 0) (withA 1 (fun _ => 0x60000) g)
    let h := fun s : State => withSlots 0 (withDesc s)
    let i := Instr.tload ⟨1, 2, false, 1, 62⟩
    let a := acts (mach .addr i f h) (issue .addr i) (grp f)
    (∀ j ∈ [i, .ldt ⟨3, 2, 1, 0⟩, .stt ⟨2, 2, 1, 0⟩], Ready .addr j f h)
    ∧ (∀ n ∈ [1, 4, 8], gotOk (descGet a.s a.g .addr a.lanes a.nol1 0x60000 n) = some desc) ∧ desc.vkind ≠ 2
    ∧ tileRegion (descGet a.s a.g .addr a.lanes a.nol1 0x60000).1 a.g.who desc 0 false = some false
    ∧ tileRegion (descGet a.s a.g .addr a.lanes a.nol1 0x60000).1 a.g.who desc 0 true = some false
    ∧ tloadCoords a ⟨1, 2, false, 1, 62⟩ = .ok [0, 1] ∧ tloadRange desc ⟨1, 2, false, 1, 62⟩ 0 [0, 1] = none
    ∧ (∀ k ∈ [0, 1], slotMine a.s a.g.core 0 (62 + k) = true) ∧ coordCause desc 0 = none ∧ (grp f).count 1 < 63 ∧ a.tileDone = false := by decide +kernel

/-- An ldt whose index entries lie on no mapped page, while a memory region exists; and an ldt and an stt that such a wait has opened again. -/
def farWord : Nat := descWord + 2 ^ 30 * 2 ^ 64
def withFar (s : State) : State :=
  { s with mem := putSome s.mem 0x60000 (bytesOfNat farWord 64), regions := [(1, { tdi := 1, base := 0x2000000, len := 0x10000 })] }

theorem witness_TileCommandsAccepted_pages :
    let f := fun g : Group => withA 2 (fun _ => 0) (withA 1 (fun _ => 0x60000) g)
    let i := Instr.ldt ⟨3, 2, 1, 0⟩
    let a := acts (mach .addr i f withFar) (issue .addr i) (grp f)
    let waited := fun (i : Instr) => { issue .addr i with entry := { (issue .addr i).entry with block := .tile 4 } }
    let at_ := fun (i : Instr) => { mach .addr i f withFar with cur := some (waited i) }
    Ready .addr i f withFar ∧ gotOk (descGet a.s a.g .addr a.lanes a.nol1 0x60000 8) = some (descOf 0x60000 farWord)
    ∧ coordCause (descOf 0x60000 farWord) 0 = none ∧ a.tileDone = false
    ∧ tileRegion (descGet a.s a.g .addr a.lanes a.nol1 0x60000 8).1 a.g.who (descOf 0x60000 farWord) 0 false = none
    ∧ (∀ j ∈ [i, .stt ⟨2, 2, 1, 0⟩], Runs j (at_ j) (waited j) (grp f) ∧ (acts (at_ j) (waited j) (grp f)).tileDone = true) := by
  decide +kernel

/-! ### Witnesses: the matrix engine and the tile engines -/

/-- Whether a computation succeeds. -/
def succeeds {α : Type} (x : Except Stop α) : Bool :=
  match x with
  | .ok _ => true
  | .error _ => false

/-- A product of one tile by one tile into accumulator tile 7 at row 112 and column 48; a top-k pass of 127 rows and 64 columns; an
attention pass over 32 tokens with handles 1 and 2. -/
def product (op : Nat) : Nat := op + 7 * 2 ^ 16 + 112 * 2 ^ 24 + 48 * 2 ^ 32 + 2 ^ 40 + 2 ^ 44 + 2 ^ 48 + 1 * 2 ^ 64
def topk : Nat := 2 + 7 * 2 ^ 16 + 127 * 2 ^ 72 + 64 * 2 ^ 80 + 4 * 2 ^ 88 + 1 * 2 ^ 96
def attend : Nat := 3 + 2 ^ 40 + 2 ^ 44 + 32 * 2 ^ 256 + 2 * 2 ^ 320 + 1 * 2 ^ 352 + 0x60000 * 2 ^ 384 + 0x60040 * 2 ^ 448

/-- A descriptor of one column of 16-element rows in bf16, as an attention pass names. -/
def seqDesc : Nat := 0x70000 + 0x80000 * 2 ^ 64 + 16 * 2 ^ 128 + 64 * 2 ^ 160 + 2 * 2 ^ 256 + 1 * 2 ^ 260 + 1 * 2 ^ 264

/-- A context with a sequence table at 0x100000 and a pool at 0x200000; handles 1 and 2 hold 64 tokens of one sealed page each, all ZERO tiles,
and handle 3 an open page. -/
def rec1 (base : Nat) : KvRec := { len := 64, fmt := 1, dt := 1, exts := [⟨3, 1, base⟩] }
def withKv (s : State) : State :=
  let page := fun (m : List Host.Cell) (a : Nat) => putSome m a ((upTo 4).flatMap fun i => IndexEntry.bytes { offset := 64 * i })
  let put := fun (m : List Host.Cell) (h : Nat) (r : KvRec) => putSome m (0x100000 + 256 * h) (bytesOfNat r.value 256)
  let m := put (put (put s.mem 1 (rec1 0x200000)) 2 (rec1 0x208000)) 3 { rec1 0x210000 with opn := true }
  let m := putSome (putSome m 0x60000 (bytesOfNat seqDesc 64)) 0x60040 (bytesOfNat seqDesc 64)
  { s with mem := page (page (page m 0x200000) 0x208000) 0x210000,
           ctxs := SMap.modify s.ctxs 0 fun c =>
             { c with seqBase := 0x100000, seqLog := 3, poolBase := 0x200000, poolSize := 0x100000,
                      slotSizes := [(0x200, 8), (0x208, 8), (0x210, 8)], slotRefs := [(0x200, 1), (0x208, 1), (0x210, 1)] } }

theorem witness_MatrixCommandsAccepted :
    let f := fun g : Group => withA 2 (fun _ => 112 + 2 ^ 8 * 63) (withA 1 (fun _ => coreWindow + 0xC0000) g)
    let h := fun (x : Nat) (s : State) => withBlk x (withSlots 2 (withKv s))
    let m := fun (i : Instr) (x : Nat) => acts (mach .addr i f (h x)) (issue .addr i) (grp f)
    let bytes := fun (x : Nat) => (localBytes (m (.mma ⟨1⟩) x).s (grp f) (coreWindow + 0xC0000) 64 64).toOption
    (Ready .addr (.mma ⟨1⟩) f (h (product 0)) ∧ Ready .addr (.mdist ⟨1⟩) f (h (product 1)) ∧ Ready .addr (.mtopk ⟨1⟩) f (h topk)
      ∧ Ready .addr (.mattn ⟨1⟩) f (h attend) ∧ Ready .addr (.macz ⟨7⟩) f ∧ Ready .addr (.macrd ⟨2, 0, 0, 7, 5⟩) f)
    ∧ (∀ x ∈ [(0, product 0), (1, product 1), (2, topk), (3, attend)], bytes x.2 = some (bytesOfNat x.2 64)
        ∧ matCause (m (.mma ⟨1⟩) x.2).s 0 0 x.1 (coreWindow + 0xC0000) x.2 = none)
    ∧ (let a := m (.mattn ⟨1⟩) attend
       let d := descOf 0x60000 seqDesc
       let e := descOf 0x60040 seqDesc
       gotOk (descGet a.s a.g .addr a.lanes a.nol1 (matD1 attend)) = some d
         ∧ gotOk (descGet (descGet a.s a.g .addr a.lanes a.nol1 (matD1 attend)).1 a.g .addr a.lanes a.nol1 0x60040) = some e ∧ d.vkind = 0
         ∧ d.ext.getD 0 0 = 16 * matNT attend
         ∧ succeeds (do let (u, _) ← attnHandle a.s a.g.who attend 1 d; attnHandle u a.g.who attend 2 e))
    ∧ (grp f).bankPending 0 = [] ∧ (grp f).count 2 < 63 ∧ matBegun (mach .addr (.macz ⟨7⟩) f) 0 = false ∧ (grp f).ops = []
    ∧ (∀ l ∈ upTo 16, (macrdPlace 0 112 63 0 1 0 l).isSome = true) := by
  dsimp only; (repeat' apply And.intro) <;> decide +kernel

/-- Words of an ldt to deliver, and an stt whose members have values. -/
theorem witness_TileRegistersMove :
    let o : Op := { id := 4, cls := 1, seq := 0, stamp := 0, lane := 0, core := 0, kind := .ldt desc 0 false [0, 15] (some [(0, [1]), (15, [2, 3])]) }
    let p : Op := { o with kind := .stt desc 0 (upTo 16) [], next := 15 }
    let e : Entry := { id := 5, pc := placePC, members := upTo 16, block := .stt 4 }
    let g := fun g : Group => { withOp p g with frA := { hw := [e] }, threads := g.threads.map fun t => { t with qsd := [9] } }
    (grp (withOp o)).op? 4 = some o ∧ o.ldtWords? = some [(0, [1]), (15, [2, 3])] ∧ ctxAway (mach .addr .nop (withOp o)) 0 = false
    ∧ ([(0, [1]), (15, [2, 3])].map (·.1) : List Nat).Nodup ∧ 15 < (grp (withOp o)).threads.length
    ∧ (grp g).op? 4 = some p ∧ (grp g).sttEntry 4 = some e ∧ (grp g).status = .resident ∧ ctxRuns (mach .addr .nop g) 0 = true
    ∧ (upTo 16).Nodup ∧ (∀ l ∈ upTo 16, l < (grp g).threads.length ∧ l < (grp g).width ∧ ((grp g).thread l).qsd ≠ [])
    ∧ 256 ≤ (grp g).width * (p.next + 1)
    ∧ streamRegion (mach .addr .nop g withDesc) (grp g).who desc 0 ((grp g).sttValues p (upTo 16) []) = some false := by decide +kernel

/-- A tload, an ldt and a decode copy at their ports; an stt whose values are all popped, and an encode copy. -/
theorem witness_TilesAreCoded :
    let base : Op := { id := 4, cls := 1, seq := 0, stamp := 0, lane := 0, core := 0, count := 2, kind := .tload desc [0, 1] 62 }
    let dec := 0x50000 * 2 ^ 64 + 2 ^ 371
    let enc := 0x40000 + 2 ^ 372
    let ldt : Op := { base with count := 1, kind := .ldt desc 0 true (upTo 16) none }
    let dcp : Op := { base with kind := .copyTile dec desc none }
    let stt : Op := { base with kind := .stt desc 0 (upTo 16) [], next := 16 }
    let ecp : Op := { base with kind := .copyTile enc desc none }
    let s := fun o => mach .addr .nop (withOp o) withDesc
    let w := { grp.who with core := 0 }
    nextOp (s base) 0 (portTakes (s base) 0) = some (.ofGroup 0 4, base, w)
    ∧ nextOp (s ldt) 0 (portTakes (s ldt) 1) = some (.ofGroup 0 4, ldt, w)
    ∧ nextOp (s dcp) 0 (portTakes (s dcp) 1) = some (.ofGroup 0 4, dcp, w) ∧ blkCoord dec = 0
    ∧ bindTile (s base) w desc 0 .unchecked = .go (plainPlace desc 0) false
    ∧ (∀ o ∈ [base, ldt, dcp], succeeds (decodeTile (s o) w desc 0 (plainPlace desc 0)) = true)
    ∧ nextOp (s stt) 0 (encodeTakes (s stt)) = some (.ofGroup 0 4, stt, w) ∧ stt.failed = none
    ∧ nextOp (s ecp) 0 (encodeTakes (s ecp)) = some (.ofGroup 0 4, ecp, w) ∧ blkCoord enc = 0
    ∧ base.entry = none
    ∧ (match encodeTile (s stt) w desc 0 ((List.range 256).map fun _ => 0#32) (lowestSlot ((s stt).ctx? 0) desc) none 0 false (plainPlace desc 0) with
      | .ok _ => true
      | .error _ => false) = true
    ∧ (engineRead (s ecp) w (blkSource enc) 1024).toOption.map (·.1.length) = some 1024 := by
  dsimp only; (repeat' apply And.intro) <;> decide +kernel

/-- A matrix operation that the engine of core 0 takes next. -/
def matOp (k : OpKind) (next count : Nat) : Op :=
  { id := 4, cls := 2, seq := 0, stamp := 0, lane := 0, core := 0, next := next, count := count, kind := k }

theorem witness_ProductsAccumulate :
    ∀ op ∈ [0, 1], let o := matOp (.mat op 0 (product op) [] [] []) 0 1
      let s := mach .addr .nop (withOp o) (withSlots 2)
      nextOp s 0 (fun r o => matReady s r o && (o.kind.matOp = some 0 || o.kind.matOp = some 1)) = some (.ofGroup 0 4, o, grp.who)
        ∧ o.meetsError s = false ∧ productCause s 0 op 0 (product op) = none ∧ matFlag (product op) 12 = false
        ∧ matRange op (product op) = none := by decide +kernel

theorem witness_TopKKeepsTheBest :
    let o := matOp (.mat 2 0 topk [] [] []) 0 1
    let s := mach .addr .nop (withOp o)
    nextOp s 0 (fun r o => matReady s r o && o.kind.matOp = some 2) = some (.ofGroup 0 4, o, grp.who) ∧ o.meetsError s = false
    ∧ matD1 topk = 0 ∧ matBreaches 2 topk = [] ∧ matRange 2 topk = none := by decide +kernel

/-- The first move, a move that completes a token tile, and the last move of a pass. -/
theorem witness_AttentionSteps :
    let d := descOf 0x60000 seqDesc
    let x := attend + 32 * 2 ^ 256 + 2 ^ 8
    let t := tileOf d 0 {}
    let o := fun (next : Nat) (staged : List Tile) => { matOp (.mat 3 0 x [d, d] [[0x200], [0x208]] []) next 4 with staged := staged }
    let s := fun o => mach .addr .nop (withOp o) fun s => withSlots 1 (withKv s)
    (∀ y ∈ [o 0 [], o 1 [t], o 3 [t]],
      nextOp (s y) 0 (fun r o => matReady (s y) r o && o.kind.matOp = some 3) = some (.ofGroup 0 4, y, grp.who)
        ∧ y.meetsError (s y) = false ∧ productCause (s y) 0 3 0 x = none ∧ portFirst (s y) y = false ∧ y.staged.length < 2 * matNT x)
    ∧ matNT x = 1 ∧ matFlag x 8 = true
    ∧ succeeds ((stageTile (setAccTile (s (o 0 [])) 0 (matAC x) fun _ => (attnStart (s (o 0 [])) (o 0 []) x).1) grp.who d [0x200] 1
        (16 * (matX3 x / 16)) 0 none).mapError (·.1)) = true
    ∧ (∀ n ∈ [1, 3], succeeds ((stageTile (s (o n [t])) grp.who d [0x208] 1 (16 * (matX3 x / 16 + n)) 0 none).mapError (·.1)) = true) := by
  dsimp only; (repeat' apply And.intro) <;> decide +kernel

theorem witness_AccumulatorsAreRead :
    let o := matOp (.macrd [0, 15] 5 2 7 0 127 0 0) 0 1
    let s := mach .addr .nop (withOp o)
    nextOp s 0 (fun r o => matReady s r o && (match o.kind with
      | .macrd .. => true
      | _ => false)) = some (.ofGroup 0 4, o, grp.who)
    ∧ (accOf s 0 7).bad = false ∧ (grp (withOp o)).arrivals = [] ∧ teamMeets s 0 = [] ∧ (grp (withOp o)).status = .resident
    ∧ (∀ p ∈ (grp (withOp o)).ops, p.failed = none)
    ∧ ((s.setCore 0 fun k => { k with proofs := [(0, [1])] }).core 0).proofs = [(0, [1])] := by decide +kernel

/-! ### Witnesses: code tables, sequences, views, segments -/

/-- A machine with bytes at an address. -/
def withBytes (va : Nat) (bs : List Byte) (s : State) : State := { s with mem := putSome s.mem va bs }

/-- A code table of two symbols of one bit, and one of three. -/
def goodTable : List Byte := bytesOfNat (2 + 2 ^ 16) 8 ++ [0x11#8]
def badTable : List Byte := bytesOfNat (3 + 2 ^ 16) 8 ++ [0x11#8, 0x01#8]

theorem witness_CodeTableResults :
    let f := withA 1 fun _ => 0x60000
    let i := Instr.ctload ⟨1, 15⟩
    let reads := fun (bs : List Byte) =>
      let a := acts (mach .addr i f (withBytes 0x60000 bs)) (issue .addr i) (grp f)
      let r := plainGet a.s a.g .addr (upTo 16) a.nol1 0x60000 8
      (gotOk r, gotOk (plainGet r.1 a.g .addr (upTo 16) a.nol1 0x60000 bs.length))
    (∀ bs ∈ [goodTable, badTable], Ready .addr i f (withBytes 0x60000 bs) ∧ reads bs = (some (bs.take 8), some bs))
    ∧ tableHeader (natOfBytes (goodTable.take 8)) = some (2, 1) ∧ goodTable.length = 8 + (2 + 1) / 2
    ∧ tableHeader (natOfBytes (badTable.take 8)) = some (3, 1) ∧ badTable.length = 8 + (3 + 1) / 2
    ∧ (parseTable goodTable).toOption = some [1, 1, 1] ∧ parseTable badTable = .error 3
    ∧ CanTrap .addr (grp f) (upTo 16) (fun _ => ⟨0x160, 0x60000, 3⟩)
    ∧ Ready .addr i f ∧ tableHeader 0 = none
    ∧ (let a := acts (mach .addr i f) (issue .addr i) (grp f)
       gotOk (plainGet a.s a.g .addr a.lanes a.nol1 0x60000 8) = some (List.replicate 8 0#8))
    ∧ CanTrap .addr (grp f) (upTo 16) (fun _ => ⟨0x160, 0x60000, 1⟩)
    ∧ Ready .addr (.ctinv ⟨15⟩) := by
  dsimp only [CanTrap]; (repeat' apply And.intro) <;> decide +kernel

/-- The operands of an extent instruction: the template at 0xC0000 of the core window, a token, two handles. -/
def withExt (token h p : Nat) (g : Group) : Group :=
  withA 4 (fun _ => p) (withA 3 (fun _ => h) (withA 2 (fun _ => token) (withA 1 (fun _ => coreWindow + 0xC0000) g)))

/-- The machine of sequences, with a template at the start of bank 12 and, for the open page of handle 3, 63 tokens. -/
def withSeq (s : State) : State :=
  withBlk (seqDesc % 2 ^ 160 + 64 * 2 ^ 160 + seqDesc / 2 ^ 256 * 2 ^ 256) (withBytes 0x100300 (bytesOfNat { rec1 0x210000 with opn := true, len := 63 }.value 256) (withKv s))

/-- What an extent instruction works on. -/
def seqState (i : Instr) (f : Group → Group) : State :=
  let a := acts (mach .addr i f withSeq) (issue .addr i) (grp f)
  l1Invalidate (l1WriteBack a.s 0) 0

/-- The group, its who and the machine of the witnesses below. -/
def seqF : Group → Group := withExt 63 1 2
def seqW : Who := grp.who
def seqS : State := seqState (.xlfree ⟨3⟩) seqF

theorem witness_ExtentResults :
    (∀ i ∈ [Instr.xlmapNew ⟨1, 5⟩, .xlmapRd ⟨1, 2, 5, 3⟩, .xlfork ⟨3, 5⟩, .xlfree ⟨3⟩, .xlfreeAccept ⟨3, 4⟩, .xlseal ⟨3⟩],
      Ready .addr i seqF withSeq)
    ∧ Ready .addr (.xlmapWr ⟨1, 2, 5, 3⟩) (withExt 63 3 3) withSeq ∧ Ready .addr (.xlseal ⟨3⟩) (withExt 63 3 3) withSeq
    ∧ Ready .addr (.xlpfx ⟨1, 2, 5, 3⟩) (withExt 64 1 2) withSeq ∧ ∀ y ∈ (grp seqF).accs, y.performed = true := by decide +kernel

/-- A handle is made. -/
theorem witness_ExtentResults_new :
    succeeds (do
      let x ← getTemplate seqS (grp seqF) (coreWindow + 0xC0000) none
      let (k, u) ← freeHandle seqS seqW
      putRec u seqW k (some { len := 0, fmt := x / 2 ^ 264 % 16, dt := x / 2 ^ 128 % 2 ^ 32 / 16 })) = true := by decide +kernel

/-- Token 63 of handle 1 is found. -/
theorem witness_ExtentResults_rd :
    (getRec seqS seqW 1).toOption.map (·.1) = some (rec1 0x200000) ∧ pageSlot [⟨3, 1, 0x200000⟩] (63 / 64) = some 0x200000
    ∧ succeeds (do
        let (r, u) ← getRec seqS seqW 1
        let x ← getTemplate u (grp seqF) (coreWindow + 0xC0000) (some r)
        engineWrite u seqW (coreWindow + 0xC0000) (bytesOfNat (pageTemplate x 1 0x200000) 64)) = true := by decide +kernel

/-- Handle 1 is forked, freed, and accepted in place of handle 2. -/
theorem witness_ExtentResults_handles :
    succeeds (do
      let (r, u) ← getRec seqS seqW 1
      let (k, v) ← freeHandle u seqW
      putRec v seqW k (some { r with fork := true })) = true
    ∧ succeeds (do
        let (r, u) ← getRec seqS seqW 1
        let _ ← putRec u seqW 1 none
        let (_, v) ← getRec u seqW 2
        let x ← putRec v seqW 2 (some { r with fork := false })
        putRec x seqW 1 none) = true := by decide +kernel

/-- Token 63 of handle 3 is written to its open page, which has 63 tokens. -/
theorem witness_ExtentResults_wr :
    (getRec seqS seqW 3).toOption.map (·.1) = some { rec1 0x210000 with opn := true, len := 63 }
    ∧ 64 * pagesIn ({ rec1 0x210000 with opn := true } : KvRec).sealed ≤ 63
    ∧ succeeds (do
        let (r, u) ← getRec seqS seqW 3
        let x ← getTemplate u (grp seqF) (coreWindow + 0xC0000) (some r)
        let (r₁, v) ← openForWrite u seqW r
        let y ← engineWrite v seqW (coreWindow + 0xC0000) (bytesOfNat (pageTemplate x r₁.dt 0x210000) 64)
        putRec y seqW 3 (some { r₁ with len := 64 })) = true := by decide +kernel

/-- The one page of handle 1 is shared. -/
theorem witness_ExtentResults_pfx :
    cutExtents [⟨3, 1, 0x200000⟩] (64 / 64) = [⟨3, 1, 0x200000⟩]
    ∧ succeeds (do
        let (r, u) ← getRec seqS seqW 1
        let _ ← getTemplate u (grp seqF) (coreWindow + 0xC0000) (some r)
        let (k, v) ← freeHandle (kvHold u 0 (slotsNamed (cutExtents r.exts 1))) seqW
        putRec v seqW k (some { r with len := 64, fork := false, opn := false, exts := cutExtents r.exts 1 })) = true := by
  decide +kernel

/-- Bytes written, those of a run of zeros at once. -/
def putFast (m : List Host.Cell) (a : Nat) (bs : List Byte) : List Host.Cell :=
  if bs.all (· == 0#8) then m.filter fun p => !(decide (a ≤ p.1) && decide (p.1 < a + bs.length)) else putBytes m a bs

theorem putBytes_fast (m : List Host.Cell) (a : Nat) (bs : List Byte) : putBytes m a bs = putFast m a bs := by
  unfold putFast
  split
  · rename_i h
    induction bs generalizing m a with
    | nil => exact (List.filter_eq_self.mpr fun p _ => by simp; omega).symm
    | cons b bs ih =>
      simp only [List.all_cons, Bool.and_eq_true, beq_iff_eq] at h
      rw [putBytes, ih _ _ h.2, h.1, SMap.put, if_pos rfl, SMap.erase, List.filter_filter]
      congr 1; funext p; simp; grind
  · rfl

/-- A write at a spot, with its bytes so written. -/
def spotWriteFast (s : State) (c : Nat) (p : Spot) (bs : List Byte) : State :=
  match p with
  | .home pa => { writeFor s (some c) pa bs with mem := putFast s.mem (normPA s pa) bs }
  | x => spotWrite s c x bs

theorem spotWrite_fast : spotWrite = spotWriteFast := by
  funext s c p bs
  cases p with
  | home pa =>
    have h : (writeFor s (some c) pa bs).mem = putFast s.mem (normPA s pa) bs := by
      rw [← putBytes_fast, ← writeHome_mem]; rfl
    simp only [spotWrite, spotWriteFast, ← h]
  | _ => rfl

/-- The first 16 tokens of handle 1 begin in a fresh page: one tile copied as bits, and ZERO ones. -/
theorem witness_ExtentResults_part :
    let i := Instr.xlpfx ⟨1, 2, 5, 3⟩
    let f := withExt 16 1 2
    let a := acts (mach .addr i f withSeq) (issue .addr i) (grp f)
    Ready .addr i f withSeq ∧ portBusy a.s a.g.core a.arrival = false ∧ cutExtents [⟨3, 1, 0x200000⟩] (16 / 64) = []
    ∧ pageSlot [⟨3, 1, 0x200000⟩] (16 / 64) = some 0x200000
    ∧ succeeds (do
        let (r, u) ← getRec (seqState i f) seqW 1
        let x ← getTemplate u (grp f) (coreWindow + 0xC0000) (some r)
        let (k, v) ← freeHandle (kvHold u 0 []) seqW
        let (p, w) ← prefixPage v seqW (coreWindow + 0xC0000) x r 16 0x200000
        putRec w seqW k (some { r with len := 16, fork := false, opn := true, exts := [⟨3, 1, p⟩] })) = true := by
  dsimp only [prefixPage, engineWrite, spotsWrite]
  rw [spotWrite_fast]
  (repeat' apply And.intro) <;> decide +kernel

/-- Token 64 of handle 3, whose open page is full: the page is sealed and another begun. -/
theorem witness_ExtentResults_full :
    let i := Instr.xlmapWr ⟨1, 2, 5, 3⟩
    let f := withExt 64 3 3
    let h := fun s => withBytes 0x100300 (bytesOfNat { rec1 0x210000 with opn := true }.value 256) (withSeq s)
    let a := acts (mach .addr i f h) (issue .addr i) (grp f)
    Ready .addr i f h ∧ 64 = 64 * (pagesIn ({ rec1 0x210000 with opn := true } : KvRec).sealed + 1)
    ∧ succeeds (do
        let (r, u) ← getRec (l1Invalidate (l1WriteBack a.s 0) 0) seqW 3
        let x ← getTemplate u (grp f) (coreWindow + 0xC0000) (some r)
        let (r₁, v) ← sealPage u seqW 3 r
        let (r₂, w) ← openForWrite v seqW r₁
        match pageSlot r₂.exts 1 with
        | none => .error (.cause ⟨0, 0, 0⟩)
        | some slot => do
          let y ← engineWrite w seqW (coreWindow + 0xC0000) (bytesOfNat (pageTemplate x r₂.dt slot) 64)
          putRec y seqW 3 (some { r₂ with len := 65 })) = true := by
  dsimp only; (repeat' apply And.intro) <;> decide +kernel

/-- A sealing of a full open page. -/
theorem witness_ExtentResults_seal :
    let s := withBytes 0x100300 (bytesOfNat { rec1 0x210000 with opn := true }.value 256) (seqState (.xlseal ⟨3⟩) (withExt 0 3 0))
    succeeds (do
      let (r, u) ← getRec s grp.who 3
      let (r₁, v) ← sealPage u grp.who 3 r
      putRec v grp.who 3 (some r₁)) = true := by decide +kernel

/-! ### Witnesses: views, segments, spawns -/

/-- A master of two fp32 tiles, both ZERO, and its view: tile 1 of stack 0 waits for its refresh. -/
def masterWord : Nat := descWord + 1 * 2 ^ 328
def viewWord : Nat := 0x90000 + 0xA0000 * 2 ^ 64 + 512 * 2 ^ 128 + 1 * 2 ^ 256 + 2 * 2 ^ 328
def theView : View :=
  { master := descOf 0x60000 masterWord, desc := descOf 0x60080 viewWord, stride := 0, stackMask := 1, partitioned := false,
    transpose := false, slot := none }
def pending : ViewBlock := { ctx := 0, view := 0, stack := 0, tile := 1 }
def withView (s : State) : State :=
  { s with mem := putSome (putSome (putSome s.mem 0x60000 (bytesOfNat masterWord 64)) 0x60080 (bytesOfNat viewWord 64)) 0x80000
             (IndexEntry.bytes { offset := 0 } ++ IndexEntry.bytes { offset := 64 }),
           ctxs := SMap.modify s.ctxs 0 fun c => { c with views := [(0, theView)] }, refresh := [pending] }

theorem witness_ViewResults :
    Ready .addr (.vwsync ⟨0⟩) id withView ∧ (viewOf (mach .addr .nop id withView) 0 0).isSome = true ∧ (grp id).count 4 < 63
    ∧ ((mach .addr .nop id withView).refresh.filter fun b => b.ctx = 0 && b.view = 0) = [pending]
    ∧ (∀ p ∈ (mach .addr .nop id withView).groups, ∀ o ∈ p.2.ops, o.synced = false ∧ o.failed = none)
    ∧ Ready .addr (.vwsync ⟨0⟩) id (fun s => { withView s with refresh := [] }) ∧ Ready .addr (.vwstat ⟨31⟩) := by decide +kernel

/-- The view engine of cluster 0 at a refresh of that block. -/
def refreshOf (first : Option Nat) (values : Option (List Word)) (cleared : Bool) : Refresh :=
  { block := pending, view := theView, first := first, values := values, cleared := cleared }
def refreshing (r : Refresh) : State := mach .addr .nop id fun s => { withView s with refreshing := [(0, r)] }

theorem witness_ViewResults_begin :
    let s := mach .addr .nop id withView
    let r := refreshOf none none false
    let w := pending.who s
    let mp := plainPlace theView.master (masterCoord theView 1)
    SMap.find? s.refreshing 0 = none ∧ s.refresh.find? (fun b => b.stack = 0) = some pending ∧ viewOf s 0 0 = some theView
    ∧ refreshWaits (refreshing r) 0 r = false
    ∧ succeeds (do
        let (bs, u) ← tileRead (refreshing r) w theView.master mp.entry 16
        let (_, _, v) ← decodeTile (setRefresh u 0 fun _ => { r with first := some (natOfBytes bs) }) w theView.master (masterCoord theView 1) mp
        if (SMap.find? v.refreshing 0).isSome then .ok v else .error (.cause ⟨0, 0, 0⟩)) = true := by decide +kernel

/-- The master entry read again: as before, and changed. -/
theorem witness_ViewResults_check :
    let w := pending.who (mach .addr .nop)
    let mp := plainPlace theView.master (masterCoord theView 1)
    ∀ first ∈ [0, natOfBytes (IndexEntry.bytes { offset := 64 })],
        let r := refreshOf (some first) (some []) false
        refreshWaits (refreshing r) 0 r = false
          ∧ (tileRead (refreshing r) w theView.master mp.entry 16).toOption.map (fun x => (natOfBytes x.1, SMap.find? x.2.refreshing 0))
            = some (natOfBytes (IndexEntry.bytes { offset := 64 }), some r) := by decide +kernel

theorem witness_ViewResults_write :
    let zeros : List Word := (List.range 256).map fun _ => 0#32
    let r := refreshOf (some 0) (some zeros) true
    let w := pending.who (mach .addr .nop)
    let d := theView.desc
    let pl := viewPlace d theView 0 1
    refreshWaits (refreshing r) 0 r = false ∧ (match tileRead (refreshing r) w d pl.entry 16 with
      | .error _ => false
      | .ok (old, u) =>
        let units := rawUnits d.fmt
        let place := if (entryOfNat (natOfBytes old)).offset = units * 3 then units * 2 else units * 3
        match encodeTile u w d (packCoord (tileCoord d 1)) zeros none (some place) (r.gen.getD 0) true pl with
        | .error _ => false
        | .ok y => y.groups.all fun p => p.2.ops.all fun o => o.failed.isNone) = true := by decide +kernel

/-- A segment in bank 23 of a core, backed at 0x120000. -/
def segmentOf (core state attachments : Nat) : Segment :=
  { backing := 0x120000, name := 0xFFFF, tree := 0, attachments := attachments, core := core, first := 20, banks := 1, cls := 1,
    state := state }

/-- A machine with the segment at place 255. -/
def withSegment (x : Segment) (s : State) : State :=
  { s with ctxs := SMap.modify s.ctxs 0 fun c => { c with segments := [(255, x)] } }

/-- The name and the backing address of a segment. -/
def named (att : List Nat) (g : Group) : Group :=
  { withA 2 (fun _ => 0x120000) (withA 1 (fun _ => 0xFFFF) g) with attach := att }

theorem witness_SegmentResults :
    let s := mach .addr .nop (named [])
    Ready .addr (.segmk ⟨1, 2, 5, 1, 10⟩) (named []) ∧ segmkRefused s (grp (named [])) 0xFFFF 0x120000 1 10 = none
    ∧ scrRun s (fun _ => false) 0 10 = some 12 ∧ freePlace s 0 = some 0 ∧ 0 ∉ (grp (named [])).attach ∧ (s.ctx? 0).isSome = true
    ∧ Ready .addr (.segdet ⟨1⟩) (named []) ∧ segByName s 0 0xFFFF = none := by decide +kernel

/-- The segment instructions run beside a segment on core 0 or 1 that is RESIDENT, or on one that moves. -/
theorem witness_SegmentResults_attach :
    ∀ q ∈ [(0, 0, 0), (1, 0, 0), (0, 1, 0), (0, 3, 0), (0, 0, 1)],
      Ready .addr (.segatt ⟨1, 5, false, false⟩) (named []) (withSegment (segmentOf q.1 q.2.1 q.2.2))
      ∧ Ready .addr (.segdet ⟨1⟩) (named [255]) (withSegment (segmentOf q.1 q.2.1 q.2.2))
      ∧ Ready .addr (.segdrop ⟨1⟩) (named []) (withSegment (segmentOf q.1 q.2.1 q.2.2))
      ∧ Ready .addr (.segseal ⟨1⟩) (named []) (withSegment (segmentOf q.1 q.2.1 q.2.2)) := by decide +kernel

theorem witness_SegmentResults_found :
    ∀ q ∈ [(0, 0, 0), (1, 0, 0), (0, 1, 0), (0, 3, 0), (0, 0, 1)],
      let x := segmentOf q.1 q.2.1 q.2.2
      let t := mach .addr .nop (named [255]) (withSegment x)
      segByName t 0 0xFFFF = some (255, x) ∧ t.seg? 0 255 = some x ∧ x.state ≠ 4 ∧ x.dropAfter = false ∧ x.core / 2 = 0
        ∧ (grp (named [255])).bankAccesses x = [] ∧ (∀ p ∈ t.groups, ∀ a ∈ p.2.accs, a.inBanks x.core x.first x.banks = false)
        ∧ (grp (named [255])).windowCopies = [] ∧ 255 ∈ (grp (named [255])).attach ∧ x.core ≠ noCore := by decide +kernel

/-- A segseal finds a store in flight to the segment's banks. -/
theorem witness_SegmentResults_seal :
    let f := fun g : Group => { named [255] g with accs := [{ id := 7, issue := 0, lane := 3, kind := .store [1], order := 0, scope := 0, va := coreWindow + 0x140000, size := 1, pieces := [(bankPlace 0 0x140000, 1)] }] }
    Ready .addr (.segseal ⟨1⟩) f (withSegment (segmentOf 0 0 0)) ∧ (grp f).bankAccesses (segmentOf 0 0 0) = [7] := by decide +kernel

/-- A segment to evict, with a team that waits for ten banks. -/
def wanting (s : State) : State := withSegment (segmentOf 0 0 0) s

/-- An entry that waits for ten banks. -/
def wantBanks (g : Group) : Group :=
  { named [] g with frA := { hw := [{ id := 3, pc := placePC, members := [0], block := .banks 10 true }] } }

theorem witness_SegmentResults_moves :
    let s := mach .addr .nop wantBanks wanting
    let x := segmentOf 0 0 0
    evictionVictim s 0 = some (0, 255, x) ∧ s.seg? 0 255 = some x ∧ banksWanted s 0 = true ∧ ctxRuns s 0 = true
    ∧ (∀ p ∈ s.ctxs, ∀ q ∈ p.2.segments, q.2.core = 0 → q.2.state ≠ 1) := by decide +kernel

/-- A run of bytes that are mapped onto themselves is reached in its pieces. -/
theorem igierRun_ok (s : State) (c kind : Nat) (l : List (Nat × Nat)) (h : ∀ p ∈ l, reachVirtual s c p.1 kind = .ok p.1) :
    igierRun s c kind l = .ok l := by
  induction l with
  | nil => rfl
  | cons p l ih => simp [igierRun, h p (by simp), ih fun q hq => h q (by simp [hq]), Except.map]

/-- A frame whose every owner is context 0 is no other context's. -/
theorem frameOfOther_own (s : State) (pa : Nat) (h : s.frames.all (fun p => decide (p.2 = 0)) = true) : frameOfOther s 0 pa = false := by
  have hf : ∀ (m : SMap Nat) (k v : Nat), m.all (fun p => decide (p.2 = 0)) = true → SMap.find? m k = some v → v = 0 := by
    intro m k v
    induction m with
    | nil => simp
    | cons q m ih =>
      intro h
      simp only [List.all_cons, Bool.and_eq_true, decide_eq_true_eq] at h
      rw [SMap.find?_cons]
      split
      · rintro ⟨⟩; exact h.1
      · exact ih h.2
  unfold frameOfOther
  cases hk : SMap.find? s.frames (normPA s pa / 65536) with
  | none => simp only [hk, Option.any_none, Bool.and_false]
  | some v => simp only [hk, hf _ _ _ h hk, Option.any_some, bne_self_eq_false, Bool.and_false]

/-- The first GiB of the placed context is mapped onto itself. -/
theorem reachVirtual_low (s : State) (x : Context) (va kind : Nat) (hx : s.ctx? 0 = some x) (hr : x.root = 0x30000000)
    (hq : x.part = 0) (h0 : readNat s 0x30000000 8 = 0x30010001) (h1 : readNat s 0x30010000 8 = 15)
    (hc : SMap.get 0 s.clusterPart 0 = 0) (hg : s.regions = []) (hp : s.poison = [])
    (hf : s.frames.all (fun p => decide (p.2 = 0)) = true) (hv : va < 2 ^ 30) :
    reachVirtual s 0 va kind = .ok va := by
  have e0 : bitsOf va 55 43 = 0 := by simp only [bitsOf]; omega
  have e1 : bitsOf va 42 30 = 0 := by simp only [bitsOf]; omega
  have ew : walkFrom s va 0x30000000 0 4 = .leaf 15 (2 ^ 30) := by
    simp only [walkFrom, levelField]
    rw [show 43 + 13 - 1 = 55 from rfl, e0, show 30 + 13 - 1 = 42 from rfl, e1]
    simp only [Nat.mul_zero, Nat.add_zero, h0, show judgeEntry 0 0x30010001 = .pointer 0x30010000 by decide, h1,
      show judgeEntry (0 + 1) 15 = .leaf by decide, pageSize, levelField]
  have el : leafCause 15 kind = none := by
    simp [leafCause, show bitOf 15 2 = true by decide, show bitOf 15 3 = true by decide]
  have ea : leafPA 15 (2 ^ 30) va = va := by simp [leafPA, bitsOf]; omega
  have et : tierOf va = .hbm := by simp only [tierOf]; rw [if_pos (by omega)]
  have en : normPA s va = va := by simp [normPA, et]
  have ed : va / 2 ^ 36 = 0 := by omega
  have eh : homeCause s 0 x.tdi va = none := by
    simp only [homeCause, en, et, ed, hc, decide_true, Bool.not_true]
    simp [regionAt, hg]
  have ep : poisonAt s va = none := by unfold poisonAt; simp only [en, et, hp]; rfl
  have er : reachCause s 0 0 x.tdi va = none := by simp [reachCause, eh, frameOfOther_own s va hf]
  simp only [reachVirtual, hx, hr, hq, translateRaw, ew, el, ea, er, ep]
  rw [if_neg (by omega), if_neg (by omega)]

/-- Pieces lie within the run. -/
theorem piecesOf_bound (va n fuel : Nat) : ∀ p ∈ piecesOf va n fuel, p.1 < va + n := by
  induction fuel generalizing va n with
  | zero => simp [piecesOf]
  | succ k ih =>
    intro p hp
    simp only [piecesOf] at hp
    split at hp
    · simp at hp
    · rcases List.mem_cons.mp hp with rfl | hq
      · simp; omega
      · have := ih _ _ p hq; omega

/-- Every run of the first GiB can be reached by Igier. -/
theorem igierRun_low (s : State) (x : Context) (kind va n fuel : Nat) (hx : s.ctx? 0 = some x) (hr : x.root = 0x30000000)
    (hq : x.part = 0) (h0 : readNat s 0x30000000 8 = 0x30010001) (h1 : readNat s 0x30010000 8 = 15)
    (hc : SMap.get 0 s.clusterPart 0 = 0) (hg : s.regions = []) (hp : s.poison = [])
    (hf : s.frames.all (fun p => decide (p.2 = 0)) = true) (hv : va + n ≤ 2 ^ 30) :
    igierRun s 0 kind (piecesOf va n fuel) = .ok (piecesOf va n fuel) :=
  igierRun_ok s 0 kind _ fun p h => reachVirtual_low s x p.1 kind hx hr hq h0 h1 hc hg hp hf (by have := piecesOf_bound va n fuel p h; omega)

/-- No line of the first GiB is poisoned. -/
theorem poisonAt_low (s : State) (va : Nat) (hp : s.poison = []) (hv : va < 2 ^ 30) : poisonAt s va = none := by
  have et : tierOf va = .hbm := by simp only [tierOf]; rw [if_pos (by omega)]
  have en : normPA s va = va := by simp [normPA, et]
  unfold poisonAt; simp only [en, et, hp]; rfl

/-- The facts of the placed machine that `igierRun_low` asks for. -/
abbrev Placed (s : State) : Prop :=
  (s.ctx? 0).map (fun x => (x.root, x.part)) = some (0x30000000, 0) ∧ readNat s 0x30000000 8 = 0x30010001
    ∧ readNat s 0x30010000 8 = 15 ∧ SMap.get 0 s.clusterPart 0 = 0 ∧ s.regions = [] ∧ s.poison = []
    ∧ s.frames.all (fun p => decide (p.2 = 0)) = true

theorem Placed.run {s : State} (h : Placed s) (kind va n fuel : Nat) (hv : va + n ≤ 2 ^ 30) :
    igierRun s 0 kind (piecesOf va n fuel) = .ok (piecesOf va n fuel) := by
  obtain ⟨h, h0, h1, hc, hg, hp, hf⟩ := h
  rw [Option.map_eq_some_iff] at h
  obtain ⟨x, hx, hh⟩ := h
  simp only [Prod.mk.injEq] at hh
  exact igierRun_low s x kind va n fuel hx hh.1 hh.2 h0 h1 hc hg hp hf hv

theorem Placed.check {s : State} (h : Placed s) (va n : Nat) (hv : va + n ≤ 2 ^ 30) : areaCheck s 0 va n = none := by
  simp only [areaCheck, h.run 5 va n _ hv]
  rw [Option.map_eq_none_iff, List.findSome?_eq_none_iff]
  intro q hq
  obtain ⟨h1, h2⟩ := List.of_mem_zip hq
  rw [poisonAt_low s q.2.1 h.2.2.2.2.2.1 (by have := piecesOf_bound va n _ q.2 h2; omega)]; rfl

/-- A run of the first GiB can be read. -/
theorem Placed.read {s : State} (h : Placed s) (va n : Nat) (hv : va + n ≤ 2 ^ 30) : ∃ bs, igierRead s 0 va n = .ok bs :=
  ⟨_, by rw [igierRead, h.run 4 va n _ hv]; rfl⟩

/-- A machine whose segment has state `state`, on core 0, its move aimed at bank 21. -/
def movesState (state : Nat) : State :=
  mach .addr .nop (named []) (withSegment { segmentOf 0 state 0 with target := 0, targetFirst := 21 })

theorem witness_SegmentResults_land :
    (∃ u, areaWrite (movesState 1) 0 0x120000 (lsRead (movesState 1) 0 (20 * 65536) 65536) = .ok u)
    ∧ (∀ p ∈ (movesState 1).groups, ∀ a ∈ p.2.accs, a.inBanks 0 20 1 = false)
    ∧ (∀ p ∈ (movesState 3).groups, ∀ a ∈ p.2.accs, a.inBanks 0 20 1 = false) ∧ ((movesState 3).seg? 0 255).map (·.mover) = some none
    ∧ (∃ bs, igierRead (movesState 3) 0 0x120000 65536 = .ok bs) ∧ ctxRuns (movesState 1) 0 = true ∧ ctxRuns (movesState 3) 0 = true
    ∧ ((movesState 3).seg? 0 255).map (·.state) = some 3 ∧ ((movesState 1).seg? 0 255).map (·.faultIds) = some [] := by
  have p1 : Placed (movesState 1) := by decide +kernel
  have p3 : Placed (movesState 3) := by decide +kernel
  have hl : (lsRead (movesState 1) 0 (20 * 65536) 65536).length = 65536 := by simp [lsRead, upTo]
  refine ⟨?_, by decide +kernel, by decide +kernel, by decide +kernel, ?_, by decide +kernel, by decide +kernel, by decide +kernel, by decide +kernel⟩
  · have h := p1.run 5 0x120000 65536 (65536 / 16 + 2) (by norm_num)
    exact ⟨_, by rw [areaWrite, hl, p1.check 0x120000 65536 (by norm_num)]; simp only [igierWrite, hl, h]; rfl⟩
  · have h := p3.run 4 0x120000 65536 (65536 / 16 + 2) (by norm_num)
    exact ⟨_, by rw [igierRead, h]; rfl⟩

/-- A translation that the core's TLB holds. -/
theorem translate_of_tlb (s : State) (ctx core va : Nat) (e : TlbEntry) (h : tlbFind (s.core core).tlb ctx va = some e)
    (hl : leafCause e.leaf 0 = none) : translate s ctx core va 0 = .ok (leafPA e.leaf e.size va, e.leaf, s) := by
  simp [Machine.translate, h, hl]

/-- What a core fetches through its TLB does not depend on its banks or on the segment directory. -/
theorem fetch_of_tlb (s : State) (cs : SMap Core) (xs : SMap Context) (g : Group) (pc : VAddr) (e : TlbEntry)
    (hc : tlbFind (SMap.get {} cs g.core).tlb g.ctx pc.toNat = some e) (hs : tlbFind (s.core g.core).tlb g.ctx pc.toNat = some e)
    (hl : leafCause e.leaf 0 = none)
    (hx : (SMap.find? xs g.ctx).map (·.tdi) = (s.ctx? g.ctx).map (·.tdi)) :
    (fetchWord { s with cores := cs, ctxs := xs } g pc).2 = (fetchWord s g pc).2 := by
  have h1 := translate_of_tlb { s with cores := cs, ctxs := xs } g.ctx g.core pc.toNat e hc hl
  have h2 := translate_of_tlb s g.ctx g.core pc.toNat e hs hl
  have h3 : reachCause { s with cores := cs, ctxs := xs } = reachCause s := rfl
  have h4 : poisonAt { s with cores := cs, ctxs := xs } = poisonAt s := rfl
  have h5 : partOfCore { s with cores := cs, ctxs := xs } = partOfCore s := rfl
  have h6 : ∀ pa, (readHome { s with cores := cs, ctxs := xs } pa 4).1 = (readHome s pa 4).1 := fun _ => rfl
  simp only [fetchWord, h1, h2, h3, h4, h5, h6, State.ctx?] at hx ⊢
  split
  · rfl
  · split
    · rfl
    · cases ha : SMap.find? xs g.ctx <;> cases hb : SMap.find? s.ctxs g.ctx <;> simp [ha, hb] at hx <;> simp only [hx]
      all_goals
        generalize reachCause s _ _ _ _ = hh
        generalize poisonAt s _ = pp
        split <;> cases pp <;> simp_all

/-- A core that holds the translation of its first GiB. -/
def warm : Core := { tlb := [⟨0, 0, 2 ^ 30, 15⟩] }

/-- The banks of a core do not touch its TLB. -/
theorem setCore_tlb (s : State) (c k : Nat) (f : Core → Core) (h : ∀ x, (f x).tlb = x.tlb) :
    ((s.setCore c f).core k).tlb = (s.core k).tlb := by rw [State.setCore_core]; split <;> simp_all

/-- A segment EVICTED elsewhere that group 0 pulls. -/
def gone : Segment := { segmentOf noCore 3 0 with target := 0, targetFirst := 21, mover := some 0 }
def pulled (s : State) : State := withSegment gone { s with cores := [(0, warm)] }
def pulls (g : Group) : Group :=
  { named [] g with frA := { hw := [{ id := 3, pc := placePC, members := [0], block := .segment 0xFFFF }] } }
def pullOps : SegattOps := ⟨1, 5, false, true⟩
def pulling : State := mach .addr (.segatt pullOps) pulls pulled

/-- The state in which the bytes of the pulled segment have landed. -/
def pullLands (bs : List Byte) : State :=
  (landSegment pulling gone bs).setSeg 0 255 fun y =>
    { y with state := 0, core := y.target, first := y.targetFirst, faultIds := [], mover := none }

theorem pullLands_fetch (bs : List Byte) : (fetchWord (pullLands bs) (grp pulls) placePC).2 = .word (wordOf (.segatt pullOps)) := by
  have h0 : (fetchWord pulling (grp pulls) placePC).2 = .word (wordOf (.segatt pullOps)) := by decide +kernel
  rw [← h0]
  have ht : ((pullLands bs).core 0).tlb = (pulling.core 0).tlb := by
    simp only [pullLands, State.setSeg, State.setCtx_core, landSegment, lsWrite]
    rw [setCore_tlb (h := fun c => by rfl)]
    simp only [zeroBanks, upTo, gone, segmentOf, List.range_succ, List.range_zero, List.nil_append, List.map_cons, List.map_nil, List.foldl_cons, List.foldl_nil, lsZeroBank]
    rw [setCore_tlb (h := fun c => by rfl)]
  have h1 : tlbFind (pulling.core 0).tlb 0 placePC.toNat = some ⟨0, 0, 2 ^ 30, 15⟩ := by decide +kernel
  exact fetch_of_tlb pulling (pullLands bs).cores (pullLands bs).ctxs (grp pulls) placePC ⟨0, 0, 2 ^ 30, 15⟩ (by rw [← h1, ← ht]; rfl) h1
    (by decide) (by
      show ((pulling.setSeg 0 255 fun y => { y with state := 0, core := y.target, first := y.targetFirst, faultIds := [], mover := none }).ctx? 0).map (·.tdi) = _
      decide +kernel)

theorem witness_SegmentResults_pull :
    let g := grp pulls
    pulling.seg? 0 255 = some gone ∧ (gone.state, gone.core, gone.mover, gone.faultIds, gone.dropAfter) = (3, noCore, some 0, [], false)
    ∧ pulling.group? 0 = some g ∧ g.status = .resident ∧ 255 ∉ g.attach ∧ ctxRuns pulling 0 = true
    ∧ (∀ p ∈ pulling.groups, ∀ a ∈ p.2.accs, a.inBanks noCore 20 1 = false)
    ∧ ∃ bs, igierRead pulling 0 0x120000 65536 = .ok bs ∧ ∃ e,
        (g.frA.entries.findSome? fun e => (pullOf (pullLands bs) g gone.name e).map fun f => (e, f)) = some (e, pullOps) := by
  have p : Placed pulling := by decide +kernel
  refine ⟨by decide +kernel, by decide +kernel, by decide +kernel, by decide +kernel, by decide +kernel, by decide +kernel, by decide +kernel, ?_⟩
  obtain ⟨bs, hb⟩ := p.read 0x120000 65536 (by norm_num)
  refine ⟨bs, hb, { id := 3, pc := placePC, members := [0], block := .segment 0xFFFF }, ?_⟩
  have he : (grp pulls).frA.entries = [{ id := 3, pc := placePC, members := [0], block := .segment 0xFFFF }] := by decide +kernel
  have hd : decodeOp (wordOf (.segatt pullOps)) = some (.segatt pullOps) := by decide +kernel
  simp only [he, List.findSome?_cons, List.findSome?_nil, pullOf, pullLands_fetch, hd]
  rfl
/-! ### Witnesses: spawns, admission, the clock -/

/-- A kernel record: entries at 0x30000 and 0x20000, 8 lanes, 8 registers. -/
def kernelWord : Nat := 0x20000 + 0x30000 * 2 ^ 64 + 2 ^ 200

/-- The kernel of that record. -/
def theKernel : Kernel := kernelOf 0x60000 kernelWord

/-- A spawn block of 20 groups in teams of 8, on the spawner's cluster. -/
def spawnWord : Nat := 0x60000 + 20 * 2 ^ 64 + 8 * 2 ^ 80 + 2 * 2 ^ 85

/-- A machine with both in memory. -/
def withSpawn (s : State) : State := withBlk spawnWord (withBytes 0x60000 (bytesOfNat kernelWord 128) s)

theorem witness_SpawnResults :
    let f := withA 1 fun _ => coreWindow + 0xC0000
    let a := acts (mach .addr (.spawn ⟨1⟩) f withSpawn) (issue .addr (.spawn ⟨1⟩)) (grp f)
    Ready .addr (.spawn ⟨1⟩) f withSpawn ∧ (∀ y ∈ (grp f).accs, y.performed = true)
    ∧ (localBytes a.s a.g (coreWindow + 0xC0000) 64 64).toOption = some (bytesOfNat spawnWord 64) ∧ spawnBreaches spawnWord = []
    ∧ spawnWord % 2 ^ 64 = 0x60000 ∧ (engineRead a.s grp.who 0x60000 128).toOption.map (·.1) = some (bytesOfNat kernelWord 128)
    ∧ (parseKernel 0x60000 (bytesOfNat kernelWord 128)).toOption = some theKernel ∧ (grp f).depth < 32 ∧ (grp f).count 5 < 63
    ∧ SMap.get [] a.s.spawnQ 0 = [] ∧ (hintCores a.s 0 0 2 false).contains 15 = true
    ∧ teamFits a.s theKernel (largestTeam spawnWord) 15 false = true := by
  dsimp only; (repeat' apply And.intro) <;> decide +kernel

/-- The spawn at the head of its cluster's queue. -/
def theSpawn : SpawnEntry :=
  { group := 0, op := 4, ctx := 0, tree := 0, part := 0, core := 0, gid := 0, depth := 1, count := 20, team := 8, pair := false,
    hint := 2, kernel := theKernel, args := [] }

theorem witness_SpawnResults_accept :
    let s := mach .addr .nop id fun s => { s with spawnQ := [(0, [theSpawn])] }
    s.group? 0 = some (grp id) ∧ nextSpawn s (clusterOf (grp id).core) = some theSpawn
    ∧ (SMap.find? s.trees 0).any (fun t => decide (t.rise + theSpawn.count < 2 ^ 32)) = true
    ∧ 0 < theSpawn.team ∧ ∀ p ∈ s.groups, ∀ o ∈ p.2.ops, o.failed = none := by decide +kernel

theorem witness_SpawnResults_full :
    let s := mach .addr .nop id fun s =>
      { s with spawnQ := [(0, [theSpawn])], trees := s.trees.map fun p => (p.1, { p.2 with rise := 2 ^ 32 - 20 }) }
    s.group? 0 = some (grp id) ∧ nextSpawn s (clusterOf (grp id).core) = some theSpawn
    ∧ (SMap.find? s.trees 0).any (fun t => decide (2 ^ 32 ≤ t.rise + theSpawn.count)) = true := by decide +kernel

/-- A PENDING group whose turn it is. -/
def pendingGroup (gid team : Nat) : Group := newGroup 0 1 gid team 0 theKernel 1 0 2 0 2 []

/-- A machine in which a team of two groups waits. -/
def withWaiter (s : State) : State :=
  { s with groups := s.groups ++ [(1, pendingGroup 0 1), (2, pendingGroup 1 1)], trees := s.trees ++ [(1, { ctx := 0, number := 1, rise := 2 })],
           teams := s.teams ++ [(1, { groups := [1, 2] })] }

/-- A PARKED group of one ready entry. -/
def parked (g : Group) : Group :=
  { g with status := .parked, spillSlot := some 7, frC := { hw := [{ id := 3, pc := placePC, members := upTo 16 }] } }

/-- A DRAINING group. -/
def draining (g : Group) : Group := { g with status := .draining }

theorem witness_GroupsEnterAndLeave :
    let s := mach .addr .nop id withWaiter
    (waiterOf s 1).map (fun w => (w.tk, w.team.pair, w.gs)) = some (1, false, [(1, pendingGroup 0 1), (2, pendingGroup 1 1)])
    ∧ ((waiterOf s 1).bind fun w => w.target s) = some 1 ∧ (waiterOf s 1).any (fun w => isFirst s w 1) = true
    ∧ ((waiterOf s 1).bind fun w => (planAt s w 1).map fun r => (r.2.group? 1, r.2.group? 2)) = some (some (pendingGroup 0 1), some (pendingGroup 1 1))
    ∧ ((waiterOf s 1).bind fun w => (planAt s w 1).map (·.1)) = some [(1, 1), (2, 1)]
    ∧ s.group? 1 = some (pendingGroup 0 1) ∧ s.group? 2 = some (pendingGroup 1 1) ∧ theKernel.args = 0 := by decide +kernel

/-- The images of a team of one. -/
theorem readImages_one (s : State) (k n : Nat) (g : Group) (bs : List Byte) (hs : g.spillSlot = some n)
    (h : igierRead s g.ctx (spillSlotVa s g.ctx n) 65536 = .ok bs) : readImages s [(k, g)] = .ok [(k, bs)] := by
  simp only [readImages, readImage, hs, h]

theorem witness_GroupsEnterAndLeave_again :
    let s := mach .addr .nop parked
    s.group? 0 = some (grp parked) ∧ (grp parked).status = .parked
    ∧ ((waiterOf s 0).map fun w => (w.gs, w.target s, isFirst s w 0, (planAt s w 0).bind fun r => r.2.group? 0))
      = some ([(0, grp parked)], some 0, true, some (grp parked))
    ∧ (grp parked).parkFaults = [] ∧ (grp parked).owed = [] ∧ (∃ images, readImages s [(0, grp parked)] = .ok images)
    ∧ (grp draining).mayRetire = true ∧ ctxAway (mach .addr .nop draining) 0 = false
    ∧ (SMap.find? (mach .addr .nop draining).trees 0).isSome = true := by
  have p : Placed (mach .addr .nop parked) := by decide +kernel
  have hv : spillSlotVa (mach .addr .nop parked) 0 7 = 0x70000 := by decide +kernel
  refine ⟨by decide +kernel, by decide +kernel, by decide +kernel, by decide +kernel, by decide +kernel, ?_, by decide +kernel,
    by decide +kernel, by decide +kernel⟩
  obtain ⟨bs, hb⟩ := p.read 0x70000 65536 (by norm_num)
  have hs : (grp parked).spillSlot = some 7 := by decide +kernel
  have hc : (grp parked).ctx = 0 := by decide +kernel
  exact ⟨_, readImages_one _ 0 7 _ bs hs (by rw [hc, hv]; exact hb)⟩

/-- A group that waits for 15 more chunks of registers than its core has free, and beside it one that sleeps. -/
def growing (k : Nat) (g : Group) : Group :=
  { g with width := 64, vAlloc := 8, frC := { hw := [{ id := 3, pc := placePC, members := upTo 16, block := .grow k 5 false }] } }

/-- Groups that fill the register chunks of core 0. -/
def crowd (n : Nat) (s : State) : State :=
  { s with
    groups := s.groups ++ (upTo n).map fun i => (i + 1,
      { grp with team := i + 1, width := 64, order := i + 1, vAlloc := 128, threads := [],
                 frC := { hw := [{ id := 0, pc := placePC, members := [0], block := .sleep 9 }] } }),
    teams := s.teams ++ (upTo n).map fun i => (i + 1, { groups := [i + 1] }),
    ctxs := SMap.modify s.ctxs 0 fun c => { c with spillBase := 0x1000000, spillSlots := 100 } }

theorem witness_GroupsEnterAndLeave_park :
    let s := mach .addr .nop (growing 15) (crowd 14)
    nextPark s 0 = some 14 ∧ (s.group? 14).map (fun g => (g.status, g.ctx, g.core, g.slow)) = some (.resident, 0, 0, [])
    ∧ ctxRuns s 0 = true ∧ (s.groups.filter fun p => p.2.team = 14 && p.2.status = .resident).map (·.1) = [14]
    ∧ spillSlots s 0 1 = [0] ∧ areaCheck s 0 (spillSlotVa s 0 0) 65536 = none := by
  have p : Placed (mach .addr .nop (growing 15) (crowd 14)) := by decide +kernel
  have hv : spillSlotVa (mach .addr .nop (growing 15) (crowd 14)) 0 0 = 0x1000000 := by decide +kernel
  refine ⟨by decide +kernel, by decide +kernel, by decide +kernel, by decide +kernel, by decide +kernel, ?_⟩
  rw [hv]
  exact p.check 0x1000000 65536 (by norm_num)

/-- The request of the growing group alone is granted. -/
theorem witness_GroupsEnterAndLeave_grant :
    let s := mach .addr .nop (growing 15)
    let g := grp (growing 15)
    (holdersOn s 0).filter (fun p => p.2.requests != []) = [(0, g)] ∧ s.group? 0 = some g ∧ g.requests = [5]
    ∧ (∀ e ∈ g.frC.entries, e.block = .grow 15 5 false) ∧ g.vAlloc + 8 * 15 = 128
    ∧ chunksFor 128 g.width g.sAlloc ≤ regCapacity (s.core 0) ∧ chunksFor 128 g.width g.sAlloc - g.chunks ≤ freeChunks s 0 := by
  decide +kernel

/-- Entries for the clock: one that sleeps out, one that is old, and a full frontier with one spilled. -/
def clocked (g : Group) : Group :=
  { g with frC := { hw := [{ id := 1, pc := placePC, members := [0], block := .sleep 0 },
                           { id := 2, pc := placePC, members := [1, 2], age := 5000 }],
                    spill := [{ id := 3, pc := placePC, members := [15] }], turn := 4096 } }

theorem witness_ClockResults :
    let s := mach .addr .nop clocked
    let g := grp clocked
    s.group? 0 = some g ∧ g.core = 0 ∧ g.status = .resident ∧ (s.ctx? 0).map (·.status) = some .running
    ∧ g.entry? .comp 1 = some { id := 1, pc := placePC, members := [0], block := .sleep 0 }
    ∧ (∃ e ∈ candidates s g .comp, 2 ^ (8 + g.kernel.turn) < e.age) ∧ nextIssuer s 0 .comp = some 0
    ∧ (lowestEntry g .comp (g.frontier .comp).hw).isSome = true ∧ 2 ^ (8 + g.kernel.turn) ≤ (g.frontier .comp).turn
    ∧ (g.frontier .comp).spill = [{ id := 3, pc := placePC, members := [15] }] := by decide +kernel

/-- A thread whose strands wait for each other at qac and qca. -/
def stuck (g : Group) : Group :=
  { g with frC := { hw := [{ id := 1, pc := placePC, members := [0], block := .pop 1 1 }] },
           frA := { hw := [{ id := 2, pc := placePC, members := [0], block := .pop 2 1 }] },
           threads := g.threads.map fun t => { t with deadlock := 2 ^ 20 } }

theorem witness_ClockResults_deadlock :
    (grp stuck).deadlocked 0 = some (1, 2) ∧ ((grp stuck).entryOf .comp 0).isSome = true ∧ ((grp stuck).thread 0).deadlock = 2 ^ 20
    ∧ CanTrap .comp (grp stuck) [0] (fun _ => ⟨0x061, 9, 0⟩) := by
  dsimp only [CanTrap]; (repeat' apply And.intro) <;> decide +kernel
/-! ### Witnesses: packets and queues -/

/-- Queue 31, bound, with the packet `x` at place 15 of its ring. -/
def withPacket (x : Nat) (s : State) : State :=
  { withBytes (0x150000 + 64 * 15) (bytesOfNat x 64) s with
    queues := [(31, { bound := some 0, qcb := 0x140000, ring := 0x150000, log := 4, ridx := 15, widx := 16 })] }

/-- The machine of a packet. -/
def packetAt (x : Nat) : State := mach .addr .nop id (fun s => withBytes 0x60000 (bytesOfNat kernelWord 128) (withPacket x s))

/-- Its packet may begin. -/
def begins (x : Nat) : Bool :=
  let s := packetAt x
  mayBegin s 31 0 && decide ((igierRead s 0 (0x140000 + 32) 1).toOption = some [0#8])
    && decide ((igierRead s 0 (0x150000 + 64 * (15 % 16)) 64).toOption = some (bytesOfNat x 64)) && (packetBreaches s 0 x).isEmpty

/-- A WAIT and a SIGNAL of a semaphore and of an event, a COPY of 2 blocks, a LAUNCH. -/
def waitWord : Nat := 2 + 0x70008 * 2 ^ 64 + 2 ^ 192
def waitEvent : Nat := 2 + 0xFFFF * 2 ^ 64 + 2 ^ 128
def signalWord : Nat := 3 + 0x70008 * 2 ^ 64 + (2 ^ 64 - 1) * 2 ^ 192
/-- A SIGNAL that releases at scope 3, and one of an event. -/
def signalRelease : Nat := signalWord + 3 * 2 ^ 11
def signalEvent : Nat := 3 + 0xFFFF * 2 ^ 64 + 2 ^ 128
def copyWord : Nat := 4 + 0x80000 * 2 ^ 64 + 2 * 2 ^ 128
def launchWord : Nat := 1 + 0x60000 * 2 ^ 64

theorem witness_PacketsBegin :
    begins 0 = true ∧ begins waitWord = true ∧ begins waitEvent = true ∧ begins signalWord = true ∧ begins signalRelease = true ∧ begins signalEvent = true ∧ begins copyWord = true
    ∧ begins launchWord = true ∧ begins (5 + 0x60000 * 2 ^ 64) = true := by decide +kernel

theorem witness_PacketsBegin_work :
    (devicePlace (packetAt waitWord) 0 0x70008 8 4).toOption = some 0x70008
    ∧ (devicePlace (packetAt signalWord) 0 0x70008 8 3).toOption = some 0x70008 ∧ normPA (packetAt signalWord) 0x70008 = 0x70008
    ∧ (devicePlace (packetAt copyWord) 0 0x80000 64 4).toOption = some 0x80000
    ∧ (igierRead (packetAt copyWord) 0 0x80000 128).toOption.map (·.length) = some 128
    ∧ succeeds (packetOps (viewCore (packetAt copyWord) 0) 0 0 [(0x80000, blk), (0x80040, blk)]) = true
    ∧ (devicePlace (packetAt signalRelease) 0 0x70008 8 3).toOption = some 0x70008 ∧ 0x70008 % 8 = 0
    ∧ (igierRead (packetAt launchWord) 0 0x60000 128).toOption = some (bytesOfNat kernelWord 128)
    ∧ (parseKernel 0x60000 (bytesOfNat kernelWord 128)).toOption = some theKernel ∧ theKernel.starters = [] := by decide +kernel

/-- A VIEW_REG packet of the record at 0x60100. -/
def viewRecord : Nat := 0x60000 + 0x60080 * 2 ^ 64 + 0x10000 * 2 ^ 128 + 2 ^ 192
def viewBytes (s : State) : State := withBytes 0x60100 (bytesOfNat viewRecord 64) (withBytes 0x60080 (bytesOfNat viewWord 64) (withBytes 0x60000 (bytesOfNat masterWord 64) s))

theorem witness_PacketsBegin_view :
    succeeds (viewPacket (mach .addr .nop id viewBytes) 0 0x60100) = true := by decide +kernel

/-- A launch whose seed waits for its segment, RESIDENT on the seed's core. -/
def placing (s : State) : State :=
  { withSegment (segmentOf 1 0 0) s with
    groups := s.groups ++ [(1, { newGroup 0 1 0 1 1 theKernel 0 0 1 0xFFFFFFFF 4 [] with order := 0 })],
    teams := s.teams ++ [(1, { groups := [1], core := some 1, placing := true, names := [0xFFFF] })],
    trees := s.trees ++ [(1, { ctx := 0, number := 1, rise := 1 })],
    queues := [(31, { bound := some 0, qcb := 0x140000, stage := .placing 1 })] }

theorem witness_PacketsBegin_seed :
    let s := mach .addr .nop id placing
    (s.queue 31).stage = .placing 1 ∧ (s.groups.find? fun p => p.2.tree = 1).map (·.1) = some 1
    ∧ (s.team? 1).map (·.core) = some (some 1) ∧ ctxRuns s 0 = true ∧ (placeNamed s 0 1 [0xFFFF]).1 = [] := by decide +kernel

/-- Queue 31 with a QCB at 0x140000 whose WIDX is 16, and a stage. -/
def withQueue (st : QStage) (header : Nat) (s : State) : State :=
  { withBytes 0x140000 (bytesOfNat (0x150000 + 4 * 2 ^ 64 + 16 * 2 ^ 128) 64) s with
    queues := [(31, { bound := some 0, qcb := 0x140000, ring := 0x150000, log := 4, stage := st, header := header })] }

theorem witness_QueuesAdvance :
    let s := mach .addr .nop id (withQueue .ended 0xC000)
    let t := mach .addr .nop id (withQueue (.semaphore 0x70008 0) 0)
    s.up = true ∧ SMap.get 0 s.queuePart 31 = (s.queue 31).part ∧ (igierRead s 0 0x140000 64).toOption.map (fun bs => (natOfBytes bs / 2 ^ 256 % 4, natOfBytes bs / 2 ^ 128 % 2 ^ 64)) = some (0, 16)
    ∧ ctxRuns s 0 = true ∧ reachQcb s 0 (0x140000 + 24) = .ok 0x140018
    ∧ (s.ctx? 0).map (fun x => (x.rings.length, (x.ring 0).held, (x.ring 0).summary, (x.ring 0).prod, (x.ring 0).cons)) = some (4, [], false, 0, 0)
    ∧ (t.queue 31).stage = .semaphore 0x70008 0 ∧ (devicePlace t 0 0x70008 8 4).toOption = some 0x70008
    ∧ (s.ctx? 0).map (fun x => ((x.ring 3).held, (x.ring 3).dropped, (x.ring 3).summary)) = some ([], 0, false) := by decide +kernel

/-! ### Witnesses: the host's commands -/

/-- What writes outside the page tables of the placed context leave. -/
abbrev Maps (s : State) : Prop := Placed s ∧ (s.ctx? 0).isSome = true

/-- The parts of a machine that a write at a home leaves alone. -/
def Kept (s t : State) : Prop :=
  t.ctxs = s.ctxs ∧ t.regions = s.regions ∧ t.clusterPart = s.clusterPart ∧ t.domainOn = s.domainOn ∧ t.domain = s.domain
    ∧ t.poison = s.poison ∧ t.mem = s.mem ∧ t.frames = s.frames

theorem Kept.trans {s t u : State} (h : Kept s t) (k : Kept t u) : Kept s u :=
  ⟨k.1.trans h.1, k.2.1.trans h.2.1, k.2.2.1.trans h.2.2.1, k.2.2.2.1.trans h.2.2.2.1, k.2.2.2.2.1.trans h.2.2.2.2.1,
    k.2.2.2.2.2.1.trans h.2.2.2.2.2.1, k.2.2.2.2.2.2.1.trans h.2.2.2.2.2.2.1,
    k.2.2.2.2.2.2.2.trans h.2.2.2.2.2.2.2⟩

theorem Kept.fold {β : Type} {f : State → β → State} (h : ∀ s x, Kept s (f s x)) (l : List β) (s : State) : Kept s (l.foldl f s) := by
  induction l generalizing s with
  | nil => exact ⟨rfl, rfl, rfl, rfl, rfl, rfl, rfl, rfl⟩
  | cons x l ih => exact (h s x).trans (ih _)

theorem setBlock_kept (s : State) (c n k t : Nat) : Kept s (setBlock s c n k t) := by
  unfold setBlock; split <;> exact ⟨rfl, rfl, rfl, rfl, rfl, rfl, rfl, rfl⟩

theorem markViews_kept (s : State) (pa n : Nat) : Kept s (markViews s pa n) :=
  Kept.fold (fun _ _ => Kept.fold (fun _ _ => Kept.fold (fun _ _ => Kept.fold (fun _ _ => setBlock_kept ..) _ _) _ _) _ _) _ _

theorem mscTouch_kept (s : State) (pa n : Nat) (d : Bool) : Kept s (mscTouch s pa n d) := by
  unfold mscTouch; dsimp only; split <;> exact ⟨rfl, rfl, rfl, rfl, rfl, rfl, rfl, rfl⟩

/-- A write in the first 768 MiB leaves the page tables of the placed context. -/
theorem writeHome_placed (s : State) (pa : Nat) (bs : List Byte) (h : Placed s) (hb : pa + bs.length ≤ 0x30000000) :
    Placed (writeHome s pa bs) ∧ (writeHome s pa bs).ctxs = s.ctxs := by
  obtain ⟨hc, h0, h1, hp, hr, hq, hf⟩ := h
  have ht : tierOf pa = .hbm := by simp only [tierOf]; rw [if_pos (by omega)]
  have hn : normPA s pa = pa := by simp [normPA, ht]
  have k := markViews_kept (writeRaw s pa bs) pa bs.length
  have hm : (writeHome s pa bs).mem = putBytes s.mem pa bs := by rw [writeHome_mem, hn]
  have hctx : (writeHome s pa bs).ctxs = s.ctxs := by
    exact k.1.trans (mscTouch_kept (clearPoison s (normPA s pa) bs.length) pa bs.length true).1
  have hread : ∀ x, 0x30000000 ≤ x → x < 0x30020000 → readByte (writeHome s pa bs) x = readByte s x := by
    intro x hx hx'
    have hxt : tierOf x = .hbm := by simp only [tierOf]; rw [if_pos (by omega)]
    simp only [readByte, normPA, hxt, hm]
    simp only [reduceCtorEq, decide_false, Bool.false_and, Bool.false_eq_true, if_false, putBytes_get]
    rw [if_neg (by omega)]
  have hnat : ∀ x, 0x30000000 ≤ x → x + 8 < 0x30020000 → readNat (writeHome s pa bs) x 8 = readNat s x 8 := by
    intro x hx hx'
    refine congrArg natOfBytes (List.map_congr_left fun i hi => ?_)
    have : i < 8 := by simpa [upTo] using hi
    exact hread _ (by omega) (by omega)
  refine ⟨⟨?_, ?_, ?_, ?_, ?_, ?_, ?_⟩, hctx⟩
  · have : (writeHome s pa bs).ctx? 0 = s.ctx? 0 := by simp only [State.ctx?, hctx]
    rw [this]; exact hc
  · rw [hnat _ (by omega) (by omega)]; exact h0
  · rw [hnat _ (by omega) (by omega)]; exact h1
  · have : (writeHome s pa bs).clusterPart = s.clusterPart := by
      exact k.2.2.1.trans (mscTouch_kept (clearPoison s (normPA s pa) bs.length) pa bs.length true).2.2.1
    rw [this]; exact hp
  · have : (writeHome s pa bs).regions = s.regions := by
      exact k.2.1.trans (mscTouch_kept (clearPoison s (normPA s pa) bs.length) pa bs.length true).2.1
    rw [this]; exact hr
  · have : (writeHome s pa bs).poison = (clearPoison s (normPA s pa) bs.length).poison := by
      exact k.2.2.2.2.2.1.trans (mscTouch_kept (clearPoison s (normPA s pa) bs.length) pa bs.length true).2.2.2.2.2.1
    rw [this]; simp [clearPoison, hq]
  · have : (writeHome s pa bs).frames = s.frames := by
      exact k.2.2.2.2.2.2.2.trans (mscTouch_kept (clearPoison s (normPA s pa) bs.length) pa bs.length true).2.2.2.2.2.2.2
    rw [this]; exact hf

theorem claimLines_placed (s : State) (c pa n : Nat) (h : Placed s) : Placed (claimLines s c pa n) ∧ (claimLines s c pa n).ctxs = s.ctxs :=
  ⟨h, rfl⟩

/-- What context 0 claims leaves no frame to another. -/
theorem claimFrames_placed (s : State) (pas : List Nat) (h : Placed s) : Placed (claimFrames s (some 0) pas) := by
  have hi : ∀ (m : SMap Nat) (k : Nat), m.all (fun p => decide (p.2 = 0)) = true → (SMap.insert m k 0).all (fun p => decide (p.2 = 0)) = true := by
    intro m k
    induction m with
    | nil => simp [SMap.insert]
    | cons q m ih =>
      intro h
      simp only [List.all_cons, Bool.and_eq_true] at h
      simp only [SMap.insert]
      split
      · simp [h.1, h.2]
      · split
        · simp [h.2]
        · simp [h.1, ih h.2]
  refine ⟨h.1, h.2.1, h.2.2.1, h.2.2.2.1, h.2.2.2.2.1, h.2.2.2.2.2.1, ?_⟩
  simp only [claimFrames]
  have : ∀ (l : List Nat) (m : SMap Nat), m.all (fun p => decide (p.2 = 0)) = true →
      (l.foldl (fun m f => if (SMap.find? m f).isSome then m else SMap.insert m f 0) m).all (fun p => decide (p.2 = 0)) = true := by
    intro l
    induction l with
    | nil => exact fun _ h => h
    | cons f l ih => intro m hm; rw [List.foldl_cons]; apply ih; split; exacts [hm, hi m f hm]
  exact this _ _ h.2.2.2.2.2.2

/-- Igier reaches the first GiB at the same addresses. -/
theorem igierRun_same (s : State) (h : Placed s) (kind : Nat) (l : List (Nat × Nat)) (hl : ∀ p ∈ l, p.1 < 2 ^ 30) :
    igierRun s 0 kind l = .ok l := by
  obtain ⟨h, h0, h1, hc, hg, hp, hf⟩ := h
  rw [Option.map_eq_some_iff] at h
  obtain ⟨x, hx, hh⟩ := h
  simp only [Prod.mk.injEq] at hh
  induction l with
  | nil => rfl
  | cons p l ih =>
    simp [igierRun, reachVirtual_low s x p.1 kind hx hh.1 hh.2 h0 h1 hc hg hp hf (hl p (by simp)), ih fun q hq => hl q (by simp [hq]),
      Except.map]

theorem piecesOf_end (va n fuel : Nat) : ∀ p ∈ piecesOf va n fuel, p.1 + p.2 ≤ va + n := by
  induction fuel generalizing va n with
  | zero => simp [piecesOf]
  | succ k ih =>
    intro p hp
    simp only [piecesOf] at hp
    split at hp
    · simp at hp
    · rcases List.mem_cons.mp hp with rfl | hq
      · simp
      · have := ih _ _ p hq; omega

/-- Igier can write below the page tables, again and again. -/
theorem igierWrite_placed (s : State) (h : Placed s) (va : Nat) (bs : List Byte) (hb : va + bs.length ≤ 0x30000000) :
    ∃ t, igierWrite s 0 va bs = .ok t ∧ Placed t ∧ t.ctxs = s.ctxs := by
  have hf : ∀ (l : List (Nat × Nat)) (r : State × List Byte), (∀ p ∈ l, p.1 + p.2 ≤ 0x30000000) → Placed r.1 →
      Placed (l.foldl (fun (r : State × List Byte) p => (writeFor r.1 (some 0) p.1 (r.2.take p.2), r.2.drop p.2)) r).1
        ∧ (l.foldl (fun (r : State × List Byte) p => (writeFor r.1 (some 0) p.1 (r.2.take p.2), r.2.drop p.2)) r).1.ctxs = r.1.ctxs := by
    intro l
    induction l with
    | nil => exact fun r _ hr => ⟨hr, rfl⟩
    | cons p l ih =>
      intro r hl hr
      have hw := writeHome_placed r.1 p.1 (r.2.take p.2) hr (by have := hl p (by simp); simp only [List.length_take]; omega)
      have := ih (writeFor r.1 (some 0) p.1 (r.2.take p.2), r.2.drop p.2) (fun q hq => hl q (by simp [hq])) (claimLines_placed _ 0 _ _ hw.1).1
      exact ⟨this.1, this.2.trans hw.2⟩
  have he := piecesOf_end va bs.length (bs.length / 16 + 2)
  have hb' := piecesOf_bound va bs.length (bs.length / 16 + 2)
  refine ⟨_, by rw [igierWrite, igierRun_same s h 5 _ fun p hp => by have := hb' p hp; omega]; rfl, ?_⟩
  have hw := hf _ (s, bs) (fun p hp => by have := he p hp; omega) h
  exact ⟨claimFrames_placed _ _ hw.1, hw.2⟩

/-- The sections of a save below the page tables are all written. -/
theorem saveAll_placed (base : Nat) (secs : List (Nat × List Byte)) (s : State) (h : Placed s)
    (hs : ∀ b ∈ secs, base + b.1 + b.2.length ≤ 0x30000000) :
    ∃ t, saveAll (fun s b => saveWrite s 0 0 (base + b.1) b.2) s secs = .ok t ∧ Placed t ∧ t.ctxs = s.ctxs := by
  induction secs generalizing s with
  | nil => exact ⟨s, rfl, h, rfl⟩
  | cons b secs ih =>
    have hb := hs b (by simp)
    obtain ⟨t, ht, hp, hc⟩ := igierWrite_placed s h (base + b.1) b.2 hb
    obtain ⟨u, hu, hq, hd⟩ := ih t hp fun q hq => hs q (by simp [hq])
    exact ⟨u, by simp only [saveAll, saveWrite, areaWrite, h.check (base + b.1) b.2.length (by omega), ht]; exact hu, hq, hd.trans hc⟩

/-- A context that holds no core, being pre-empted. -/
def leaving : State :=
  { State.reset with
    mem := placeTables [],
    ctxs := [(0, { part := 0, number := 0, root := 0x30000000, rings := List.replicate 4 {}, saveBase := 0x2000000, saveSize := 4096,
                   status := .preempting })] }

/-- It as its work in flight is settled. -/
def settled : State := settleWork leaving 0

theorem witness_ContextCommands_save :
    (leaving.ctx? 0).map (·.status) = some .preempting ∧ ctxRuns settled 0 = true ∧ ∃ u, saveContext settled 0 = .ok u := by
  refine ⟨by decide +kernel, by decide +kernel, ?_⟩
  have hcores : coresOf settled 0 = [] := by decide +kernel
  have hgroups : groupsOf settled 0 = [] := by decide +kernel
  obtain ⟨x, hx⟩ : ∃ x, settled.ctx? 0 = some x := Option.isSome_iff_exists.mp (by decide +kernel)
  have hfit : ((settled.ctx? 0).map fun x =>
      let secs := saveSections settled x (saveListOf settled 0)
      decide (¬ 4096 * x.saveSize < sectionsEnd secs) && secs.all (fun b => decide (x.saveBase + b.1 + b.2.length ≤ 0x30000000))
        && x.segments.isEmpty) = some true := by decide +kernel
  simp only [hx, Option.map_some, Option.some.injEq, Bool.and_eq_true, decide_eq_true_eq, List.all_eq_true, List.isEmpty_iff] at hfit
  obtain ⟨⟨hsize, hall⟩, hseg⟩ := hfit
  have hl : (saveListOf settled 0).cores = [] := by decide +kernel
  have hp : ((settled.ctx? 0).map fun x => decide (Placed { settled.setCtx 0 (keepSaved settled (saveListOf settled 0)
      (sectionsEnd (saveSections settled x (saveListOf settled 0)))) with free := settled.free + 1 })) = some true := by decide +kernel
  simp only [hx, Option.map_some, Option.some.injEq, decide_eq_true_eq] at hp
  obtain ⟨t, ht, -, -⟩ := saveAll_placed x.saveBase _ _ hp hall
  rw [saveContext]
  simp only [hcores, List.foldl_nil, hgroups, saveAll, hx, if_neg hsize, hl, hseg]
  split
  · rename_i h
    exact absurd (ht.symm.trans h) (by simp)
  · exact ⟨_, rfl⟩
/-- A machine with a context record of number 63 at host address 0x80, its rings' blocks at 0x1000. -/
def withRecord (s : State) : State :=
  let x := 0x30000000 + 0x1000 * 2 ^ 384 + 0x170000 * 2 ^ 448 + 63 * 2 ^ 944
  { s with mem := (upTo 4).foldl (fun m r => putSome m (hostPA (0x1000 + 32 * r + 8)) [6#8]) (putSome s.mem (hostPA 0x80) (bytesOfNat x 128)) }

theorem witness_ContextCommands :
    let s := mach .addr .nop id withRecord
    s.up = true ∧ SMap.get 0 s.ctxcmd 0 % 4 ≠ 1 ∧ (makeContext s 0 (readNat s (hostPA 0x80) 128)).toOption.map (·.1) = some 63
    ∧ (s.ctx? 0).map (·.status) = some .running := by decide +kernel

/-- A context that is out, and one that is being resumed. -/
def away (st : CtxStatus) (s : State) : State :=
  { s with groups := [], cores := [],
           ctxs := SMap.modify s.ctxs 0 fun c => { c with status := st, saveBase := 0x2000000, saveSize := 4, saveLen := 8192,
                                                          savedModes := [(0, defaultProfile)] } }

theorem witness_ContextCommands_resume :
    let s := mach .addr .nop id (away .out)
    let t := mach .addr .nop id (away .resuming)
    (s.ctx? 0).map (·.status) = some .out ∧ (t.ctx? 0).map (fun x => (x.status, x.resumeFaults, x.faults)) = some (.resuming, [], [])
    ∧ coreOpen t 0 0 = true ∧ t.groups = [] ∧ (t.queues, t.refreshing) = ([], []) ∧ (t.ctx? 0).map (·.segments) = some []
    ∧ ∃ area, igierRead t 0 0x2000000 8192 = .ok area := by
  refine ⟨by decide +kernel, by decide +kernel, by decide +kernel, by decide +kernel, by decide +kernel, by decide +kernel, ?_⟩
  have p : Placed (mach .addr .nop id (away .resuming)) := by decide +kernel
  exact p.read 0x2000000 8192 (by norm_num)

/-- The QCB at 0x140000, not bound. -/
def withQcb (s : State) : State :=
  { withBytes 0x140000 (bytesOfNat (0x150000 + 16 * 2 ^ 64) 64) s with qcbaddr := [(0, 0x140000)] }

/-- A fault of sequence number 7 that lane 15 waits for. -/
def faulted (g : Group) : Group :=
  { g with frA := { hw := [{ id := 1, pc := placePC, members := [15], block := .faults [⟨15, 2, 0x9000, 1⟩] (some [aCode 5 15]) }] } }
def withFault (st : CtxStatus) (s : State) : State :=
  { s with ctxs := SMap.modify s.ctxs 0 fun c => { c with status := st, faults := [{ id := 2, va := 0x9000, kind := 1, seq := some 7 }] } }

theorem witness_QueueAndFaultCommands :
    let s := mach .addr .nop id withQcb
    let t := mach .addr .nop id (withQueue .idle 0)
    let u := fun st => mach .addr .nop faulted (withFault st)
    s.up = true ∧ SMap.get 0 s.qcmd 0 % 4 ≠ 1 ∧ SMap.get 0 s.queuePart 31 = 0 ∧ (s.queue 31).bound = none ∧ (s.ctx? 0).isSome = true
    ∧ SMap.get 0 s.qcbaddr 0 % 64 = 0
    ∧ (igierRead s 0 0x140000 64).toOption = some (bytesOfNat (0x150000 + 16 * 2 ^ 64) 64) ∧ qcbBreaches (0x150000 + 16 * 2 ^ 64) = []
    ∧ (t.queue 31).bound = some 0 ∧ (t.queue 31).stage = .idle ∧ (t.queue 31).faultIds = []
    ∧ ctxRuns (u .out) 0 = false ∧ ctxRuns (u .running) 0 = true ∧ (u .running).groups = [(0, grp faulted)]
    ∧ ((u .running).refreshing, (u .running).queues) = ([], [])
    ∧ ((u .out).ctx? 0).map (fun x => x.faults.find? fun f => f.seq = some 7 && f.answer.isNone) =
        some (some { id := 2, va := 0x9000, kind := 1, seq := some 7 })
    ∧ (grp faulted).frA.entries.map (fun e => (e.block, e.hints)) = [(.faults [⟨15, 2, 0x9000, 1⟩] (some [aCode 5 15]), [])]
    ∧ (grp faulted).status ≠ .parked := by decide +kernel

/-- An invalidation that has been asked for, and one that runs. -/
def withInval (busy : Bool) (s : State) : State :=
  { s with invals := [(63, { (SMap.get {} s.invals 63) with low := 0x10001#64, busy := busy })] }

theorem witness_QueueAndFaultCommands_inval :
    let r := SMap.get {} (mach .addr .nop id (withInval false)).invals 63
    let q := SMap.get {} (mach .addr .nop id (withInval true)).invals 63
    r.busy = false ∧ r.low.toNat < 2 ^ 56 ∧ r.low.toNat / 2 % 2 ^ 15 = 0 ∧ (1#64).toNat < 2 ^ 40 ∧ q.busy = true ∧ q.accs = [] := by
  decide +kernel

/-- An unbound queue that is being unbound, to be freed. -/
theorem witness_QueueAndFaultCommands_free :
    let s := mach .addr .nop id fun s => { s with queues := [(31, { unbinding := true, halted := true })] }
    s.up = true ∧ (s.queue 31).unbinding = true ∧ (s.queue 31).stage = .idle ∧ (s.queue 31).faultIds = [] := by decide +kernel

theorem witness_RegisterWrites :
    let s := State.reset
    s.up = true ∧ clusterOfPart s 0 15 = some 15 ∧ monitorWordOk (2 ^ 63 + 32 * 2 ^ 32 + 15 * 2 ^ 24 + 6) = true
    ∧ (s.monitor (15 * 32 + 31)).due = [] ∧ (SMap.get {} s.invals 63).busy = false
    ∧ ((s.setMonitor 0 fun m => { m with due := [[5]] }).monitor 0).due = [[5]]
    ∧ (∀ k ∈ s.cores, clusterOf k.1 = 15 → k.2.ctx = none) ∧ (s.queue 30).bound = none ∧ (s.queue 31).bound = none := by decide +kernel

/-! ### Witnesses: memory, links, the device -/

/-- A machine with an extent, a granule of it given to partition 0, a full slot 63 on core 255 and a dirty line in core 255's L1. -/
def withDevice (s : State) : State :=
  { s with extents := [(5, { base := 2 ^ 44, len := 2 ^ 28 }), (6, { base := 2 ^ 44 + 2 ^ 28, len := 2 ^ 28, releasing := true })],
           granules := [(0, 0)], msc := [(3, { valid := 15#4, dirty := 1#4 })], links := [15], domainOn := true, domain := 63,
           cores := [(255, { slots := [(63, { state := 2, owner := 0 })], l1 := [(2, ⟨7#1024, 15#4, 1#128⟩)], ctx := some 0 })] }

theorem witness_MemorySystemEvents :
    let s := mach .addr .nop id withDevice
    (SMap.find? (s.core 255).l1 2).isSome = true ∧ normPA s 256 = 256 ∧ tierOf (3 * 128) = .hbm ∧ (SMap.find? s.msc 3).isSome = true
    ∧ tierOf (2 ^ 44 + 128) = .cxl ∧ (2 ^ 44 + 128) % 128 = 0 ∧ (SMap.find? (s.core 255).slots 63).isSome = true
    ∧ (s.core 255).ctx = some 0 ∧ (s.ctx? 0).isSome = true
    ∧ extentOk (2 ^ 44 + 2 ^ 30) (2 ^ 28) = true ∧ (∀ p ∈ s.extents, p.1 ≠ 7 ∧ p.2.meets (2 ^ 44 + 2 ^ 30) (2 ^ 28) = false)
    ∧ (SMap.find? s.extents 5).map (·.revoked) = some false
    ∧ (SMap.find? s.extents 6).map (fun e => (e.releasing, rangeInUse s e.base e.len)) = some (true, false) ∧ regionAt s 126 = none
    ∧ requestBytes 0x70102 = [7#8, 0#8] ∧ requestBytes 0x70404 = [7#8, 0#8, 0#8, 0#8] ∧ 124 / 128 = (124 + 4 - 1) / 128 ∧ s.domainOn = true ∧ 15 ∈ s.links ∧ tierOf 126 = .hbm ∧ 126 / 128 = (126 + 2 - 1) / 128
    ∧ homeCause s 0 0 126 = none ∧ homeCause s 0 0 (2 ^ 44 + 126) = none := by decide +kernel

/-- A machine with a TDI in RUN that owns region 7, and a segment on core 1. -/
def withTdi (s : State) : State :=
  { withSegment (segmentOf 1 0 0) s with tdis := [(9, { state := .run })], regions := [(7, { tdi := 9, base := 0x200000, len := 0x200000 })],
                                         scanctl := 256 }

/-- Core 255 under scan; with a team that wants it. -/
def scanned (s : State) : State := { s with scanctl := 256, cores := s.cores ++ [(255, { scanning := true })] }
def wanted (s : State) : State := { withWaiter (scanned s) with teams := [(1, { groups := [1, 2], core := some 255 })] }

theorem witness_DeviceEvents :
    let s := mach .addr .nop id withTdi
    s.up = true ∧ freeRegion s = some 1 ∧ regionRefused s 9 0x400000 0x200000 = false
    ∧ (SMap.find? s.regions 7).isSome = true ∧ (SMap.get {} s.tdis 9).state = .run ∧ 9 ≠ 0 ∧ 37 / 4 % 2 ^ 16 ≠ 0
    ∧ s.power = .d0 ∧ 4 ≤ s.bringup ∧ ({ s with bringup := 1 } : State).bringup = 1
    ∧ ({ s with agenda := [.enableFunctions], bringup := 4 } : State).agenda = [.enableFunctions]
    ∧ scanAllowed s 1 = true ∧ (scanSegments s 1).length = 1
    ∧ (∀ p ∈ scanSegments s 1, s.seg? p.1 p.2.1 = some p.2.2 ∧ p.2.2.evictable 1 = true)
    ∧ scanAllowed s 255 = true ∧ scanSegments s 255 = []
    ∧ ((mach .addr .nop id scanned).core 255).scanning = true ∧ scanWanted (mach .addr .nop id scanned) 255 = false
    ∧ ((mach .addr .nop id wanted).core 255).scanning = true ∧ scanWanted (mach .addr .nop id wanted) 255 = true := by
  dsimp only; (repeat' with_reducible apply And.intro) <;> decide +kernel

/-! ### Witnesses: the whole machine -/

theorem witness_StepRunsTheDecodedInstruction :
    let s := placeWord State.reset (wordOf .nop)
    let g := placeGroup .comp
    let e : Entry := { id := 0, pc := placePC, members := upTo 16 }
    let v := { afterStep s with agenda := [] }
    s.agenda = [.issue 0 .comp] ∧ v.group? 0 = some g ∧ before v (.issue 0 .comp) = none ∧ nextIssuer v 0 .comp = some 0
    ∧ chooseEntry v g .comp = some e ∧ (fetchWord (takeSlot v 0 .comp { e with age := 0, yieldFor := [] }) g placePC).2 = .word (wordOf .nop)
    ∧ decodeOp (wordOf .nop) = some .nop ∧ e.members.Nodup ∧ CanTrap .comp g e.members (fun _ => ⟨0x000, 0, 1⟩)
    ∧ (match translate s 0 0 placePC.toNat 0 with
      | .ok (pa, _, u) => decide (tierOf pa ≠ .host ∧ homeCause u 0 0 pa = none ∧ poisonAt u pa = none)
      | .error _ => false) = true
    ∧ isWord .deviceReset = false := by
  dsimp only [CanTrap]; (repeat' with_reducible apply And.intro) <;> decide +kernel

/-- A pc in the windows is fetched: FETCH_RANGE. And an issue is due before a cycle. -/
theorem witness_StepRunsTheDecodedInstruction_cause :
    let e : Entry := { id := 0, pc := 0xFFFFFFFF000000#56, members := upTo 16 }
    let g := { placeGroup .comp with frC := { hw := [e] } }
    let v := { afterStep { placeWord State.reset (wordOf .nop) with groups := [(0, g)] } with agenda := [] }
    v.group? 0 = some g ∧ before v (.issue 0 .comp) = none ∧ nextIssuer v 0 .comp = some 0 ∧ chooseEntry v g .comp = some e
    ∧ (fetchWord (takeSlot v 0 .comp { e with age := 0, yieldFor := [] }) g e.pc).2 = .cause ⟨0x001, 0xFFFFFFFF000000, 0⟩
    ∧ CanTrap .comp g e.members (fun _ => ⟨0x001, 0xFFFFFFFF000000, 0⟩)
    ∧ before v (.tick 0) = some (.issue 0 .comp) ∧ before v (.event .deviceReset) = none := by
  dsimp only [CanTrap]; (repeat' with_reducible apply And.intro) <;> decide +kernel

/-- A word that is no instruction is fetched. -/
theorem witness_StepRunsTheDecodedInstruction_none :
    let w : Word := 0x1F#5 ++ 30#5 ++ 0#22
    decodeOp w = none ∧ chooseEntry { afterStep (placeWord State.reset w) with agenda := [] } (placeGroup .comp) .comp
      = some { id := 0, pc := placePC, members := upTo 16 } := by decide +kernel

theorem witness_EveryStepGoesOn : State.reset.cur = none ∧ isWord .deviceReset = false ∧ (mach .comp .nop).cur ≠ none := by
  decide +kernel

theorem witness_DecodingInvertsEncoding :
    Encodable (.iadd ⟨3, 127, 126, 125, true, false⟩) ∧ encode (.iadd ⟨3, 127, 126, 125, true, false⟩) ≠ none := by
  unfold Encodable; decide +kernel

theorem witness_StepsKeepMemoryCanonical : MemoryOk State.reset ∧ BanksOk State.reset ∧ Live State.reset :=
  ⟨by unfold MemoryOk; decide +kernel, by simp [BanksOk, State.reset], _, rfl⟩

theorem witness_BytesReadBack :
    normPA State.reset (2 ^ 40 - 1) = 2 ^ 40 - 1 ∧ normPA State.reset (2 ^ 51) = 2 ^ 51 ∧ 2 ^ 64 - 1 < 2 ^ (8 * 8) := by decide +kernel

/-- A word of a reserved selector that the placed group fetches, and one handler thread. -/
theorem witness_UnarySelectors :
    let w : Word := 0x05#5 ++ 0#2 ++ 0#2 ++ 0#7 ++ 0#7 ++ 0x7F#7 ++ 0#2
    let s := placeWord State.reset w
    let e : Entry := { id := 0, pc := placePC, members := upTo 16 }
    let v := { afterStep s with agenda := [] }
    v.group? 0 = some (placeGroup .comp) ∧ chooseEntry v (placeGroup .comp) .comp = some e ∧ w.toNat / 4 % 128 = 0x7F ∧ w.extractLsb' 27 5 = 0x05#5 ∧ w.extractLsb' 25 2 = 0#2
    ∧ before v (.issue 0 .comp) = none ∧ nextIssuer v 0 .comp = some 0
    ∧ (fetchWord (takeSlot v 0 .comp { e with age := 0, yieldFor := [] }) (placeGroup .comp) placePC).2 = .word w
    ∧ CanTrap .comp (placeGroup .comp) e.members (fun _ => ⟨0x000, w.toNat, 1⟩) := by
  dsimp only [CanTrap]; (repeat' with_reducible apply And.intro) <;> decide +kernel

theorem witness_HandlersRestTheDeadlockCount :
    let g := (grp stuck).setThread 0 fun t => t.setStrand .addr fun r => { r with th := true }
    (g.thread 0).addr.th = true ∧ (g.deadlocked 0).isSome = true := by decide +kernel

theorem witness_CodewordsAreCanonical : (∀ n ∈ [3, 0, 1, 12], n ≤ 12) ∧ kraftSum [3, 0, 1, 12] < 4096 := by decide +kernel

-- Lengths 2, 1, 3, 3 give 10, 0, 110, 111 (R217).
theorem test_codewords : codewords [2, 1, 3, 3] = [(1, 1, 0), (0, 2, 2), (2, 3, 6), (3, 3, 7)] := by decide +kernel

end Sys2Proof.Tests
end

section
/-! SUPPORT. The UNARY class of words (R77) and the decoding of an instruction's own word. -/

namespace Sys2Proof.Machine

open Sys2Proof

/-! ### A word and its instruction -/

/-- The converse of `Laws.encode_of_decodeWord` where the operation is known. -/
theorem decodeWord_eq_some {w : Word} {i : Instr} (hop : decodeOp w = some i) (henc : encode i = some w) :
    decodeWord w = some i := by
  simp [decodeWord, hop, henc]

theorem decodeWord_eq_none {w : Word} (hop : decodeOp w = none) : decodeWord w = none := by
  simp [decodeWord, hop]

/-! ### The UNARY class -/

/-- The operations of the UNARY class by their selectors (R77). -/
def unaryTable (f : UnOps) : List (Nat × Instr) :=
  [(0x00, .inot f), (0x01, .ineg f), (0x02, .iabs f), (0x03, .popc f), (0x04, .clz f), (0x05, .ctz f), (0x06, .brev f),
   (0x10, .fneg f), (0x11, .fabs f), (0x12, .ffloor f), (0x13, .fceil f), (0x14, .ftrunc f), (0x15, .frint f), (0x16, .frcp f),
   (0x17, .frsq f), (0x18, .fsqrt f), (0x19, .fexp2 f), (0x1A, .flog2 f), (0x1B, .ftanh f), (0x1C, .fsin f), (0x1D, .fcos f)]

/-- The operation that a selector names. -/
def unaryOf (f : UnOps) (sel : Nat) : Option Instr := ((unaryTable f).find? fun p => p.1 = sel).map (·.2)

theorem mem_unaryTable_of_unaryOf {f : UnOps} {sel : Nat} {i : Instr} (h : unaryOf f sel = some i) : (sel, i) ∈ unaryTable f := by
  obtain ⟨p, hp, rfl⟩ := Option.map_eq_some_iff.mp h
  have hsel : p.1 = sel := by simpa using List.find?_some hp
  exact hsel ▸ List.mem_of_find?_eq_some hp

theorem unaryTable_selectors (f : UnOps) : ∀ p ∈ unaryTable f, p.1 ≤ 0x06 ∨ (0x10 ≤ p.1 ∧ p.1 ≤ 0x1D) := by
  simp [unaryTable]

theorem unaryOf_reserved (f : UnOps) {sel : Nat} (h : (0x07 ≤ sel ∧ sel ≤ 0x0F) ∨ 0x1E ≤ sel) : unaryOf f sel = none := by
  simp only [unaryOf, Option.map_eq_none_iff, List.find?_eq_none, decide_eq_true_eq]
  intro p hp hsel
  have := unaryTable_selectors f p hp
  omega

theorem encode_unaryTable (f : UnOps) : ∀ p ∈ unaryTable f, encode p.2 = some (f.enc 0x05#5 (BitVec.ofNat 7 p.1)) := by
  simp only [unaryTable, List.forall_mem_cons, List.not_mem_nil, false_implies, implies_true, and_true]
  repeat' apply And.intro
  all_goals rfl

theorem UnOps.enc_fields (m : BitVec 5) (sel : BitVec 7) (f : UnOps) :
    (f.enc m sel).extractLsb' 27 5 = m ∧ (f.enc m sel).extractLsb' 25 2 = 0#2 ∧ (f.enc m sel).extractLsb' 23 2 = f.w
      ∧ (f.enc m sel).extractLsb' 16 7 = f.vd ∧ (f.enc m sel).extractLsb' 9 7 = f.va
      ∧ (f.enc m sel).extractLsb' 2 7 = sel ∧ (f.enc m sel).getLsbD 1 = f.ea := by
  unfold UnOps.enc
  refine ⟨?major, ?fn, ?w, ?vd, ?va, ?sel, ?ea⟩
  case ea => rw [BitVec.getLsbD_append, BitVec.getLsbD_append]; simp
  all_goals repeat rw [BitVec.extractLsb'_append_eq_of_le (by decide)]
  case major => exact BitVec.extractLsb'_eq_self
  all_goals exact BitVec.extractLsb'_append_eq_right

/-- A word of the class is decoded by its selector, whatever its lowest bit holds. -/
theorem decodeOp_unary {w : Word} (hmajor : w.extractLsb' 27 5 = 0x05#5) (hfn : w.extractLsb' 25 2 = 0#2) :
    decodeOp w = unaryOf (UnOps.dec w) (w.extractLsb' 2 7).toNat := by
  have hop : decodeOp w = decodeMajor05 w := by simp [decodeOp, hmajor]
  rw [hop]
  unfold decodeMajor05
  rw [hfn]
  simp only [BitVec.toNat_ofNat, Nat.zero_mod]
  generalize (w.extractLsb' 2 7).toNat = sel
  split
  case h_22 =>
    simp only [imp_false] at *
    exact (unaryOf_reserved _ (by omega)).symm
  all_goals rfl

theorem decodeWord_unary (sel : BitVec 7) (f : UnOps) : decodeWord (f.enc 0x05#5 sel) = unaryOf f sel.toNat := by
  have hop : decodeOp (f.enc 0x05#5 sel) = unaryOf f sel.toNat := by
    obtain ⟨hmajor, hfn, hw, hvd, hva, hsel, hea⟩ := UnOps.enc_fields 0x05#5 sel f
    rw [decodeOp_unary hmajor hfn, UnOps.dec, hw, hvd, hva, hsel, hea]
  cases h : unaryOf f sel.toNat with
  | none => exact decodeWord_eq_none (hop.trans h)
  | some i =>
    have henc : encode i = some (f.enc 0x05#5 sel) := by simpa using encode_unaryTable f _ (mem_unaryTable_of_unaryOf h)
    exact decodeWord_eq_some (hop.trans h) henc

theorem decodeOp_unary_reserved {w : Word} (hmajor : w.extractLsb' 27 5 = 0x05#5) (hfn : w.extractLsb' 25 2 = 0#2)
    (h : (0x07 ≤ w.toNat / 4 % 128 ∧ w.toNat / 4 % 128 ≤ 0x0F) ∨ 0x1E ≤ w.toNat / 4 % 128) : decodeOp w = none := by
  have hsel : (w.extractLsb' 2 7).toNat = w.toNat / 4 % 128 := by
    rw [BitVec.extractLsb'_toNat, Nat.shiftRight_eq_div_pow]
  rw [decodeOp_unary hmajor hfn, hsel, unaryOf_reserved _ h]

end Sys2Proof.Machine
end

section
/-! SUPPORT. The issue of a word that is no instruction: what the fetch and the issue slot leave of the threads, and the entry of the
members into their handlers (R67, R162). -/

namespace Sys2Proof.Machine

open Sys2Proof

/-! ### Threads of a group -/

/-- The threads of a group, where it exists. -/
def State.threads? (s : State) (k : Nat) : Option (List Thread) := (s.group? k).map (·.threads)

theorem State.threads?_eq_some {s : State} {k : Nat} {ts : List Thread} :
    s.threads? k = some ts ↔ ∃ g, s.group? k = some g ∧ g.threads = ts := Option.map_eq_some_iff

theorem State.threads?_congr {s t : State} (h : t.groups = s.groups) (k : Nat) : t.threads? k = s.threads? k := by
  simp only [State.threads?, State.group?, h]

theorem State.threads?_setGroup (s : State) (k : Nat) {f : Group → Group} (h : ∀ g, (f g).threads = g.threads) (j : Nat) :
    (s.setGroup k f).threads? j = s.threads? j := by
  simp only [State.threads?, State.setGroup_group?]
  split
  · cases s.group? j <;> simp [h]
  · rfl

theorem listModify_eq_modify {α : Type} (l : List α) (n : Nat) (f : α → α) : listModify l n f = l.modify n f := by
  induction l generalizing n with
  | nil => simp [listModify]
  | cons x xs ih => cases n <;> simp [listModify, ih]

theorem Group.thread_setThread_other (g : Group) {l m : Nat} (f : Thread → Thread) (h : m ≠ l) :
    (g.setThread l f).thread m = g.thread m := by
  simp [Group.thread, Group.setThread, listModify_eq_modify, List.getElem?_modify_ne f _ h.symm]

theorem Group.thread_setThread_self (g : Group) {l : Nat} (f : Thread → Thread) (h : l < g.threads.length) :
    (g.setThread l f).thread l = f (g.thread l) := by
  simp [Group.thread, Group.setThread, listModify_eq_modify, h]

/-- A lane beyond the threads of a group reads as the thread that holds nothing. -/
theorem Group.thread_of_length_le (g : Group) {l : Nat} (h : g.threads.length ≤ l) : g.thread l = {} := by
  simp [Group.thread, h]

theorem Group.thread_congr {g h : Group} (e : h.threads = g.threads) (l : Nat) : h.thread l = g.thread l := by
  simp only [Group.thread, e]

@[simp] theorem Thread.strand_setStrand (t : Thread) (st : Strand) (f : StrandRegs → StrandRegs) :
    (t.setStrand st f).strand st = f (t.strand st) := by cases st <;> rfl

/-- A change that a strand's registers do not show may be made at any lane. -/
theorem Group.strand_setThread (g : Group) (l m : Nat) {f : Thread → Thread} {st : Strand}
    (hf : ∀ t, (f t).strand st = t.strand st) : ((g.setThread l f).thread m).strand st = (g.thread m).strand st := by
  by_cases hml : m = l
  · subst hml
    rcases Nat.lt_or_ge m g.threads.length with hm | hm
    · rw [g.thread_setThread_self f hm, hf]
    · rw [g.thread_of_length_le hm, Group.thread_of_length_le]
      simpa [Group.setThread, listModify_eq_modify] using hm
  · rw [g.thread_setThread_other f hml]

/-! ### What the fetch of a word leaves alone -/

@[simp] theorem mscTouch_groups (s : State) (pa n : Nat) (d : Bool) : (mscTouch s pa n d).groups = s.groups := by
  unfold mscTouch; dsimp only; split <;> rfl

/-- A translation, where it succeeds, hands back the groups of `s`. -/
def KeepsGroups (s : State) (r : Except Nat (Nat × Nat × State)) : Prop := ∀ pa leaf t, r = .ok (pa, leaf, t) → t.groups = s.groups

@[simp] theorem keepsGroups_ok {s t : State} {pa leaf : Nat} : KeepsGroups s (.ok (pa, leaf, t)) ↔ t.groups = s.groups := by
  simp [KeepsGroups]

@[simp] theorem keepsGroups_map (s : State) (x : Except Nat (Nat × Nat)) : KeepsGroups s (x.map fun p => (p.1, p.2, s)) := by
  cases x <;> simp [KeepsGroups, Except.map]

/-- Whether a TLB holds the translation or the tables are walked, only TLBs and walk caches change. -/
theorem translate_keepsGroups (s : State) (ctx core va kind : Nat) : KeepsGroups s (translate s ctx core va kind) := by
  unfold translate
  dsimp only
  repeat' split
  all_goals simp

@[simp] theorem fetchWord_groups (s : State) (g : Group) (pc : VAddr) : (fetchWord s g pc).1.groups = s.groups := by
  unfold fetchWord
  dsimp only
  split
  · rfl
  split
  · rfl
  next ht =>
    have hg := translate_keepsGroups _ _ _ _ _ _ _ _ ht
    repeat' split
    all_goals simp [readHome, hg]

@[simp] theorem takeSample_groups (s : State) (cl mon x : Nat) : (takeSample s cl mon x).groups = s.groups := by
  unfold takeSample
  dsimp only
  split <;> rfl

@[simp] theorem sample_groups (s : State) (core ctx source x : Nat) : (sample s core ctx source x).groups = s.groups := by
  unfold sample
  generalize upTo 32 = ms
  induction ms generalizing s with
  | nil => rfl
  | cons m ms ih =>
    rw [List.foldl_cons, ih]
    dsimp only
    split
    · exact takeSample_groups ..
    · rfl

/-! ### What the issue slot leaves alone -/

@[simp] theorem stillAwaited_threads (s : State) (g : Group) (st : Strand) : (stillAwaited s g st).threads = g.threads := by
  simp [stillAwaited]

@[simp] theorem pruneYield_threads (s : State) (g : Group) (st : Strand) (id : Nat) : (pruneYield s g st id).threads = g.threads := by
  simp [pruneYield]

@[simp] theorem closeBoth_threads (s : State) (g : Group) : (closeBoth s g).threads = g.threads := by
  simp [closeBoth, closeWaiting]

theorem takeSlot_threads? (s : State) (gk : Nat) (st : Strand) (e : Entry) (k : Nat) :
    (takeSlot s gk st e).threads? k = s.threads? k :=
  State.threads?_setGroup _ gk (by simp) k

/-! ### Members take their causes -/

theorem canTrap_congr {st : Strand} {g h : Group} {ls : List Nat} {c : Nat → Cause} (hc : CanTrap st g ls c)
    (e : ∀ l ∈ ls, (h.thread l).strand st = (g.thread l).strand st) : CanTrap st h ls c := by
  intro l hl
  rw [e l hl]
  exact hc l hl

/-- One thread takes a cause that its handler takes, and no other thread changes. -/
theorem Group.trap_trapped {g : Group} {st : Strand} {l : Nat} {c : Cause} (tpc : VAddr)
    (hth : ((g.thread l).strand st).th = false) (hvec : ((g.thread l).strand st).tvec ≠ 0#64) :
    ∃ h, g.trap st l c tpc = .ok h ∧ (h.thread l).strand st = trapped ((g.thread l).strand st) c tpc
      ∧ ∀ m, m ≠ l → h.thread m = g.thread m := by
  have hlen : l < g.threads.length := by
    by_contra hle
    rw [g.thread_of_length_le (Nat.le_of_not_lt hle)] at hvec
    cases st <;> exact hvec rfl
  refine ⟨(g.setStrand st l fun _ => trapped ((g.thread l).strand st) c tpc).join st
      (((g.thread l).strand st).tvec.truncate 56) [] [l], ?_, ?_, fun m hm => ?_⟩
  · simp [Group.trap, hth, hvec, trapped]
  · rw [Group.thread_congr (Group.join_threads ..), Group.setStrand, Group.thread_setThread_self _ _ hlen,
      Thread.strand_setStrand]
  · rw [Group.thread_congr (Group.join_threads ..), Group.setStrand, Group.thread_setThread_other _ _ hm]

/-- Distinct lanes that can take their causes take them, and no other thread changes (R162). -/
theorem trapLanes_trapped {st : Strand} {c : Nat → Cause} {gk : Nat} (tpc : VAddr) {ls : List Nat} (hnd : ls.Nodup) {s : State}
    {g : Group} (hg : s.group? gk = some g) (hc : CanTrap st g ls c) :
    ∃ g', (trapLanes s gk st tpc (ls.map fun l => (l, c l))).group? gk = some g'
      ∧ (∀ l ∈ ls, (g'.thread l).strand st = trapped ((g.thread l).strand st) (c l) tpc)
      ∧ ∀ l ∉ ls, g'.thread l = g.thread l := by
  induction ls generalizing s g with
  | nil => exact ⟨g, by simpa [trapLanes] using hg⟩
  | cons l ls ih =>
    obtain ⟨hl, hnd⟩ := List.nodup_cons.mp hnd
    obtain ⟨⟨hth, hvec, hfatal⟩, hrest⟩ := List.forall_mem_cons.mp hc
    obtain ⟨h, htrap, hself, hother⟩ := Group.trap_trapped (c := c l) tpc hth hvec
    have hstep : trapLanes s gk st tpc ((l :: ls).map fun l => (l, c l))
        = trapLanes (s.setGroup gk fun _ => h) gk st tpc (ls.map fun l => (l, c l)) := by
      simp [trapLanes, hg, hfatal, htrap]
    have hne : ∀ m ∈ ls, m ≠ l := fun m hm => ne_of_mem_of_not_mem hm hl
    obtain ⟨g', hg', hin, hout⟩ := ih hnd (s := s.setGroup gk fun _ => h) (g := h) (by simp [hg])
      (canTrap_congr hrest fun m hm => by rw [hother m (hne m hm)])
    refine ⟨g', hstep ▸ hg', List.forall_mem_cons.mpr ⟨?_, fun m hm => ?_⟩, fun m hm => ?_⟩
    · rw [hout l hl, hself]
    · rw [hin m hm, hother m (hne m hm)]
    · obtain ⟨hml, hm⟩ : m ≠ l ∧ m ∉ ls := by simpa using hm
      rw [hout m hm, hother m hml]

/-- An issue whose every member takes a cause ends in their traps alone: no thread changes before them. -/
theorem finish_eq_trapLanes (s : State) (iss : Issue) (ls : List Nat) (c : Nat → Cause) :
    ∃ t, finish s iss (ls.map fun l => (l, .trap (c l)))
        = trapLanes t iss.group iss.strand iss.entry.seqPc (ls.map fun l => (l, c l))
      ∧ ∀ k, t.threads? k = s.threads? k := by
  refine ⟨?t, ?finish, ?threads⟩
  case finish =>
    simp only [finish, List.filterMap_map, Function.comp_def, List.filterMap_eq_map']
    rfl
  case threads => exact State.threads?_setGroup { s with cur := none } iss.group (by simp)

/-- An issue whose every member takes a cause that its handler takes (R67, R162). -/
theorem finish_trapped {s : State} {iss : Issue} {g : Group} {ls : List Nat} {c : Nat → Cause} (hnd : ls.Nodup)
    (hg : s.group? iss.group = some g) (hc : CanTrap iss.strand g ls c) :
    ∃ g', (finish s iss (ls.map fun l => (l, .trap (c l)))).group? iss.group = some g'
      ∧ ∀ l ∈ ls, (g'.thread l).strand iss.strand = trapped ((g.thread l).strand iss.strand) (c l) iss.entry.seqPc := by
  obtain ⟨t, ht, hthreads⟩ := finish_eq_trapLanes s iss ls c
  obtain ⟨h, hh, hsame⟩ := State.threads?_eq_some.mp ((hthreads iss.group).trans (State.threads?_eq_some.mpr ⟨g, hg, rfl⟩))
  have hthread : ∀ l, h.thread l = g.thread l := Group.thread_congr hsame
  obtain ⟨g', hg', hin, -⟩ := trapLanes_trapped iss.entry.seqPc hnd hh (canTrap_congr hc fun l _ => by rw [hthread])
  exact ⟨g', ht ▸ hg', fun l hl => by rw [hin l hl, hthread]⟩

theorem Group.strand_resetDeadlock (g : Group) (ls : List Nat) (st : Strand) (l : Nat) :
    ((ls.foldl (fun g l => g.setThread l fun t => { t with deadlock := 0 }) g).thread l).strand st = (g.thread l).strand st := by
  induction ls generalizing g with
  | nil => rfl
  | cons m ms ih => rw [List.foldl_cons, ih, Group.strand_setThread]; intro t; cases st <;> rfl

theorem resetDeadlock_strand {s : State} {iss : Issue} {g : Group} (hg : s.group? iss.group = some g) :
    ∃ h, (resetDeadlock s iss).group? iss.group = some h ∧ ∀ st l, (h.thread l).strand st = (g.thread l).strand st :=
  ⟨_, by simp [resetDeadlock, hg], fun st l => Group.strand_resetDeadlock { g with idle := 0, idleDue := false } iss.entry.members st l⟩

/-! ### The step that issues -/

theorem step_of_beginIssue {s t : State} {gk : Nat} {st : Strand} {rest : List Move} (ha : s.agenda = .issue gk st :: rest)
    (hb : before { afterStep s with agenda := rest } (.issue gk st) = none)
    (ht : beginIssue { afterStep s with agenda := rest } gk st = (t, none)) : step s = .next t := by
  simp [step, takeMove, ha, startMove, hb, makeMove, ht]

/-- The entry that a strand issues: its wait age begins anew, and it waits for no other entry (R25, R136). -/
def Entry.begun (e : Entry) : Entry := { e with age := 0, yieldFor := [] }

section
variable {s u : State} {gk : Nat} {st : Strand} {g : Group} {e : Entry} {w : Word}

theorem beginIssue_undecoded (hg : s.group? gk = some g) (hn : nextIssuer s g.core st = some gk)
    (he : chooseEntry s g st = some e) (hw : fetchWord (takeSlot s gk st e.begun) g e.pc = (u, .word w))
    (hop : decodeOp w = none) :
    ∃ t, t.groups = u.groups ∧ beginIssue s gk st =
      (finish (resetDeadlock t ⟨gk, st, e.begun, w⟩) ⟨gk, st, e.begun, w⟩ (e.members.map fun l => (l, .trap ⟨0x000, w.toNat, 1⟩)),
        none) := by
  unfold Entry.begun at hw
  refine ⟨if e.block.issued then u else sample u g.core g.ctx 6 (g.frontier st).entries.length, ?_, ?_⟩
  · split
    · rfl
    · exact sample_groups ..
  · simp only [beginIssue, hg, hn, he, hw, hop, bne_self_eq_false, Bool.false_eq_true, if_false, Entry.begun]

/-- The issue of a word of no assigned operation: every member takes ILLEGAL_ENCODING with reason 1, at the first word of the entry's
sequence (R67, R85, R162). -/
theorem beginIssue_undecoded_trapped (hg : s.group? gk = some g) (hn : nextIssuer s g.core st = some gk)
    (he : chooseEntry s g st = some e) (hw : fetchWord (takeSlot s gk st e.begun) g e.pc = (u, .word w))
    (hop : decodeOp w = none) (hnd : e.members.Nodup) (hc : CanTrap st g e.members fun _ => ⟨0x000, w.toNat, 1⟩) :
    ∃ t g', beginIssue s gk st = (t, none) ∧ t.group? gk = some g'
      ∧ ∀ l ∈ e.members, (g'.thread l).strand st = trapped ((g.thread l).strand st) ⟨0x000, w.toNat, 1⟩ e.seqPc := by
  obtain ⟨t, ht, hissue⟩ := beginIssue_undecoded hg hn he hw hop
  have hthreads : t.threads? gk = some g.threads := by
    have hu : u.groups = (takeSlot s gk st e.begun).groups := by
      simpa [hw] using fetchWord_groups (takeSlot s gk st e.begun) g e.pc
    rw [State.threads?_congr (ht.trans hu), takeSlot_threads?]
    exact State.threads?_eq_some.mpr ⟨g, hg, rfl⟩
  obtain ⟨h, hh, hsame⟩ := State.threads?_eq_some.mp hthreads
  obtain ⟨k, hk, hstrand⟩ := resetDeadlock_strand (iss := ⟨gk, st, e.begun, w⟩) hh
  have hkept : ∀ l, (k.thread l).strand st = (g.thread l).strand st := fun l => by rw [hstrand, Group.thread_congr hsame]
  obtain ⟨g', hg', htrapped⟩ := finish_trapped (iss := ⟨gk, st, e.begun, w⟩) hnd hk (canTrap_congr hc fun l _ => hkept l)
  exact ⟨_, g', hissue, hg', fun l hl => (htrapped l hl).trans (by rw [hkept l]; rfl)⟩
end

end Sys2Proof.Machine
end

section
/-! The statements about the instruction words. -/

namespace Sys2Proof.Proofs

open Sys2Proof Sys2Proof.Machine

/-- Settles O54: a word of the class is decoded by its selector alone (`decodeWord_unary`), and one with a reserved selector is that of
no operation, so that its issue traps every member (`beginIssue_undecoded_trapped`). -/
theorem unarySelectors : Obligations.UnarySelectors := by
  unfold Obligations.UnarySelectors
  refine ⟨fun w vd va sel ea => decodeWord_unary sel ⟨w, vd, va, ea⟩, ?_⟩
  intro s u gk st rest g e w hagenda v hg hbefore hnext he hfetch hmajor hfn hsel hnd hc
  obtain ⟨t, g', hissue, hg', htrapped⟩ :=
    beginIssue_undecoded_trapped hg hnext he hfetch (decodeOp_unary_reserved hmajor hfn hsel) hnd hc
  exact ⟨t, g', step_of_beginIssue hagenda hbefore hissue, hg', htrapped⟩

/-- Settles O57: each worked word is the encoding of the instruction that it names (`decodeWord_eq_some`); what its immediates say, and
the least reason of each refused word, is computed from the word. -/
theorem workedEncodings : Obligations.WorkedEncodings := by
  unfold Obligations.WorkedEncodings
  have values : immInt [] 0x064#10 = 100 ∧ immInt [0xFE000061#32] 0x2A0#10 = 100000 ∧ immInt [] 4#9 * 4 = 16
      ∧ (imm64 [] 0x3FC0#14).toInt = -64 ∧ 0x0120#56 + BitVec.ofInt 56 (4 * immInt [] 0x1FFF8#17) = 0x0100#56 := by decide
  obtain ⟨addend, extended, offset, negative, target⟩ := values
  have unassigned : decodeWord (0x1F#5 ++ 30#5 ++ 0#22) = none := decodeWord_eq_none rfl
  refine ⟨?iadd, ?fmac, ?iaddi, addend, ?hImm, ?iaddiExtended, extended, ?ldq, offset, ?aaddi, negative, ?brt, target, ?pop,
    ?reasonAlign, ?reasonOverlap, ?reasonStrand, ?reasonScalar, unassigned⟩
  case reasonAlign | reasonOverlap | reasonStrand | reasonScalar => decide
  all_goals exact decodeWord_eq_some rfl rfl

end Sys2Proof.Proofs
end

section
/-! SUPPORT. What a cycle of a core's clock leaves alone in a thread with a strand in its handler (R165, R372). -/

namespace Sys2Proof.Machine

open Sys2Proof

theorem SMap.find?_map {α β : Type} (m : SMap α) (f : Nat × α → β) (k : Nat) :
    SMap.find? (m.map fun p => (p.1, f p)) k = (SMap.find? m k).map fun v => f (k, v) := by
  induction m with
  | nil => rfl
  | cons p m ih =>
    rw [List.map_cons, SMap.find?_cons, SMap.find?_cons, ih]
    split
    next hk => rw [hk, Option.map_some]
    · rfl

/-- A cycle ages a group that is on the core and whose context runs, once what it waits for is closed; it leaves every other alone. -/
theorem coreTick_group? {s : State} {core gk : Nat} {g : Group} (hg : s.group? gk = some g) :
    ∃ h, (coreTick s core).group? gk = some h ∧ (h = ageGroup s (closeBoth s g) ∨ h = g) := by
  refine ⟨_, (SMap.find?_map s.groups _ gk).trans (congrArg (Option.map _) hg), ?_⟩
  dsimp only
  split
  · exact .inl rfl
  · exact .inr rfl

section
variable {g : Group} {l : Nat} (hth : (g.thread l).comp.th = true ∨ (g.thread l).addr.th = true)
include hth

/-- The count of each lane is stepped by itself, and that of a lane with a strand in its handler is passed over (R165). -/
theorem Group.thread_countDeadlock_of_handler : g.countDeadlock.thread l = g.thread l := by
  unfold Group.countDeadlock
  refine List.foldlRecOn (motive := fun h : Group => h.thread l = g.thread l) _ _ rfl fun h hkept m _ => ?_
  by_cases hlm : l = m
  · subst hlm
    have hrests : ((g.thread l).comp.th || (g.thread l).addr.th) = true := (Bool.or_eq_true ..).mpr hth
    simp only [hkept, hrests, Bool.true_or, if_true]
  · dsimp only
    split
    · exact hkept
    · rw [Group.thread_setThread_other h _ hlm, hkept]

/-- Only a RESIDENT group counts, so ageing changes no such thread, whatever the status of its group (R23, R35). -/
theorem ageGroup_thread_of_handler (s : State) : (ageGroup s g).thread l = g.thread l := by
  unfold ageGroup
  split
  case h_1 => exact Group.thread_countDeadlock_of_handler hth
  all_goals rfl

/-- The whole thread stays as it is, its deadlock count with it. -/
theorem coreTick_thread_of_handler {s : State} {core gk : Nat} (hg : s.group? gk = some g) :
    ∃ h, (coreTick s core).group? gk = some h ∧ h.thread l = g.thread l := by
  obtain ⟨h, hh, rfl | rfl⟩ := coreTick_group? (core := core) hg
  · have hclosed : (closeBoth s g).thread l = g.thread l := Group.thread_congr (closeBoth_threads s g) l
    exact ⟨_, hh, (ageGroup_thread_of_handler (by rwa [hclosed]) s).trans hclosed⟩
  · exact ⟨h, hh, rfl⟩
end

theorem exec_coreCycle (core : Nat) (s : State) : exec (.coreCycle core) s = .next (coreTick s core) := rfl

end Sys2Proof.Machine
end

section
/-! The statements about traps. -/

namespace Sys2Proof.Proofs

open Sys2Proof Sys2Proof.Machine

/-- Settles O45: a cycle of a core leaves the whole of such a thread as it was (`coreTick_thread_of_handler`). -/
theorem handlersRestTheDeadlockCount : Obligations.HandlersRestTheDeadlockCount := by
  unfold Obligations.HandlersRestTheDeadlockCount
  intro s core gk l g hg hth
  obtain ⟨h, hh, hthread⟩ := coreTick_thread_of_handler (core := core) hth hg
  exact ⟨_, h, exec_coreCycle core s, hh, congrArg Thread.deadlock hthread⟩

end Sys2Proof.Proofs
end

section
/-! SUPPORT. The codewords of a code table (R216, R217): the present symbols in their order, the assignment as a recursion along them,
and the part of the bit strings that the codewords cover. -/

namespace Sys2Proof.Machine

open Sys2Proof

/-! ### The present symbols -/

/-- The symbols of one length, by value. -/
def symbolsOfLength (ls : List Nat) (n : Nat) : List (Nat × Nat) :=
  ((upTo ls.length).filter fun s => ls.getD s 0 = n).map fun s => (s, n)

/-- The present symbols with their lengths, by length and then by value (R217). -/
def presentSymbols (ls : List Nat) : List (Nat × Nat) :=
  (upTo 13).flatMap fun n => if n = 0 then [] else symbolsOfLength ls n

theorem mem_symbolsOfLength {ls : List Nat} {m s n : Nat} :
    (s, n) ∈ symbolsOfLength ls m ↔ s < ls.length ∧ n = ls.getD s 0 ∧ n = m := by
  simp only [symbolsOfLength, upTo, List.mem_map, List.mem_filter, List.mem_range, decide_eq_true_eq, Prod.mk.injEq]
  constructor
  · rintro ⟨t, ⟨ht, hlen⟩, rfl, rfl⟩
    exact ⟨ht, hlen.symm, rfl⟩
  · rintro ⟨hs, hlen, rfl⟩
    exact ⟨s, ⟨hs, hlen.symm⟩, rfl, rfl⟩

theorem symbolsOfLength_sorted (ls : List Nat) (n : Nat) : (symbolsOfLength ls n).Pairwise fun p q => p.1 < q.1 :=
  List.pairwise_map.mpr (List.pairwise_lt_range.filter _)

theorem getD_le_of_forall_le {ls : List Nat} {m : Nat} (hm : ∀ n ∈ ls, n ≤ m) {s : Nat} (hs : s < ls.length) : ls.getD s 0 ≤ m := by
  rw [List.getD_eq_getElem _ _ hs]
  exact hm _ (List.getElem_mem hs)

theorem mem_presentSymbols {ls : List Nat} (h12 : ∀ n ∈ ls, n ≤ 12) {s n : Nat} :
    (s, n) ∈ presentSymbols ls ↔ s < ls.length ∧ n = ls.getD s 0 ∧ n ≠ 0 := by
  simp only [presentSymbols, upTo, List.mem_flatMap, List.mem_range, List.mem_ite_nil_left, mem_symbolsOfLength]
  constructor
  · rintro ⟨m, -, hm, hs, hlen, rfl⟩
    exact ⟨hs, hlen, hm⟩
  · rintro ⟨hs, hlen, hn⟩
    exact ⟨n, Nat.lt_succ_of_le (hlen ▸ getD_le_of_forall_le h12 hs), hn, hs, hlen, rfl⟩

theorem presentSymbols_sorted (ls : List Nat) :
    (presentSymbols ls).Pairwise fun p q => p.2 < q.2 ∨ (p.2 = q.2 ∧ p.1 < q.1) := by
  refine List.pairwise_flatMap.mpr ⟨fun n _ => ?within, List.pairwise_lt_range.imp fun hmn p hp q hq => .inl ?across⟩
  case within =>
    split
    · exact .nil
    · refine (symbolsOfLength_sorted ls n).imp_of_mem fun hp hq hpq => .inr ⟨?_, hpq⟩
      obtain ⟨-, -, hp⟩ := mem_symbolsOfLength.mp hp
      obtain ⟨-, -, hq⟩ := mem_symbolsOfLength.mp hq
      exact hp.trans hq.symm
  case across =>
    obtain ⟨-, -, hp⟩ := mem_symbolsOfLength.mp (List.mem_ite_nil_left.mp hp).2
    obtain ⟨-, -, hq⟩ := mem_symbolsOfLength.mp (List.mem_ite_nil_left.mp hq).2
    rwa [hp, hq]

theorem presentSymbols_nodup {ls : List Nat} (h12 : ∀ n ∈ ls, n ≤ 12) : ((presentSymbols ls).map Prod.fst).Nodup := by
  refine List.Nodup.map_on (fun p hp q hq hsym => ?_) ((presentSymbols_sorted ls).imp fun hpq heq => ?_)
  · obtain ⟨-, hlp, -⟩ := (mem_presentSymbols h12).mp hp
    obtain ⟨-, hlq, -⟩ := (mem_presentSymbols h12).mp hq
    exact Prod.ext hsym (by rw [hlp, hlq, hsym])
  · subst heq
    omega

/-! ### The Kraft sum -/

/-- What a symbol adds to the Kraft sum (R216). -/
def kraftTerm (ls : List Nat) (s : Nat) : Nat := if ls.getD s 0 = 0 then 0 else 2 ^ (12 - ls.getD s 0)

theorem kraftTerm_of_present {ls : List Nat} (h12 : ∀ n ∈ ls, n ≤ 12) {p : Nat × Nat} (hp : p ∈ presentSymbols ls) :
    kraftTerm ls p.1 = 2 ^ (12 - p.2) := by
  obtain ⟨-, hlen, hne⟩ := (mem_presentSymbols h12).mp hp
  rw [kraftTerm, ← hlen, if_neg hne]

theorem kraftSum_eq_sum_kraftTerm (ls : List Nat) : kraftSum ls = ((upTo ls.length).map (kraftTerm ls)).sum := by
  have hfold (k : Nat) : ls.foldl (fun s n => if n = 0 then s else s + 2 ^ (12 - n)) k
      = k + ((List.range ls.length).map (kraftTerm ls)).sum := by
    induction ls generalizing k with
    | nil => rfl
    | cons n ls ih =>
      have hhead : (if n = 0 then k else k + 2 ^ (12 - n)) = k + kraftTerm (n :: ls) 0 := by
        rw [kraftTerm, List.getD_cons_zero]
        split <;> rfl
      rw [List.foldl_cons, ih, hhead, List.length_cons, List.range_succ_eq_map, List.map_cons, List.sum_cons, List.map_map,
        Nat.add_assoc]
      rfl
  exact (hfold 0).trans (Nat.zero_add _)

/-- Each present symbol stands in the sequence once, so the sum over them is within the sum over the table. -/
theorem sum_presentSymbols_le_kraftSum {ls : List Nat} (h12 : ∀ n ∈ ls, n ≤ 12) :
    ((presentSymbols ls).map fun p => 2 ^ (12 - p.2)).sum ≤ kraftSum ls := by
  have hsub : (presentSymbols ls).map Prod.fst ⊆ upTo ls.length := fun s hs => by
    obtain ⟨p, hp, rfl⟩ := List.mem_map.mp hs
    exact List.mem_range.mpr ((mem_presentSymbols h12).mp hp).1
  obtain ⟨syms, hperm, hsublist⟩ := List.subperm_of_subset (presentSymbols_nodup h12) hsub
  calc ((presentSymbols ls).map fun p => 2 ^ (12 - p.2)).sum
      = (((presentSymbols ls).map Prod.fst).map (kraftTerm ls)).sum := by
        rw [List.map_map]
        exact congrArg List.sum (List.map_congr_left fun p hp => (kraftTerm_of_present h12 hp).symm)
    _ = (syms.map (kraftTerm ls)).sum := (hperm.map _).sum_eq.symm
    _ ≤ ((upTo ls.length).map (kraftTerm ls)).sum := (hsublist.map _).sum_le_sum fun _ _ => Nat.zero_le _
    _ = kraftSum ls := (kraftSum_eq_sum_kraftTerm ls).symm

/-! ### The assignment -/

/-- The codeword of the next symbol, of length `n`, after a codeword with its length (R217). -/
def nextCode : Option (Nat × Nat) → Nat → Nat
  | none, _ => 0
  | some (m, c), n => (c + 1) * 2 ^ (n - m)

/-- The codewords of symbols in a given order. -/
def assignCodes : Option (Nat × Nat) → List (Nat × Nat) → List (Nat × Nat × Nat)
  | _, [] => []
  | prev, (s, n) :: ps => (s, n, nextCode prev n) :: assignCodes (some (n, nextCode prev n)) ps

/-- One symbol of the model's assignment: the codewords so far, and the last of them. -/
def assignNext (done : List (Nat × Nat × Nat) × Option (Nat × Nat)) (p : Nat × Nat) : List (Nat × Nat × Nat) × Option (Nat × Nat) :=
  (done.1 ++ [(p.1, p.2, nextCode done.2 p.2)], some (p.2, nextCode done.2 p.2))

theorem codewords_eq_foldl (ls : List Nat) : codewords ls = ((presentSymbols ls).foldl assignNext ([], none)).1 := by
  unfold codewords
  refine congrArg Prod.fst (congrArg (fun f => List.foldl f _ _) (funext fun done => funext fun p => ?_))
  obtain ⟨qs, _ | _⟩ := done <;> rfl

theorem foldl_assignNext (ps : List (Nat × Nat)) (qs : List (Nat × Nat × Nat)) (prev : Option (Nat × Nat)) :
    (ps.foldl assignNext (qs, prev)).1 = qs ++ assignCodes prev ps := by
  induction ps generalizing qs prev with
  | nil => simp [assignCodes]
  | cons p ps ih => simp [assignCodes, assignNext, ih]

theorem codewords_eq_assignCodes (ls : List Nat) : codewords ls = assignCodes none (presentSymbols ls) :=
  (codewords_eq_foldl ls).trans (foldl_assignNext _ [] none)

theorem assignCodes_symbols (prev : Option (Nat × Nat)) (ps : List (Nat × Nat)) :
    (assignCodes prev ps).map (fun q => (q.1, q.2.1)) = ps := by
  induction ps generalizing prev with
  | nil => rfl
  | cons p ps ih => simp [assignCodes, ih]

theorem assignCodes_head {prev : Option (Nat × Nat)} {ps : List (Nat × Nat)} {q : Nat × Nat × Nat}
    (hq : (assignCodes prev ps)[0]? = some q) : q.2.2 = nextCode prev q.2.1 := by
  cases ps with
  | nil => cases hq
  | cons p ps => cases hq; rfl

theorem assignCodes_succ {prev : Option (Nat × Nat)} {ps : List (Nat × Nat)} {i : Nat} {p q : Nat × Nat × Nat}
    (hp : (assignCodes prev ps)[i]? = some p) (hq : (assignCodes prev ps)[i + 1]? = some q) : q.2.2 = nextCode (some p.2) q.2.1 := by
  induction ps generalizing prev i with
  | nil => cases hp
  | cons a ps ih =>
    cases i with
    | zero => cases hp; exact assignCodes_head hq
    | succ i => exact ih hp hq

/-! ### The bit strings that codewords cover -/

/-- The first 12-bit string above those that begin with a codeword of the given length. -/
def codeEnd : Option (Nat × Nat) → Nat
  | none => 0
  | some (n, c) => (c + 1) * 2 ^ (12 - n)

/-- A codeword covers the strings from the end of the one before it on. -/
theorem nextCode_mul {prev : Option (Nat × Nat)} {n : Nat} (hprev : ∀ x ∈ prev, x.1 ≤ n) (hn : n ≤ 12) :
    nextCode prev n * 2 ^ (12 - n) = codeEnd prev := by
  cases prev with
  | none => exact Nat.zero_mul _
  | some x =>
    have hx : x.1 ≤ n := hprev x rfl
    rw [nextCode, codeEnd, Nat.mul_assoc, ← Nat.pow_add]
    congr 2
    omega

theorem codeEnd_nextCode {prev : Option (Nat × Nat)} {n : Nat} (hprev : ∀ x ∈ prev, x.1 ≤ n) (hn : n ≤ 12) :
    codeEnd (some (n, nextCode prev n)) = codeEnd prev + 2 ^ (12 - n) := by
  rw [codeEnd, Nat.succ_mul, nextCode_mul hprev hn]

/-- The codewords of symbols with rising lengths lie side by side. -/
theorem assignCodes_end_le {prev : Option (Nat × Nat)} {ps : List (Nat × Nat)} (hprev : ∀ x ∈ prev, ∀ p ∈ ps, x.1 ≤ p.2)
    (hsorted : ps.Pairwise fun p q => p.2 ≤ q.2) (h12 : ∀ p ∈ ps, p.2 ≤ 12) {q : Nat × Nat × Nat} (hq : q ∈ assignCodes prev ps) :
    codeEnd (some q.2) ≤ codeEnd prev + (ps.map fun p => 2 ^ (12 - p.2)).sum := by
  induction ps generalizing prev with
  | nil => cases hq
  | cons p ps ih =>
    obtain ⟨hfirst, hrest⟩ := List.pairwise_cons.mp hsorted
    obtain ⟨hp, hps⟩ := List.forall_mem_cons.mp h12
    have hend := codeEnd_nextCode (fun x hx => hprev x hx p List.mem_cons_self) hp
    rw [List.map_cons, List.sum_cons, ← Nat.add_assoc, ← hend]
    cases hq with
    | head => exact Nat.le_add_right ..
    | tail _ hq => exact ih (fun x hx => Option.mem_some.mp hx ▸ hfirst) hrest hps hq

theorem codewords_end_le_kraftSum {ls : List Nat} (h12 : ∀ n ∈ ls, n ≤ 12) {q : Nat × Nat × Nat} (hq : q ∈ codewords ls) :
    codeEnd (some q.2) ≤ kraftSum ls := by
  have hsorted : (presentSymbols ls).Pairwise fun p q => p.2 ≤ q.2 := (presentSymbols_sorted ls).imp (by omega)
  have hlengths (p : Nat × Nat) (hp : p ∈ presentSymbols ls) : p.2 ≤ 12 := by
    obtain ⟨hs, hlen, -⟩ := (mem_presentSymbols h12).mp hp
    exact hlen ▸ getD_le_of_forall_le h12 hs
  rw [codewords_eq_assignCodes] at hq
  calc codeEnd (some q.2)
      ≤ codeEnd none + ((presentSymbols ls).map fun p => 2 ^ (12 - p.2)).sum :=
        assignCodes_end_le (by simp) hsorted hlengths hq
    _ ≤ kraftSum ls := by
        rw [codeEnd, Nat.zero_add]
        exact sum_presentSymbols_le_kraftSum h12

end Sys2Proof.Machine
end

section
/-! The statement about code tables. -/

namespace Sys2Proof.Proofs

open Sys2Proof Sys2Proof.Machine

/-- Settles O37: the codewords follow the present symbols along `assignCodes`, side by side, so the string whose value is a Kraft sum
below 1 is above all they cover. -/
theorem codewordsAreCanonical : Obligations.CodewordsAreCanonical := by
  unfold Obligations.CodewordsAreCanonical
  intro ls h12 cs
  have hcs : cs = assignCodes none (presentSymbols ls) := codewords_eq_assignCodes ls
  have hsymbols : cs.map (fun q => (q.1, q.2.1)) = presentSymbols ls := hcs ▸ assignCodes_symbols none _
  refine ⟨fun sym n => ?symbols, ?order, fun p hp => ?first, fun i p q hp hq => ?later,
    fun hk => ⟨kraftSum ls, hk, fun p hp heq => ?uncovered⟩⟩
  case symbols =>
    rw [← mem_presentSymbols h12, ← hsymbols]
    simp
  case order => exact List.pairwise_map.mp (hsymbols ▸ presentSymbols_sorted ls)
  case first =>
    rw [hcs, List.head?_eq_getElem?] at hp
    exact assignCodes_head hp
  case later =>
    rw [hcs] at hp hq
    exact assignCodes_succ hp hq
  case uncovered =>
    have hbelow : kraftSum ls < codeEnd (some p.2) :=
      (Nat.div_lt_iff_lt_mul (Nat.two_pow_pos _)).mp (Nat.lt_succ_of_le heq.le)
    exact absurd (codewords_end_le_kraftSum h12 hp) (Nat.not_le.mpr hbelow)

end Sys2Proof.Proofs
end
